-- ==== Sys2Proof/Word.lean ====
section
/-! DEFINITION. The word types of the Z-65 and their plainest arithmetic (00_scope R3, R4). -/

namespace Sys2Proof

/-- One byte of memory. -/
abbrev Byte := BitVec 8

/-- One 16-bit instruction word (R206). -/
abbrev Half := BitVec 16

/-- One 64-bit scalar register (R17). -/
abbrev Word := BitVec 64

/-- An actor name (R8). -/
abbrev Name := BitVec 64

/-- A context id (R25): home module in [31:22], serial in [21:0]. -/
abbrev CtxId := BitVec 32

/-- A tenant number (R8). -/
abbrev Tenant := BitVec 12

end Sys2Proof
end

