-- ==== Sys2Proof/Machine/Tab.lean ====
section
/-! DEFINITION. Sparse tables as lists of (key, entry) pairs in rising key order, and the byte lists that
messages, descriptors and records are read from (R4: little-endian). -/

namespace Sys2Proof.Machine

/-- A sparse table: an entry that is not listed holds its reset value. (DESIGN CHOICE, log 50.) -/
abbrev Tab (α : Type) := List (Nat × α)

/-- The entry at `k`, if listed. (DESIGN CHOICE, log 50.) -/
def Tab.get? {α : Type} : Tab α → Nat → Option α
  | [], _ => none
  | (j, v) :: t, k => if j = k then some v else Tab.get? t k

/-- Replace or insert the entry at `k`, keeping rising order. (DESIGN CHOICE, log 50.) -/
def Tab.put {α : Type} : Tab α → Nat → α → Tab α
  | [], k, v => [(k, v)]
  | (j, w) :: t, k, v =>
    if j = k then (k, v) :: t
    else if k < j then (k, v) :: (j, w) :: t
    else (j, w) :: Tab.put t k v

/-- Remove the entry at `k`. -/
def Tab.del {α : Type} : Tab α → Nat → Tab α
  | [], _ => []
  | (j, w) :: t, k => if j = k then Tab.del t k else (j, w) :: Tab.del t k

/-- Change the entry at `k`, where one is listed. -/
def Tab.adjust {α : Type} (t : Tab α) (k : Nat) (f : α → α) : Tab α :=
  match t.get? k with
  | some v => t.put k (f v)
  | none => t

/-- Change every listed entry. -/
def Tab.mapVals {α β : Type} (t : Tab α) (f : Nat → α → β) : Tab β :=
  t.map fun e => (e.1, f e.1 e.2)

/-- The lowest number below `n` that is not listed. -/
def Tab.lowestFree {α : Type} (t : Tab α) (n : Nat) : Option Nat :=
  (List.range n).find? fun k => (t.get? k).isNone

/-- The keys rise strictly: the canonical form of a sparse table. -/
abbrev Tab.Sorted {α : Type} (t : Tab α) : Prop := t.Pairwise fun x y => x.1 < y.1

/-- Remove the `n`-th element of a list. -/
def dropAt {α : Type} (l : List α) (n : Nat) : List α := l.take n ++ l.drop (n + 1)

/-- Change the `n`-th element of a list. -/
def modifyAt {α : Type} (l : List α) (n : Nat) (f : α → α) : List α :=
  match l[n]? with
  | some v => l.set n (f v)
  | none => l

/-- The little-endian value of a list of bytes (R4). -/
def leNat : List Byte → Nat
  | [] => 0
  | b :: t => b.toNat + 256 * leNat t

/-- The low `n` bytes of a number, least significant first (R4). -/
def leBytes : Nat → Nat → List Byte
  | 0, _ => []
  | n + 1, v => BitVec.ofNat 8 v :: leBytes n (v / 256)

/-- The `w`-byte little-endian field at offset `o` of a list of bytes; bytes beyond the list are zero. -/
def field (l : List Byte) (o w : Nat) : Nat := leNat ((l.drop o).take w)

/-- Bits [lo + n - 1 : lo] of a number. -/
def bits (v lo n : Nat) : Nat := (v >>> lo) % 2 ^ n

/-- Cut a list into pieces of `n`, `k` of them. -/
def chunks {α : Type} (n : Nat) : Nat → List α → List (List α)
  | 0, _ => []
  | k + 1, l => l.take n :: chunks n k (l.drop n)

/-- Addition that stops at a limit. -/
def satAdd (limit a b : Nat) : Nat := min limit (a + b)

end Sys2Proof.Machine
end

