-- ==== Sys2Proof/Machine/Packet.lean ====
section
/-! DEFINITION. What travels between cores, gateways and the outside: messages, signals, requests, remote operations,
flits, and the records of the host, management and power inputs. -/

namespace Sys2Proof.Machine

open Sys2Proof

/-- The classes of a death (R65, R73). -/
inductive DeathClass where
  | normal | killed | fault | unreachable | escalated | shutdown
  deriving DecidableEq, Repr, Inhabited

/-- The fault codes of R68. -/
inductive FaultCode where
  | illegal | prefixMisuse | priv | regbound | align | bounds | given | shape | format | cellfull | window | diverge
  | image
  deriving DecidableEq, Repr, Inhabited

/-- Why a remote operation, copy or pull ended (R109). -/
inductive CopyStatus where
  | ok | xlate | prot | window | ecc | encrypted | dead
  deriving DecidableEq, Repr, Inhabited

/-- The scopes of R189. -/
inductive Scope where
  | cl | di | mo | pd
  deriving DecidableEq, Repr, Inhabited

/-- The join reference a forked message carries (R285). -/
structure JoinRef where
  core : Nat
  counter : BitVec 6
  owner : Name
  deriving DecidableEq, Repr, Inhabited

/-- A message in its envelope (R36, R37): header, argument words, sender's name and tenant, and whether REPLY sent it. -/
structure Msg where
  dest : Name
  hidx : BitVec 6
  chan : BitVec 2
  prio : BitVec 16
  mflags : BitVec 8
  ctx : CtxId
  a0 : Word
  a1 : Word
  a2 : Word
  a3 : Word
  sender : Name
  tenant : Tenant
  isReply : Bool := false
  join : Option JoinRef := none
  deriving DecidableEq, Repr, Inhabited

/-- The kinds of relationship a table entry records (R70). -/
inductive LinkKind where
  | link | watching | watched
  deriving DecidableEq, Repr, Inhabited

/-- A remote operation's effect at its target window (R302, R304, R305, R434). -/
inductive RemKind where
  | store | load | add | swap | cas | pull
  deriving DecidableEq, Repr, Inhabited

/-- The whole of an operation that travels as several flits (R113): its offset, its length, and its number at its requester. -/
structure Whole where
  off : Nat
  len : Nat
  id : Nat × Nat
  deriving DecidableEq, Repr, Inhabited

/-- A remote operation (R105): key, offset, sender, context, data, and where its answer goes; of one flit of a longer one,
the `whole` (R113). -/
structure RemoteOp where
  kind : RemKind
  key : Word
  off : Nat
  len : Nat
  data : List Byte
  operand : Word
  expected : Word
  counted : Bool
  sender : Name
  tenant : Tenant
  ctx : CtxId
  group : Option (BitVec 16)
  core : Nat
  rid : Nat
  whole : Option Whole := none
  deriving DecidableEq, Repr, Inhabited

/-- Bytes that remote operations reach: of a window by its key, or of a multicast group by a key that no window has. -/
structure Spot where
  key : Word
  off : Nat
  len : Nat
  deriving DecidableEq, Repr, Inhabited

def RemoteOp.spot (o : RemoteOp) : Spot :=
  { key := match o.group with | some g => if o.key = 0#64 then g.setWidth 64 * 16#64 + 1#64 else o.key | none => o.key,
    off := o.off, len := o.len }

/-- A region on its way to its receiver (R99, R100); `id` numbers it at the giver's core. -/
structure Transfer where
  dest : Name
  notice : Msg
  fromCore : Nat
  fromEntry : Nat
  handle : Nat
  giver : Name
  zeroCopy : Bool
  base : Nat
  size : Nat
  attr : BitVec 14
  cidx : Nat
  bytes : List Byte
  id : Nat := 0
  deriving DecidableEq, Repr, Inhabited

/-- What a SPAWN asks of the Yarrow at PLACE (R273, R274); `sup` carries RCNT and the dead name where a supervisor's Yarrow
asks for its child on another module (R84). -/
structure SpawnReq where
  fromCore : Nat
  id : Nat
  spawner : Name
  spawnerSup : Name
  spawnerRestarts : BitVec 16
  tenant : Tenant
  image : BitVec 48
  ilen : BitVec 32
  place : BitVec 26
  dom : Nat
  repl : Bool
  supv : Bool
  pool : Bool
  link : Bool
  a3 : Word
  sup : Option (BitVec 16 × Name) := none
  deriving DecidableEq, Repr, Inhabited

/-- A steward's access to a core table (R359). -/
structure StewardAccess where
  target : Nat
  tbl : BitVec 8
  idx : BitVec 24
  write : Option Word
  core : Nat
  rid : Nat
  deriving DecidableEq, Repr, Inhabited

/-- A START_ROOT whose place is another module's (R401): the tenant, the gateway name, a3 and the reference its root takes. -/
structure RootReq where
  tenant : Tenant
  gw : Name
  image : Nat
  ilen : Nat
  place : Nat
  a3 : Word
  ref : BitVec 32
  deriving DecidableEq, Repr, Inhabited

/-- An algorithm an SPDM requester may offer (R410). -/
inductive SpdmAlg where
  | mlDsa44 | sha3d256 | aes256gcm | other (code : Nat)
  deriving DecidableEq, Repr, Inhabited

/-- The SPDM requests (R410). -/
inductive SpdmReq where
  | getVersion
  | getCapabilities
  | negotiate (algs : List SpdmAlg)
  | getDigests
  | getCertificate
  | challenge (nonce : List Byte)
  | getMeasurements (index : Nat) (nonce : List Byte)
  | keyExchange (nonce : List Byte)
  | finish (session : Nat)
  | endSession (session : Nat)
  deriving DecidableEq, Repr, Inhabited

/-- What gateways and switches tell each other by management flits (R425, R431, R435): heartbeats, probes and their answers, a
group entry to install or to withdraw and the acknowledgement of either, the loss of a module; `idle` only acknowledges on its
link. -/
inductive Mgmt where
  | heartbeat
  | probe
  | probeAns
  | install (entry : Nat) (header : Word) (keys : List Word)
  | withdraw (entry : Nat)
  | installAck (entry : Nat)
  | loss (module : Nat)
  | idle
  deriving DecidableEq, Repr, Inhabited

/-- What the steward firmwares of a pod group tell each other: a root to start and what came of it, with the digest of its
image (R401, R408); a new tenant with its fabric key (R411); a tenant that ends, and has ended (R400); its actors to be killed
(R403); a changed membership record (R419); the sender's FEED (R438); an SPDM request or response (R410). SUSPECT comes from a
gateway of the module itself (R435). -/
inductive FwMsg where
  | rootReq (r : RootReq)
  | rootAns (status : Nat) (root : Name) (digest : BitVec 256)
  | tenantKey (t : Tenant) (key : BitVec 256) (quota : Nat) (confidential : Bool)
  | destroy (t : Tenant)
  | destroyed (t : Tenant)
  | kill (t : Tenant)
  | membership (g : Nat) (words : List (Nat × Word))
  | feed (v : BitVec 16)
  | spdmReq (r : SpdmReq)
  | spdm (what : String) (bytes : List Byte)
  | suspect (module : Nat)
  deriving DecidableEq, Repr, Inhabited

/-- What travels on the mesh and, as flits, between modules. A `core` is numbered through the pod: module times 2^17 plus the
core's number in its module. The first answer to a spawn gives the name its actor will have, 0 for a refusal (R274); the
second says whether a supervisor's Yarrow asked for a child. A retire wave is sent on under its module's number for it, which
the answer names (R132, R204); `copy` is the router's copy of a message for a secondary whose core does not take it yet (R87,
R134). A member's answer and a pull read name the operation at its requester by core and number (R433, R434); `tile` is a part
of a region on its way to another module (R99, R425). -/
inductive Packet where
  | msg (m : Msg)
  | kill (target : Name) (cls : DeathClass) (detail : BitVec 8) (sender : Name)
  | signal (target dead : Name) (w1 w2 w3 : Word) (kind : LinkKind) (ref : BitVec 32)
  | linkReq (mon : Bool) (requester peer : Name) (ref : BitVec 32) (sup : Name) (rst : BitVec 16) (tenant : Tenant)
  | linkAns (mon : Bool) (requester peer : Name) (ref : BitVec 32) (entered : Bool) (sup : Name) (rst : BitVec 16)
  | unlink (mon : Bool) (holder peer : Name) (ref : BitVec 32)
  | advance (owner : Name) (counter : BitVec 6) (n : Nat) (sender : Name)
  | spawn (r : SpawnReq)
  | spawnAck (core id : Nat) (name : Name) (tenant : Tenant)
  | spawnName (core id : Nat) (name : Name) (detail : BitVec 8) (child : Bool) (tenant : Tenant)
  | resReq (sup dead : Name) (cls : DeathClass) (restarts : BitVec 16) (core : Nat)
  | resAns (core : Nat) (dead : Name) (w3 : Word) (restarts : BitVec 16)
  | hash (primary : Name) (n : Nat) (h : Word)
  | remote (op : RemoteOp)
  | combined (ops : List RemoteOp)
  | response (core rid : Nat) (tenant : Tenant) (status : CopyStatus) (data : List Byte)
  | transfer (t : Transfer)
  | tile (dest giver : Name) (core id off : Nat) (data : List Byte)
  | wqQuery (handle : Word) (tenant : Tenant) (core rid : Nat)
  | wqClose (handle : Word) (owner : Name) (core rid : Nat)
  | multicast (group : BitVec 16) (tenant : Tenant) (op : RemoteOp)
  | pullReq (group : BitVec 16) (tenant : Tenant) (off : Nat) (fp : Bool) (core rid : Nat)
  | mcastMember (member : Nat) (op : RemoteOp)
  | mcastAck (group : BitVec 16) (tenant : Tenant) (member : Nat) (status : CopyStatus) (core rid : Nat)
  | pullReply (group : BitVec 16) (tenant : Tenant) (member : Nat) (status : CopyStatus) (data : List Byte) (clear : Bool)
      (core rid : Nat)
  | mergedAck (core rid : Nat) (status : CopyStatus) (bitmap : BitVec 512) (members failed : Nat) (allWindow : Bool)
  | pullRead (group : BitVec 16) (member : Nat) (key : Word) (off : Nat) (tenant : Tenant) (core rid : Nat)
  | reduced (core rid : Nat) (status : CopyStatus) (line : List Byte) (contributors members : Nat)
  | steward (a : StewardAccess)
  | prmt (target : Name) (op : BitVec 2)
  | retireWave (module : Nat) (c : CtxId) (source wave : Nat)
  | waveDone (module wave by_ took skipped : Nat)
  | retired (module : Nat) (c : CtxId)
  | wakeQuery (module core : Nat) (c : CtxId)
  | wakeAns (core : Nat) (c : CtxId) (issued : Bool)
  | manage (module by_ : Nat) (m : Mgmt)
  | firmware (module by_ : Nat) (f : FwMsg)
  | copy (core entry : Nat) (m : Msg)
  | stealReq (victim thief : Nat)
  | stealReply (thief : Nat) (m : Option Msg) (entry : Nat)
  deriving DecidableEq, Repr, Inhabited

/-- The sender of the remote operations of a packet and the bytes they reach. -/
def Packet.spots : Packet → Option (Name × List Spot)
  | .remote o => some (o.sender, [o.spot])
  | .combined os => os.head?.map fun o => (o.sender, os.map RemoteOp.spot)
  | .multicast _ _ o => some (o.sender, [o.spot])
  | .mcastMember _ o => some (o.sender, [{ o.spot with key := o.key }])
  | _ => none

/-- A flit arriving on a port (R425): its routing header, whether its tag verifies, what it carries, and the link sequence
below which its trailer acknowledges what the port has sent. -/
structure WireFlit where
  port : Nat
  header : BitVec 192
  authentic : Bool
  body : Packet
  acked : Nat := 0
  deriving DecidableEq, Repr, Inhabited

/-- The eye margin of a lane under calibration: its height in 0.1 mV, its width in 0.01 UI (R428, R457). -/
structure EyeMargin where
  height : Nat
  width : Nat
  deriving DecidableEq, Repr, Inhabited

/-- The TDISP requests that move a TDI between its states (R393, R394). -/
inductive TdispReq where
  | lock | start | stop | error
  deriving DecidableEq, Repr, Inhabited

/-- The discovery commands of PLDM type 0 (R458). -/
inductive PldmBase where
  | getTid
  | setTid (tid : Byte)
  | getVersion (type : Byte)
  | getTypes
  | getCommands (type : Byte)
  deriving DecidableEq, Repr, Inhabited

/-- MCTP control messages, and the messages of PLDM type 0 (R458). -/
inductive MctpCmd where
  | setEndpointId (eid : Byte)
  | getEndpointId
  | getMessageTypes
  | pldmBase (cmd : PldmBase)
  deriving DecidableEq, Repr, Inhabited

/-- One firmware slot of the flash (R407). -/
structure FlashSlot where
  svn : Nat
  digest : BitVec 256
  signature : List Byte
  image : List Byte
  deriving DecidableEq, Repr, Inhabited

/-- What a combining router does to two partials (R159, R365, R366, R183). -/
inductive CombineOp where
  | fp32Add | int32Add | fp32Max | fp32Min | bytewiseMax
  deriving DecidableEq, Repr, Inhabited

/-- A partial of a collective (R366): elements of 32 bits, contributor count and contributor bitmap. -/
structure Partial where
  elems : List (BitVec 32)
  count : Nat
  bitmap : BitVec 1024
  deriving DecidableEq, Repr, Inhabited

/-- One combining step of a mesh router at a rank of the tree: the live-member bitmap that the collective's messages carry
(R437), the partial so far, the next child's and whether that is the second child, whether the collective is a mean (R159,
R366), and the tenant it is of (R454). A child that died with its partial gives an empty one (R376). -/
structure CombineStep where
  op : CombineOp
  mean : Bool
  live : BitVec 1024
  rank : Nat
  second : Bool := false
  tenant : Tenant := 0#12
  acc : Partial
  child : Partial
  deriving DecidableEq, Repr, Inhabited

end Sys2Proof.Machine
end

