-- ==== Sys2Proof/Config.lean ====
section
/-! DEFINITION. What the spec leaves to an implementation, or leaves open: free values (opaque, so that no proof can see
them), the cryptographic functions the spec names and does not define, and the fixed sizes of the part. -/

namespace Sys2Proof.Config

/-- Entropy bits of the source of R168 and R355, one fresh word per number: a free value. (DESIGN CHOICE, log 23.) -/
opaque entropy : Nat → Word

/-- A byte of an HBM line read under a key other than the one that wrote it (R117): a free value.
(DESIGN CHOICE, log 21.) -/
opaque wrongKeyByte : BitVec 512 → BitVec 512 → Nat → Byte

/-- Whether an allowed choice between two outcomes falls on the first; the number is that of the draw.
(DESIGN CHOICE, log 3; DEDUCED, log 20.) -/
opaque freeBool : Nat → Bool

/-- The bits of a correctly rounded result that the model's intervals leave undecided (R460): format, operand.
(DESIGN CHOICE, log 22.) -/
opaque freeRound : Nat → Nat → Nat

/-- The predicted power of a die at an operating point, in deciwatts, from its rail sample and its present point (R447).
(DESIGN CHOICE, log 31.) -/
opaque predictedPower : Nat → Nat → Nat → Nat

/-- The contact resistance of the input connector in 0.1 mΩ, from a rail sample (R457). (DESIGN CHOICE, log 31.) -/
opaque contactResistance : Nat → Nat → Nat → Nat

/-- The contact resistance of an Adeux connector in 0.1 mΩ, from its port and the draw (R457). (DESIGN CHOICE, log 31.) -/
opaque laneContact : Nat → Nat → Nat

/-- The version and the commands of a PLDM type, which the spec does not state (R458). (PRESUMED, log 73.) -/
opaque pldmVersion : Byte → List Byte
/-- (PRESUMED, log 73.) -/
opaque pldmCommands : Byte → List Byte

/-- The keys that firmware draws for a tenant (R411), by the number of the draw. (DESIGN CHOICE, log 33.) -/
opaque hbmKeyDraw : Nat → BitVec 512
/-- (DESIGN CHOICE, log 33.) -/
opaque fabricKeyDraw : Nat → BitVec 256

/-- The key under which tenant 0's flits are sealed, which no rule installs (R412). (DESIGN CHOICE, log 44.) -/
opaque fabricKey0 : BitVec 256

/-- The tag of AES-256-GCM over a flit (R412, R425): key, initialisation vector, header, payload. (DESIGN CHOICE, log 33.) -/
opaque gcmTag : BitVec 256 → BitVec 96 → BitVec 192 → Machine.Packet → BitVec 128

/-- TIME after a link timestamp (R439): own time, pod time, the draw. (DESIGN CHOICE, log 32.) -/
opaque disciplined : Nat → Nat → Nat → Nat

/-- SHA3-256 (R407), as a function of the bytes hashed. (DESIGN CHOICE, log 33.) -/
opaque sha3 : List Byte → BitVec 256

/-- ML-DSA-44: public-key hash of a seed, signature of a message under a seed, verification under a public-key hash (R407,
R409). (DESIGN CHOICE, log 33.) -/
opaque mlDsaPublic : BitVec 256 → List Byte
/-- (DESIGN CHOICE, log 33.) -/
opaque mlDsaSign : BitVec 256 → List Byte → List Byte
/-- (DESIGN CHOICE, log 33.) -/
opaque mlDsaVerify : BitVec 256 → List Byte → List Byte → Bool

/-- The boot ROM and the fuse configuration, whose digests are measured (R408). (DESIGN CHOICE, log 33.) -/
opaque bootRom : List Byte
/-- (DESIGN CHOICE, log 33.) -/
opaque fuseConfig : List Byte

/-- Measurement blocks 2 and 3 while no firmware image is chosen, which the spec does not state (R407, R408).
(PRESUMED, log 28.) -/
opaque noImage : Nat → List Byte

/-- The vendor root and identity certificates of SPDM slot 0 (R409). (PRESUMED, log 28.) -/
opaque vendorCert : List Byte
/-- (PRESUMED, log 28.) -/
opaque identityCert : List Byte

/-- The nonce of an SPDM request of this module, by the number of the draw (R410). (DESIGN CHOICE, log 33.) -/
opaque nonce : Nat → List Byte

/-- Secured-message bytes of an SPDM session (R410): the sealed form of a response. (PRESUMED, log 28.) -/
opaque sealMessage : Nat → List Byte → List Byte

/-- Ordinary cores of a module, a mesh of 256 by 256 (R1, R11). -/
def cores : Nat := 65536
/-- Bytes of one TCM (R31). -/
def tcmSize : Nat := 0x60000
/-- First local address of the scratchpad, and its size (R31). -/
def spadBase : Nat := 0x100000
def spadSize : Nat := 0x100000
/-- Die shared SRAM of one die (R90). -/
def dieSize : Nat := 0x4000000
/-- Bytes of one HBM stack (R90). -/
def stackSize : Nat := 0x1000000000

end Sys2Proof.Config
end

