-- ==== Sys2Proof/Syntax.lean ====
section
/-! DEFINITION. The steps of the Z-65 as one inductive: every row of the operation table, instruction or event. Register,
predicate, shape and accumulator fields are numbers of their own width; immediates are already formed by R210; a
modifier word is an operation width (R211, R231) or an ordering with its scope (R189). An event names what it acts on:
a packet by its place `n` in the list of packets in flight, a table entry by its number, an input by its content. -/

namespace Sys2Proof

open Machine

/-- A scalar register field (R212). -/
abbrev Reg := BitVec 5
/-- A predicate field (R21). -/
abbrev Pred := BitVec 3
/-- A shape register field (R19). -/
abbrev ShapeReg := BitVec 4
/-- An accumulator field (R20). -/
abbrev AccReg := BitVec 2

/-- Operation widths of modifier class S (R231). -/
inductive OpWidth where
  | w64 | w32 | w16 | w8
  deriving DecidableEq, Repr, Inhabited

/-- Access sizes of loads and stores (R249). -/
inductive Size where
  | b | h | w | d
  deriving DecidableEq, Repr, Inhabited

/-- Ordering with its scope (R189). -/
inductive MemOrd where
  | relaxed
  | acquire (s : Scope)
  | release (s : Scope)
  | acqRel (s : Scope)
  deriving DecidableEq, Repr, Inhabited

/-- Conditions of CMP (R235). -/
inductive CmpCond where
  | eq | ne | lt | ge
  deriving DecidableEq, Repr, Inhabited

/-- Conditions of CMPU (R235). -/
inductive CmpuCond where
  | ltu | geu
  deriving DecidableEq, Repr, Inhabited

/-- Operations of PLOG (R237). -/
inductive PlogOp where
  | and | or | xor | andn
  deriving DecidableEq, Repr, Inhabited

/-- Conditions of FCMP and DCMP (R241). -/
inductive FCond where
  | eq | lt | le | un
  deriving DecidableEq, Repr, Inhabited

/-- Conditions of VCMP (R323). -/
inductive VCond where
  | eq | ne | lt | le | un
  deriving DecidableEq, Repr, Inhabited

/-- Second source of a vector form: a shape, or with S = 1 a scalar (R315). -/
inductive VSrc where
  | shape (d : ShapeReg)
  | scalar (r : Reg)
  deriving DecidableEq, Repr, Inhabited

/-- Accumulator kinds (R330). -/
inductive AccKind where
  | f32 | i32 | f64
  deriving DecidableEq, Repr, Inhabited

/-- Operations of RATOM (R305). -/
inductive AtomOp where
  | add | swp | cas
  deriving DecidableEq, Repr, Inhabited

/-- Modes of CPYE (R303). -/
inductive ExfMode where
  | encE4M3 | encE5M2 | decode
  deriving DecidableEq, Repr, Inhabited

/-- A request of the host to registers of a function: which function, and whether it came sealed on the function's selective
stream (R394, R395). -/
structure HostReq where
  fn : Nat
  sealed : Bool
  deriving DecidableEq, Repr, Inhabited

/-- Every step of the operation table. -/
inductive Instr where
  /-- Adds two scalar registers at the selected width and writes the sign-extended result. (R232) -/
  | add (a b c : Reg) (w : OpWidth)
  /-- Subtracts two scalar registers at the selected width. (R232) -/
  | sub (a b c : Reg) (w : OpWidth)
  /-- Bitwise AND of two scalar registers. (R232) -/
  | and (a b c : Reg) (w : OpWidth)
  /-- Bitwise OR of two scalar registers. (R232) -/
  | or (a b c : Reg) (w : OpWidth)
  /-- Bitwise XOR of two scalar registers. (R232) -/
  | xor (a b c : Reg) (w : OpWidth)
  /-- Logical left shift by the second operand modulo the width. (R232) -/
  | shl (a b c : Reg) (w : OpWidth)
  /-- Logical right shift by the second operand modulo the width. (R232) -/
  | shr (a b c : Reg) (w : OpWidth)
  /-- Arithmetic right shift by the second operand modulo the width. (R232) -/
  | sra (a b c : Reg) (w : OpWidth)
  /-- Low-part product of two scalar registers. (R232) -/
  | mul (a b c : Reg) (w : OpWidth)
  /-- High half of the signed product. (R232) -/
  | mulh (a b c : Reg) (w : OpWidth)
  /-- High half of the unsigned product. (R232) -/
  | mulhu (a b c : Reg) (w : OpWidth)
  /-- Signed division truncated toward zero, with the special cases of division by zero and overflow. (R233) -/
  | div (a b c : Reg) (w : OpWidth)
  /-- Unsigned division with the division-by-zero case. (R233) -/
  | divu (a b c : Reg) (w : OpWidth)
  /-- Signed remainder with the sign of the dividend. (R233) -/
  | rem (a b c : Reg) (w : OpWidth)
  /-- Unsigned remainder. (R233) -/
  | remu (a b c : Reg) (w : OpWidth)
  /-- Adds an immediate to a scalar register. (R234) -/
  | addi (a : Reg) (imm : Word)
  /-- ANDs an immediate into a scalar register. (R234) -/
  | andi (a : Reg) (imm : Word)
  /-- Shifts a scalar register left by an immediate. (R234) -/
  | shli (a : Reg) (imm : Word)
  /-- Shifts a scalar register right logically by an immediate. (R234) -/
  | shri (a : Reg) (imm : Word)
  /-- Shifts a scalar register right arithmetically by an immediate. (R234) -/
  | srai (a : Reg) (imm : Word)
  /-- Loads an immediate into a scalar register. (R234) -/
  | li (a : Reg) (imm : Word)
  /-- ORs a zero-extended immediate into a scalar register. (R234) -/
  | ori (a : Reg) (imm : Word)
  /-- XORs an immediate into a scalar register. (R234) -/
  | xori (a : Reg) (imm : Word)
  /-- Compares two registers as signed values and writes the outcome to a predicate. (R235) -/
  | cmp (cond : CmpCond) (p : Pred) (b c : Reg)
  /-- Compares two registers as unsigned values and writes the outcome to a predicate. (R235) -/
  | cmpu (cond : CmpuCond) (p : Pred) (b c : Reg)
  /-- Copies a source register into the destination when a predicate is 1. (R236) -/
  | sel (a b : Reg) (p : Pred)
  /-- Combines two predicates by AND, OR, XOR or ANDN into a predicate. (R237) -/
  | plog (op : PlogOp) (p b c : Pred)
  /-- Extracts a bit field and zero-extends it. (R238) -/
  | extu (a b : Reg) (pos len : BitVec 6)
  /-- Extracts a bit field and sign-extends it. (R238) -/
  | exts (a b : Reg) (pos len : BitVec 6)
  /-- Inserts low bits of a source into a bit field of the destination. (R238) -/
  | ins (a b : Reg) (pos len : BitVec 6)
  /-- Counts leading zero bits at the selected width. (R232) -/
  | clz (a b : Reg) (w : OpWidth)
  /-- Counts trailing zero bits at the selected width. (R232) -/
  | ctz (a b : Reg) (w : OpWidth)
  /-- Counts one bits at the selected width. (R232) -/
  | popc (a b : Reg) (w : OpWidth)
  /-- Loads a byte from the current context view and zero-extends it. (R251) -/
  | ldB (a b : Reg) (off : Word) (ord : MemOrd)
  /-- Loads a halfword from the current context view. (R251) -/
  | ldH (a b : Reg) (off : Word) (ord : MemOrd)
  /-- Loads a word from the current context view. (R251) -/
  | ldW (a b : Reg) (off : Word) (ord : MemOrd)
  /-- Loads a doubleword from the current context view. (R251) -/
  | ldD (a b : Reg) (off : Word) (ord : MemOrd)
  /-- Stores a byte through the current context view into the store buffer. (R252) -/
  | stB (a b : Reg) (off : Word) (ord : MemOrd)
  /-- Stores a halfword through the current context view. (R252) -/
  | stH (a b : Reg) (off : Word) (ord : MemOrd)
  /-- Stores a word through the current context view. (R252) -/
  | stW (a b : Reg) (off : Word) (ord : MemOrd)
  /-- Stores a doubleword through the current context view. (R252) -/
  | stD (a b : Reg) (off : Word) (ord : MemOrd)
  /-- Loads from the view of the context named in register C after the context checks. (R256) -/
  | ldx (size : Size) (a b c : Reg) (off : Word) (ord : MemOrd)
  /-- Stores into the view of the context named in register C on a PRIVX region. (R256) -/
  | stx (size : Size) (a b c : Reg) (off : Word) (ord : MemOrd)
  /-- Atomically adds to a local doubleword and returns the old value. (R254) -/
  | aadd (a b c : Reg) (off : Word) (ord : MemOrd)
  /-- Atomically swaps a local doubleword and returns the old value. (R254) -/
  | aswp (a b c : Reg) (off : Word) (ord : MemOrd)
  /-- Atomically compares and swaps a local doubleword. (R254) -/
  | acas (a b c : Reg) (off : Word) (ord : MemOrd)
  /-- Branches to a PC-relative target. (R244) -/
  | br (off : Word)
  /-- Branches to a PC-relative target and writes the link register. (R244) -/
  | call (off : Word)
  /-- Branches when a predicate is 1. (R245) -/
  | brp (p : Pred) (off : Word)
  /-- Branches when a predicate is 0. (R245) -/
  | brpF (p : Pred) (off : Word)
  /-- Jumps to the address in a register after target checks. (R246) -/
  | jr (b : Reg)
  /-- Jumps to the address in a register and writes the link register. (R246) -/
  | callr (b : Reg)
  /-- Sends a message built from a five-register block to a named actor. (R268) -/
  | send (a b : Reg) (ctx : Option Reg) (ord : MemOrd)
  /-- Sends a message from a block to the reply name of the current message. (R268) -/
  | reply (b : Reg) (ctx : Option Reg) (ord : MemOrd)
  /-- Ends the handler, releasing registers, record and slot. (R248) -/
  | done
  /-- FP32 addition rounded to nearest even. (R240) -/
  | fadd (a b c : Reg)
  /-- FP32 subtraction. (R240) -/
  | fsub (a b c : Reg)
  /-- FP32 multiplication. (R240) -/
  | fmul (a b c : Reg)
  /-- FP32 fused multiply-add with one rounding. (R240) -/
  | fma (a b c : Reg)
  /-- Compares FP32 values into a predicate. (R241) -/
  | fcmp (cond : FCond) (p : Pred) (b c : Reg)
  /-- An encoding that names no instruction takes an ILLEGAL fault. (R228) -/
  | unassignedEncoding
  /-- FP32 division. (R242) -/
  | fdiv (a b c : Reg)
  /-- FP32 square root. (R242) -/
  | fsqrt (a b : Reg)
  /-- FP32 minimum. (R242) -/
  | fmin (a b c : Reg)
  /-- FP32 maximum. (R242) -/
  | fmax (a b c : Reg)
  /-- Converts a scalar between formats by the code in D. (R243) -/
  | fcvt (code : BitVec 4) (a b : Reg)
  /-- FP64 addition. (R242) -/
  | dadd (a b c : Reg)
  /-- FP64 subtraction. (R242) -/
  | dsub (a b c : Reg)
  /-- FP64 multiplication. (R242) -/
  | dmul (a b c : Reg)
  /-- FP64 fused multiply-add. (R242) -/
  | dfma (a b c : Reg)
  /-- Compares FP64 values into a predicate. (R241) -/
  | dcmp (cond : FCond) (p : Pred) (b c : Reg)
  /-- FP64 division. (R242) -/
  | ddiv (a b c : Reg)
  /-- FP64 square root. (R242) -/
  | dsqrt (a b : Reg)
  /-- FP64 minimum. (R242) -/
  | dmin (a b c : Reg)
  /-- FP64 maximum. (R242) -/
  | dmax (a b c : Reg)
  /-- Loads and checks a 32-byte shape record into a shape register. (R313) -/
  | dld (d : ShapeReg) (b : Reg) (off : Word)
  /-- Loads a shape record replacing its BASE with a register value. (R313) -/
  | dldBase (d : ShapeReg) (b : Reg) (off : Word) (c : Reg)
  /-- Elementwise addition over shapes. (R321) -/
  | vadd (a b : ShapeReg) (c : VSrc)
  /-- Elementwise subtraction over shapes. (R321) -/
  | vsub (a b : ShapeReg) (c : VSrc)
  /-- Elementwise multiplication over shapes. (R321) -/
  | vmul (a b : ShapeReg) (c : VSrc)
  /-- Elementwise fused multiply-add into the destination. (R321) -/
  | vfma (a b : ShapeReg) (c : VSrc)
  /-- Elementwise division. (R321) -/
  | vdiv (a b : ShapeReg) (c : VSrc)
  /-- Elementwise minimum. (R321) -/
  | vmin (a b : ShapeReg) (c : VSrc)
  /-- Elementwise maximum. (R321) -/
  | vmax (a b : ShapeReg) (c : VSrc)
  /-- Elementwise absolute value. (R321) -/
  | vabs (a b : ShapeReg)
  /-- Elementwise negation. (R321) -/
  | vneg (a b : ShapeReg)
  /-- Elementwise bitwise AND. (R321) -/
  | vand (a b : ShapeReg) (c : VSrc)
  /-- Elementwise bitwise OR. (R321) -/
  | vor (a b : ShapeReg) (c : VSrc)
  /-- Elementwise bitwise XOR. (R321) -/
  | vxor (a b : ShapeReg) (c : VSrc)
  /-- Elementwise left shift. (R321) -/
  | vshl (a b : ShapeReg) (c : VSrc)
  /-- Elementwise logical right shift. (R321) -/
  | vshr (a b : ShapeReg) (c : VSrc)
  /-- Elementwise arithmetic right shift. (R321) -/
  | vsra (a b : ShapeReg) (c : VSrc)
  /-- Elementwise correctly rounded exponential. (R322) -/
  | vexp (a b : ShapeReg)
  /-- Elementwise correctly rounded natural logarithm. (R322) -/
  | vlog (a b : ShapeReg)
  /-- Elementwise square root. (R322) -/
  | vsqrt (a b : ShapeReg)
  /-- Elementwise reciprocal square root. (R322) -/
  | vrsq (a b : ShapeReg)
  /-- Elementwise reciprocal. (R322) -/
  | vrcp (a b : ShapeReg)
  /-- Elementwise hyperbolic tangent. (R322) -/
  | vtanh (a b : ShapeReg)
  /-- Elementwise logistic sigmoid. (R322) -/
  | vsig (a b : ShapeReg)
  /-- Elementwise comparison writing UINT8 0 or 1. (R323) -/
  | vcmp (cond : VCond) (a b : ShapeReg) (c : VSrc)
  /-- Elementwise selection by a mask shape. (R323) -/
  | vsel (a m b : ShapeReg) (c : VSrc)
  /-- Elementwise format conversion. (R323) -/
  | vcvt (a b : ShapeReg)
  /-- Fills a destination shape with a scalar pattern. (R323) -/
  | vfill (a : ShapeReg) (b : Reg)
  /-- Sums along dimension 0 in the fixed lane and tree order. (R324) -/
  | vrsum (a b : ShapeReg)
  /-- Maximum along dimension 0. (R324) -/
  | vrmax (a b : ShapeReg)
  /-- Minimum along dimension 0. (R324) -/
  | vrmin (a b : ShapeReg)
  /-- Gathers along dimension 0 by an index shape. (R325) -/
  | vperm (a b c : ShapeReg)
  /-- Transposes dimensions 0 and 1. (R325) -/
  | vtrn (a b : ShapeReg)
  /-- Sends 16 slices of a shape as counted remote stores to cluster windows. (R328) -/
  | vxch (a : ShapeReg) (b c : Reg)
  /-- Multiplies A and B tiles into an accumulator for one K block. (R335) -/
  | mma (n : AccReg) (a b c : Reg)
  /-- MMA with B stored transposed. (R335) -/
  | mmat (n : AccReg) (a b c : Reg)
  /-- MMA with a 2:4 sparse compressed A. (R336) -/
  | msp (n : AccReg) (a b c : Reg)
  /-- Sparse MMA with B stored transposed. (R336) -/
  | mspt (n : AccReg) (a b c : Reg)
  /-- Zeroes an accumulator tile. (R337) -/
  | mzero (n : AccReg)
  /-- Loads an accumulator from memory in FMTC, widening exactly. (R338) -/
  | mld (k : AccKind) (n : AccReg) (b c : Reg)
  /-- Stores an accumulator to memory converting to FMTC. (R338) -/
  | mst (k : AccKind) (e5 : Bool) (n : AccReg) (b c : Reg)
  /-- Copies one accumulator tile to another. (R337) -/
  | mcp (d s : AccReg)
  /-- Adds one accumulator tile into another by kind. (R337) -/
  | madd (k : AccKind) (d s : AccReg)
  /-- Transposes a 16 x 16 tile of 32-bit elements. (R337) -/
  | mtrn (d s : AccReg)
  /-- Transposes an 8 x 8 tile of 64-bit elements. (R337) -/
  | mtrnD (d s : AccReg)
  /-- Inserts a vector of keys into a quantile sketch. (R345) -/
  | qski (a : Reg) (b : ShapeReg)
  /-- Merges one quantile sketch into another. (R346) -/
  | qskm (a b : Reg)
  /-- Queries a quantile and lands the key. (R347) -/
  | qskq (a b c : Reg)
  /-- Queries the weighted rank of a value and lands it. (R347) -/
  | qskr (a b c : Reg)
  /-- Resets a quantile sketch. (R348) -/
  | qskn (a b : Reg)
  /-- Inserts keys into a heavy-hitter list. (R345) -/
  | hhi (a : Reg) (b : ShapeReg)
  /-- Merges one heavy-hitter list into another. (R346) -/
  | hhm (a b : Reg)
  /-- Writes the list entries in count order and lands USED. (R347) -/
  | hhq (a b c : Reg)
  /-- Resets a heavy-hitter list with a key format. (R348) -/
  | hhn (fmt : BitVec 6) (a b : Reg)
  /-- Inserts keys into a distinct-count register set. (R345) -/
  | dci (a : Reg) (b : ShapeReg)
  /-- Merges distinct-count registers by bytewise maximum. (R346) -/
  | dcm (a b : Reg)
  /-- Lands the distinct-count estimate. (R347) -/
  | dce (a b : Reg)
  /-- Resets a distinct-count register set with a key format. (R348) -/
  | dcn (fmt : BitVec 6) (a b : Reg)
  /-- Writes one keyed counter-based random draw to a register. (R349) -/
  | rngd (a b c : Reg)
  /-- Fills a shape with keyed counter-based random draws. (R350) -/
  | rngv (a : ShapeReg) (b c : Reg)
  /-- Sends a message whose header and arguments are read from memory. (R271) -/
  | sendp (b : Reg) (ord : MemOrd)
  /-- Requests Yarrow at PLACE to create an actor from an image; the name lands. (R274) -/
  | spawn (a b c : Reg)
  /-- Sends a kill with a reason to a named actor. (R275) -/
  | kill (a b : Reg)
  /-- Ends the own actor with class NORMAL or SHUTDOWN. (R276) -/
  | exit (b : Reg)
  /-- Writes a local link entry and sends a link request to the peer. (R277) -/
  | link (b : Reg)
  /-- Removes both ends of a link. (R277) -/
  | unlink (b : Reg)
  /-- Creates a monitor on a target and writes its REF. (R277) -/
  | mon (a b : Reg)
  /-- Removes a monitor by REF. (R277) -/
  | demon (b : Reg)
  /-- Returns and sets the exit trap. (R278) -/
  | trapx (a b : Reg)
  /-- Arms a timer that sends a block message to SELF at a pod time. (R279) -/
  | timer (a b c : Reg)
  /-- Cancels an unfired owned timer by handle. (R280) -/
  | tcancel (p : Pred) (b : Reg)
  /-- Sets the watchdog period and restarts the watchdog. (R281) -/
  | watch (b : Reg)
  /-- Restarts the watchdog. (R281) -/
  | wkick
  /-- Pushes a block message at the owner end of the pool deque. (R285) -/
  | fork (a b : Reg)
  /-- Sends an advance of 1 to the message's join reference and clears it. (R286) -/
  | join
  /-- Parks a block message on an owned join counter with a target. (R283) -/
  | arm (a b c : Reg)
  /-- Sends an advance to a join counter of a named actor. (R284) -/
  | dec (a b : Reg) (ord : MemOrd)
  /-- Takes the lowest free join counter for SELF. (R282) -/
  | jcget (a : Reg)
  /-- Frees an owned join counter. (R282) -/
  | jcput (b : Reg)
  /-- Starts a child of the registered table and lands its name. (R288) -/
  | rstart (a b : Reg)
  /-- Registers a child specification table with Yarrow. (R287) -/
  | supv (b : Reg)
  /-- Returns a field of SELF's actor-table entry or related state. (R289) -/
  | selfq (sel : BitVec 3) (a b : Reg)
  /-- Frees SELF's oldest reply-wait entry for a peer. (R270) -/
  | rdln (p : Pred) (b : Reg)
  /-- Hands out the next fresh context id reserved at dispatch. (R258) -/
  | ctxnew (a : Reg)
  /-- Changes CTX to a context id when it can be mapped and recalled. (R260) -/
  | ctxset (p : Pred) (b : Reg)
  /-- Starts the retire wave of a context id. (R261) -/
  | ctxret (b : Reg)
  /-- Returns a context-map entry by slot or by id. (R262) -/
  | ctxq (byId : Bool) (a b : Reg)
  /-- Starts or checks the recall of a context's overflow records. (R259) -/
  | ctxpf (p : Pred) (b : Reg)
  /-- Writes a present landing entry into its register and frees it. (R263) -/
  | commit (n : BitVec 3)
  /-- Allocates a region and lands its handle and BASE. (R293) -/
  | ralloc (a b c : Reg)
  /-- Frees a region handle after its queued operations. (R294) -/
  | rfree (b : Reg)
  /-- Hands a whole region to a receiver with a notice. (R295) -/
  | give (a b c : Reg)
  /-- Opens a window from a grant record and writes its key. (R296) -/
  | grant (a b : Reg)
  /-- Ends an owned window. (R297) -/
  | revoke (b : Reg)
  /-- Publishes or withdraws a window to its group's reduce aperture. (R297) -/
  | publish (withdraw : Bool) (b : Reg)
  /-- Queues a copy between local, die and HBM endpoints. (R302) -/
  | cpy (b : Reg)
  /-- Queues a copy with one window end, optionally counted. (R302) -/
  | cpyc (b : Reg) (ord : MemOrd)
  /-- Deals slices of a local source to a list of windows. (R302) -/
  | deal (b : Reg) (ord : MemOrd)
  /-- Gathers slices from a list of windows into a local destination. (R302) -/
  | gath (b : Reg)
  /-- Sends an uncounted remote store of n bytes to a window. (R304) -/
  | rst (n : BitVec 5) (a b c : Reg) (ord : MemOrd)
  /-- Sends a counted remote store of n bytes to a window. (R304) -/
  | rstc (n : BitVec 5) (a b c : Reg) (ord : MemOrd)
  /-- Reads a remote dword through a window and lands it. (R305) -/
  | rld (p : Pred) (a b c : Reg) (ord : MemOrd)
  /-- Performs a remote ADD, SWP or CAS on a window dword and lands the old value. (R305) -/
  | ratom (op : AtomOp) (p : Pred) (a b c : Reg) (ord : MemOrd)
  /-- Stores a line to every member window of a multicast group. (R306) -/
  | mcst (b : Reg) (ord : MemOrd)
  /-- Pulls the switch-summed line of a group's reduce aperture. (R307) -/
  | pull (b : Reg)
  /-- Queries a work distributor for its next index. (R309) -/
  | wqQuery (a b : Reg)
  /-- Opens a work distributor over an X by Y grid. (R309) -/
  | wqOpen (a b : Reg)
  /-- Sends a close to a work distributor. (R309) -/
  | wqClose (b : Reg)
  /-- Remote fence that optionally lands whether covered operations avoided DEAD. (R310) -/
  | fenceR (sc : Scope) (p : Pred)
  /-- Encodes FP8 arrays to EXF8 blocks or decodes them. (R303) -/
  | cpye (m : ExfMode) (b : Reg)
  /-- Reads a control register. (R353) -/
  | crd (a : Reg) (n : BitVec 8)
  /-- Reads FLAGS after waiting for the handler's queued engine operations. (R29) -/
  | crdFlags (a : Reg)
  /-- Draws 64 fresh entropy bits on a steward core. (R355) -/
  | crdEntr (a : Reg)
  /-- Writes a control register that has no row of its own. (R354) -/
  | cwr (n : BitVec 8) (b : Reg)
  /-- Writes a mailbox configuration that takes effect at DONE. (R27) -/
  | cwrMbox (b : Reg)
  /-- Writes the exit trap effective from retirement. (R278) -/
  | cwrTrapx (b : Reg)
  /-- Writes the watchdog period and restarts the watchdog. (R281) -/
  | cwrWatch (b : Reg)
  /-- Writes FLAGS after waiting for queued engine operations. (R158) -/
  | cwrFlags (b : Reg)
  /-- Orders earlier writes before later writes and messages within a scope. (R356) -/
  | fence (sc : Scope)
  /-- Orders earlier HBM writes before later page walks within a scope. (R356) -/
  | tfence (sc : Scope)
  /-- Sends a block message to the core's steward service. (R357) -/
  | sysreq (b : Reg) (ord : MemOrd)
  /-- Holds the handler and notifies the service when debug is enabled. (R358) -/
  | brk (n : BitVec 6)
  /-- Occupies its issue cycle with no effect. (R352) -/
  | nop
  /-- Steward reads a word of a core's tables by system address. (R359) -/
  | strd (p : Pred) (a b : Reg)
  /-- Steward writes a word of a RW core table that has no row of its own. (R359) -/
  | stwr (p : Pred) (b c : Reg)
  /-- Steward write of a slice-table entry, applied at the next slice boundary. (R360) -/
  | sliceTableWrite (n : Nat)
  /-- Steward write of a core configuration word, refused outside its limits. (R360) -/
  | coreConfigurationWrite (n : Nat)
  /-- Steward write of the tag allocator CTRL or WITHHELD words. (R417) -/
  | tagAllocatorWrite (n : Nat)
  /-- Steward write of a tenant and stack page-table root. (R413) -/
  | pageTableRootWrite (n : Nat)
  /-- Steward write of a membership record word. (R419) -/
  | membershipWrite (n : Nat)
  /-- Steward write of a group-table header or key, installing or withdrawing at switches. (R431) -/
  | groupTableWrite (n : Nat)
  /-- Installs a tenant key at gateways and zeroes the record. (R361) -/
  | keyset (p : Pred) (b : Reg)
  /-- Removes a tenant key of a use. (R361) -/
  | keydel (p : Pred) (b : Reg)
  /-- Starts a translation shoot-down wave. (R362) -/
  | waveShootdown (b c : Reg)
  /-- Starts a retire wave for any tenant's id. (R362) -/
  | waveRetire (b c : Reg)
  /-- Starts a module-loss wave across the steward's module. (R362) -/
  | waveModuleLoss (b c : Reg)
  /-- Requests pre-emption of an actor's running handlers. (R363) -/
  | prmtPreempt (b : Reg)
  /-- Requests pre-emption leaving the handlers HELD. (R363) -/
  | prmtHold (b : Reg)
  /-- Requests release of an actor's HELD handlers. (R363) -/
  | prmtRelease (b : Reg)
  /-- A pre-emption, hold or release request acts at the target core. (R363) -/
  | prmtArrival (n : Nat)
  /-- A steward table access is performed atomically at the target core and answered. (R359) -/
  | stewardAccessArrival (n : Nat)
  /-- A message reaches its receiver's core and is admitted, refused or discarded. (R41) -/
  | messageArrival (n : Nat)
  /-- A message for a pool actor enters the far end of the pool deque. (R56) -/
  | poolArrival (n : Nat)
  /-- The dispatcher selects an eligible candidate and starts its handler. (R52) -/
  | dispatch (core : Nat)
  /-- Recall of a context's overflow records ends and the message becomes a candidate. (R125) -/
  | dispatchRecallDone (core : Nat) (i : Nat)
  /-- A pre-empted handler is reloaded into a free slot with a fresh budget. (R62) -/
  | resumption (core : Nat)
  /-- A handler's cycle budget expires and it is pre-empted. (R61) -/
  | budgetExhausted (core : Nat) (i : Nat)
  /-- A tenant slice ends, pre-empting its handlers and switching counter copies. (R59) -/
  | sliceEnd (core : Nat)
  /-- An idle core sends a steal request to a victim in its steal domain. (R57) -/
  | stealRequest (core : Nat) (i : Nat)
  /-- A victim yields its far-end pool entry or answers empty. (R57) -/
  | stealRequestArrival (n : Nat)
  /-- A stolen message arrives at the thief and runs with STOLEN set. (R57) -/
  | stealReplyArrival (n : Nat)
  /-- A counted landing or DEC advance reaches a join counter. (R58) -/
  | counterAdvance (n : Nat)
  /-- A timer's time is reached and its message arrives in SELF's mailbox. (R279) -/
  | timerExpiry (core : Nat) (i : Nat)
  /-- The watchdog period passes and the actor dies UNREACHABLE. (R281) -/
  | watchdogExpiry (core : Nat) (i : Nat)
  /-- A reply deadline passes and the peer is sent a kill. (R269) -/
  | replyDeadlineExpiry (core : Nat) (i : Nat)
  /-- A kill reaches its target's core and the target dies. (R275) -/
  | killArrival (n : Nat)
  /-- An exit signal is queued, discarded or kills the holder by TRAPX and class. (R74) -/
  | exitSignalArrival (n : Nat)
  /-- A background walk has freed every overflow record it covers. (R126) -/
  | overflowWalkEnd (core : Nat) (i : Nat)
  /-- Begun operations have completed, regions return, the entry becomes FREE and resolution starts. (R69) -/
  | regionsReturned (core : Nat) (i : Nat)
  /-- A death resolution request reaches the supervisor's Yarrow. (R75) -/
  | resolutionRequest (n : Nat)
  /-- Yarrow's answer arrives and the exit and DOWN signals of the death are sent. (R75) -/
  | resolutionAnswer (n : Nat)
  /-- No resolution answer within 1,000 us; signals leave with w3 = 0. (R75) -/
  | resolveTmo (core : Nat) (i : Nat)
  /-- The child's old entry is FREE, so Yarrow places the child and starts the image copy. (R84) -/
  | yarrowRestartStart (core : Nat) (i : Nat)
  /-- The image copy completes; the entry goes LIVE, is linked, and INIT is queued. (R84) -/
  | yarrowImageLoaded (core : Nat) (i : Nat)
  /-- Yarrow at PLACE claims a FREE entry and acknowledges, or refuses. (R274) -/
  | spawnRequestArrival (n : Nat)
  /-- The spawner's core receives the acknowledgement or refusal of a spawn. (R274) -/
  | spawnAckArrival (n : Nat)
  /-- The new name or 0 lands, or an orphaned actor is killed. (R274) -/
  | spawnNameArrival (n : Nat)
  /-- A link or monitor request reaches the peer's core and is entered or refused. (R71) -/
  | linkRequestArrival (n : Nat)
  /-- The peer's supervisor name and RESTARTS are written into the requester's entry. (R71) -/
  | linkAnswerArrival (n : Nat)
  /-- A removal request deletes the far end of a link or monitor. (R71) -/
  | unlinkArrival (n : Nat)
  /-- Campion compares the secondary's hash and forwards or kills the pair. (R87) -/
  | replicaHashArrival (n : Nat)
  /-- No hash within 100 us; both replicas die DIVERGE. (R87) -/
  | campionTimeout (core : Nat) (i : Nat)
  /-- A held message or operation leaves the outbound queue once its condition holds. (R193) -/
  | outboundRelease (core : Nat) (i : Nat)
  /-- A vector operation completes, setting flags and freeing its queue entry. (R319) -/
  | vectorOpComplete (core : Nat)
  /-- A matrix operation completes into its accumulator or memory. (R339) -/
  | matrixOpComplete (core : Nat)
  /-- A summary operation completes, landing query results. (R344) -/
  | summaryOpComplete (core : Nat)
  /-- A copy ends; its local counter advances and its completion message is queued. (R301) -/
  | copyComplete (core : Nat) (id : Nat)
  /-- An engine or remote result fills its landing entry and sets presence. (R22) -/
  | resultArrival (core : Nat) (i : Nat)
  /-- A remote operation is checked against its window and lands or is rejected. (R105) -/
  | remoteOpArrival (n : Nat)
  /-- The answer of a remote operation reaches its issuer and completes it. (R184) -/
  | remoteResponseArrival (n : Nat)
  /-- A remote operation unanswered for 1,000 us completes with DEAD. (R194) -/
  | remoteTimeout (core : Nat) (i : Nat)
  /-- A held landing proceeds after its recall or a buffer write-back. (R130) -/
  | heldLandingRelease (core : Nat) (i : Nat)
  /-- A given region lands at the receiver, which enters it and queues the notice. (R100) -/
  | transferComplete (n : Nat)
  /-- A write-combining buffer is sent 32 cycles after its first store. (R427) -/
  | combineFlush (i : Nat)
  /-- An eviction write-back ends, writing a record or losing it with WB_FAIL. (R126) -/
  | writeBackComplete (core : Nat) (i : Nat)
  /-- A CTXPF recall fill lands in the pool or is dropped. (R128) -/
  | prefetchFill (core : Nat) (i : Nat)
  /-- A retire wave frees a context's cells and messages at a core. (R132) -/
  | retireWaveArrival (wave : Nat) (place : Nat)
  /-- Every awake core has taken the wave and the allocator clears the id. (R204) -/
  | retireWaveComplete (wave : Nat)
  /-- A shoot-down wave removes translations at a gateway and hints at a core. (R205) -/
  | shootdownArrival (wave : Nat) (place : Nat)
  /-- The shoot-down completion message reaches its steward. (R205) -/
  | shootdownComplete (wave : Nat)
  /-- A surviving core generates signals for entries on the lost module and fails its operations. (R76) -/
  | moduleLossWaveArrival (wave : Nat) (place : Nat)
  /-- A steward receives the completion message of its wave. (R362) -/
  | waveCompleteMessage (wave : Nat)
  /-- An idle core enters sleep after SLEEPT and returns its fresh ids. (R134) -/
  | coreSleep (core : Nat)
  /-- A packet for a sleeping core starts its wake-up. (R134) -/
  | coreWake (core : Nat)
  /-- Retired ids are resolved and held packets are taken. (R133) -/
  | wakeComplete (core : Nat)
  /-- The die allocator issues fresh serials to a core whose range fell below 16. (R418) -/
  | tagRefill (core : Nat)
  /-- An id's home allocator answers whether the id is still live. (R418) -/
  | wakingQuery (core : Nat) (id : BitVec 32)
  /-- A distributor lands its next index or the end token. (R309) -/
  | wqQueryArrival (n : Nat)
  /-- A distributor frees itself if the close matches its owner and GEN. (R309) -/
  | wqCloseArrival (n : Nat)
  /-- A member core checks a multicast store and acknowledges. (R433) -/
  | multicastArrival (n : Nat)
  /-- The merged acknowledgement completes an MCST with bitmap and status. (R306) -/
  | mergedAckArrival (n : Nat)
  /-- A member replies to a pull read with its published line or WINDOW. (R434) -/
  | pullReadArrival (n : Nat)
  /-- The switch's reduced line completes a PULL. (R307) -/
  | reducedLineArrival (n : Nat)
  /-- Every reachable switch has acknowledged a group installation or withdrawal. (R431) -/
  | groupInstallAck (flit : WireFlit)
  /-- A switch failed to acknowledge within 100 us and the entry is withdrawn. (R431) -/
  | groupInstallTimeout (entry : Nat)
  /-- A gateway receives a flit, discarding malformed or unauthenticated ones. (R425) -/
  | flitReceive (flit : WireFlit)
  /-- A flit failing CRC is retransmitted from the link sequence. (R429) -/
  | flitCrcFail (port : Nat)
  /-- A port without acknowledgement for 10 us or 16 retries goes down. (R429) -/
  | portDown (port : Nat)
  /-- Flows moved by a route-mask change resume on the new port after 100 us. (R424) -/
  | maskHoldExpiry (i : Nat)
  /-- Every 10 ms the calibrated lane replaces the next data lane. (R428) -/
  | laneRotation (port : Nat)
  /-- A lane below its eye-margin threshold is retired as the spare. (R428) -/
  | laneRetire (port : Nat) (lane : Nat) (margin : EyeMargin)
  /-- A second lane failure retrains the port at four lanes. (R428) -/
  | laneDegrade (port : Nat)
  /-- Every 50 us the gateways send heartbeats to pod-group modules. (R435) -/
  | heartbeatSend
  /-- A gateway records the time it last heard from a module. (R435) -/
  | heartbeatArrival (flit : WireFlit)
  /-- After 200 us of silence a gateway sends SUSPECT to steward 0 of die 0. (R435) -/
  | suspect (module : Nat)
  /-- Unanswered probes lead the steward to declare the module lost. (R435) -/
  | probeTimeout (module : Nat)
  /-- A module hearing fewer than half its group kills that group's tenants' actors. (R436) -/
  | selfLost (tenant : Nat)
  /-- Link timestamps discipline TIME and set or clear the unsynchronised flag. (R439) -/
  | timeSync (podTime : Nat)
  /-- Input below 38 V for 1 ms clamps every die. (R441) -/
  | inputLow (milliVolts : Nat) (micros : Nat)
  /-- Input below 36 V holds module reset. (R441) -/
  | inputUndervoltage (milliVolts : Nat) (micros : Nat)
  /-- Input above 62 V disconnects and holds module reset. (R441) -/
  | inputOvervoltage (milliVolts : Nat) (micros : Nat)
  /-- Input above 40 V for 10 ms releases the held reset. (R441) -/
  | inputRecovery (milliVolts : Nat) (micros : Nat)
  /-- Package input above 6,000 W steps dies down one point per 50 us. (R441) -/
  | inputLimit (milliWatts : Nat)
  /-- A die completes its 20 us change of operating point. (R443) -/
  | dvfsChangeDone (die : Nat)
  /-- A rail is sampled at 1 kHz and the die's cap point is applied. (R445) -/
  | railSample (rail milliVolts tenMilliAmps deciWatts : Nat)
  /-- A lid sample above TSAT + 25 K clamps the die to P0. (R448) -/
  | lidSample (die region temp : Nat)
  /-- After 10 ms at or below TSAT + 20 K the clamp releases. (R448) -/
  | clampRelease (die : Nat)
  /-- Every 1 ms core-rail energy is apportioned to cores and tenants. (R450) -/
  | energyApportion (die microJoules : Nat)
  /-- Module reset clears tables, counters and slots to their reset state. (R33) -/
  | moduleReset
  /-- A 64-byte write to SENDAP is checked and sent as a host message. (R398) -/
  | sendApertureWrite (req : HostReq) (off : Nat) (bytes : List Byte)
  /-- A host aperture write reaches tenant memory after translation. (R399) -/
  | bar2Write (fn off : Nat) (bytes : List Byte) (sealed : Bool)
  /-- A host aperture read returns tenant memory or all ones. (R399) -/
  | bar2Read (fn off len : Nat) (sealed : Bool)
  /-- Writing 1 to an FSTAT bit clears it. (R397) -/
  | fstatClear (req : HostReq) (value : Word)
  /-- The host advances its consumer index, freeing host-queue entries. (R402) -/
  | hqheadWrite (req : HostReq) (value : Word)
  /-- A write to HQBASE, HQCTL, HQTAILP or APBASE, ignored with CFG when invalid. (R395) -/
  | hostRegisterWrite (req : HostReq) (off : Nat) (value : Word)
  /-- The gateway writes a message entry and tail to host memory and signals MSI-X. (R402) -/
  | hostQueueDelivery (fn : Nat)
  /-- Resets a function's registers and kills the bound tenant's actors. (R403) -/
  | functionLevelReset (fn : Nat)
  /-- Binds a VF to a new tenant and installs its keys. (R400) -/
  | tenantCreate (n : Nat)
  /-- Kills, unmaps and unbinds a tenant. (R400) -/
  | tenantDestroy (n : Nat)
  /-- Allocates and clears pages for the tenant. (R400) -/
  | map (n : Nat)
  /-- Unmaps pages and answers after the shoot-down wave. (R400) -/
  | unmap (n : Nat)
  /-- Loads an image as a monitored root supervisor and queues INIT. (R401) -/
  | startRoot (n : Nat)
  /-- Returns tenant, pages mapped and live roots. (R400) -/
  | query (n : Nat)
  /-- Installs a multicast group entry from member keys. (R400) -/
  | mcastSet (n : Nat)
  /-- Withdraws a tenant's multicast group entry. (R400) -/
  | mcastDel (n : Nat)
  /-- Creates a membership group with all members live. (R421) -/
  | groupCreate (n : Nat)
  /-- Returns a live-bitmap word, EPOCH and member count. (R421) -/
  | groupRead (n : Nat)
  /-- Deletes a membership group. (R421) -/
  | groupDelete (n : Nat)
  /-- A request with an unknown code or wrong channel or HIDX is answered BAD_ARG. (R400) -/
  | serviceBadRequest (n : Nat)
  /-- Firmware clears live bits of lost-module members and raises EPOCH. (R420) -/
  | membershipLossUpdate (module : Nat)
  /-- SPDM request for supported versions. (R410) -/
  | getVersion (fn : Nat)
  /-- SPDM request for capabilities. (R410) -/
  | getCapabilities (fn : Nat)
  /-- SPDM negotiation of ML-DSA-44, SHA3-256 and AES-256-GCM. (R410) -/
  | negotiateAlgorithms (fn : Nat) (algs : List SpdmAlg)
  /-- SPDM request for certificate chain digests. (R410) -/
  | getDigests (fn : Nat)
  /-- SPDM request for the certificate chain of slot 0. (R409) -/
  | getCertificate (fn : Nat)
  /-- SPDM challenge signed with the alias key. (R410) -/
  | challenge (fn : Nat) (nonce : List Byte)
  /-- SPDM request returning signed measurement blocks. (R408) -/
  | getMeasurements (fn : Nat) (index : Nat) (nonce : List Byte)
  /-- SPDM key exchange opening a secured session. (R410) -/
  | keyExchange (fn : Nat) (nonce : List Byte)
  /-- SPDM finish completing a session. (R410) -/
  | finish (fn : Nat) (session : Nat)
  /-- SPDM end of a secured session. (R410) -/
  | endSession (fn : Nat) (session : Nat)
  /-- An MCTP control message such as endpoint id assignment. (R458) -/
  | mctpControl (cmd : MctpCmd)
  /-- A PLDM read of a numeric sensor. (R459) -/
  | pldmSensorRead (id : Nat)
  /-- A PLDM effecter write of a per-die power cap. (R447) -/
  | capWrite (die : Nat) (watts : Nat)
  /-- A PLDM effecter write of the fluid saturation temperature. (R446) -/
  | tsatWrite (value : BitVec 16)
  /-- A PLDM effecter write of the power-feed identifier. (R438) -/
  | feedWrite (value : BitVec 16)
  /-- A PLDM firmware update writes the slot not chosen at boot. (R458) -/
  | firmwareUpdate (image : FlashSlot)
  /-- An Adeux port trains, its far end is identified as switch or module, and firmware builds or changes route masks to
  include it. (R423) -/
  | linkBringUp (port : Nat) (isSwitch : Bool) (reaches : List Nat)
  /-- A TDISP message from the host moves a VF's TDI between CONFIG_UNLOCKED, CONFIG_LOCKED, RUN and ERROR. (R394) -/
  | tdispRequest (fn : Nat) (req : TdispReq)
  /-- The host programs and enables the link or selective IDE stream of a function. (R394) -/
  | ideStreamSetup (fn : Nat) (selective : Bool) (enable : Bool)
  /-- A configuration write enables or disables SR-IOV virtual functions, creating or removing their functions and gateway
  names. (R396) -/
  | vfEnable (count : Nat)
  /-- A firmware request after a successful boot advances the fused SVN. (R407) -/
  | fusedSvnAdvance (svn : Nat)
  /-- Steward firmware writes a die event counter selector through the die's management registers. (R455) -/
  | dieCounterSelect (die : Nat) (counter : Nat) (source : Nat)
  /-- A mesh router combines two partials of a combining collective along the tree and forwards the result. (R159) -/
  | routerCombining (core : Nat) (comb : CombineStep)
  deriving DecidableEq, Repr

end Sys2Proof
end

