-- ==== Sys2Proof/Machine/State.lean ====
section
/-! DEFINITION. The state of one Z-65 module as plain data: actors, handlers, cores, dies, gateways, host functions,
firmware records and power, the memories, what is in flight, and what acts next. Sparse tables list only the entries that
differ from reset. -/

namespace Sys2Proof.Machine

open Sys2Proof

/-- Why a step stops. -/
inductive Fault where
  /-- Raised by `step` when the agenda names a core or a thread slot that the module does not have (R1, R13); safe: no
  such place can act. -/
  | noSuchSlot
  deriving DecidableEq, Repr, Inhabited

/-- Why a step has no meaning. -/
inductive Refusal where
  /-- Raised by an arm of `exec` whose instruction has no meaning yet; safe. -/
  | notModelled (mnemonic : String)
  deriving DecidableEq, Repr, Inhabited

/-! ### Actors -/

/-- States of an actor-table entry (R12). -/
inductive EntryState where
  | free | live | exiting
  deriving DecidableEq, Repr, Inhabited

/-- A region-table entry that is not FREE (R91); one that RALLOC made is `usable` once its handle lands (R293). -/
structure Region where
  base : Nat
  size : Nat
  cidx : Nat := 0
  given : Bool := false
  kind : Nat := 0
  tagged : Bool := false
  privx : Bool := false
  gr : Bool := false
  ex : Bool := false
  wr : Bool := false
  rd : Bool := false
  usable : Bool := true
  deriving DecidableEq, Repr, Inhabited

/-- A death being reclaimed and resolved (R65 to R69): class, detail, w2, and whether its signals wait for an answer. -/
structure Death where
  cls : DeathClass
  detail : BitVec 8
  w2 : Word
  deriving DecidableEq, Repr, Inhabited

/-- The part of a replicated actor an entry holds (R86): the core and entry of its twin. -/
inductive Replica where
  | none
  | primary (core entry : Nat)
  | secondary (core entry : Nat)
  deriving DecidableEq, Repr, Inhabited

/-- An actor-table entry (R12) with what the core keeps for its actor; `diedAt` is the die cycle of its death, `wasFull` whether
its FIFO mailbox under EXIT was full then (R66). -/
structure Actor where
  state : EntryState := .free
  inc : BitVec 16 := 0#16
  pool : Bool := false
  repl : Bool := false
  supv : Bool := false
  tenant : Tenant := 0#12
  htab : Nat := 0
  stack : Nat := 0
  mbox : Word := 0x60#64
  trapx : Bool := false
  watch : Nat := 0
  watchLast : Nat := 0
  restarts : BitVec 16 := 0#16
  name : Name := 0#64
  supName : Name := 0#64
  dom : Nat := 0
  regions : Tab Region := []
  ova : Nat := 0
  ovlen : Nat := 0
  recCount : Nat := 0
  filter : BitVec 256 := 0#256
  role : Replica := .none
  outN : Nat := 0
  death : Option Death := none
  diedAt : Nat := 0
  wasFull : Bool := false
  sup : Option Nat := none
  claimed : Bool := false
  deriving DecidableEq, Repr, Inhabited

/-! ### Handlers -/

/-- A range of local addresses, or of another memory by its home address, that an operation reads or writes. -/
structure Span where
  home : Nat
  len : Nat
  deriving DecidableEq, Repr, Inhabited

/-- A landing-buffer entry in use (R22): its destination, its value and the die cycle of its arrival. -/
structure Landing where
  isPred : Bool
  reg : BitVec 5
  value : Option Word := none
  at_ : Nat := 0
  acq : Option Scope := none
  deriving DecidableEq, Repr, Inhabited

/-- Where a handler stands (R13, R61, R358). -/
inductive HStatus where
  | running (slot : Nat)
  | stalled (slot : Nat)
  | preempted
  | held
  deriving DecidableEq, Repr, Inhabited

/-- The handler-scope control registers of R24 that software writes. -/
structure Ctl where
  fmta : BitVec 4 := 0#4
  fmtb : BitVec 4 := 0#4
  fmtc : BitVec 4 := 0#4
  scla : BitVec 32 := 0#32
  sclb : BitVec 32 := 0#32
  sparse : BitVec 32 := 0#32
  coinsel : Bool := false
  seed : Word := 0#64
  deriving DecidableEq, Repr, Inhabited

/-- A handler (R13 to R30); its record in TCM holds what its dirty bits do not name (R14, R16). `code` is what its EX regions
held at its dispatch, by handle, and `coded` the addresses of words it has stored to in them since (R215). `fresh` and
`handed` are its reserved ids with their slots, `lateCode` the ranges that operations queued before its dispatch write,
`mboxPending` its write of MBOX until DONE (R27), `stale` the values that registers named by a COMMIT had before it, in die
cycle `staleAt` (R23), `tfences` what its TFENCEs order (R356). -/
structure Handler where
  serial : Nat := 0
  entry : Nat := 0
  status : HStatus := .preempted
  pc : Nat := 0
  npc : Nat := 0
  regs : Vector Word 32 := Vector.replicate 32 0#64
  count : Nat := 8
  preds : Vector Bool 8 := Vector.replicate 8 false
  shapes : Vector (Option (BitVec 256)) 16 := Vector.replicate 16 none
  acc : Vector (BitVec 8192) 4 := Vector.replicate 4 0#8192
  landing : Tab Landing := []
  msg : Msg := default
  ctx : CtxId := 0#32
  slot : Nat := 0
  chan : BitVec 2 := 0#2
  mflags : BitVec 8 := 0#8
  ctl : Ctl := {}
  flags : BitVec 6 := 0#6
  replyName : Name := 0#64
  join : Option JoinRef := none
  fresh : List (CtxId × Nat) := []
  handed : List (CtxId × Nat) := []
  recalls : List (CtxId × Bool) := []
  mboxPending : Option Word := none
  stale : List (Bool × BitVec 5 × Word) := []
  staleAt : Nat := 0
  budget : Nat := 0
  used : Nat := 0
  age : Nat := 0
  effChan : Nat := 0
  fences : List (Scope × Nat) := []
  tfences : List (Scope × Nat) := []
  deadOps : List Scope := []
  dirtyRegs : BitVec 32 := 0#32
  dirtyShapes : BitVec 16 := 0#16
  dirtyAcc : BitVec 4 := 0#4
  dirtyCtl : Bool := false
  code : Tab (List Byte) := []
  coded : List Nat := []
  lateCode : List Span := []
  deriving DecidableEq, Repr, Inhabited

/-! ### Queued work of a core -/

/-- Where a queued message is stored (R39, R40). -/
inductive Place where
  | chip | spill | reserve
  deriving DecidableEq, Repr, Inhabited

/-- A queued message with its entry, its age in dispatches, its place in the order of arrivals, whether the recall of its
context's records runs or is done, and whether it has met the tag-exhaustion stall (R39, R50, R51, R125). -/
structure QMsg where
  entry : Nat
  msg : Msg
  place : Place := .chip
  age : Nat := 0
  ord : Nat := 0
  recalled : Option Bool := none
  stalled : Bool := false
  deriving DecidableEq, Repr, Inhabited

/-- A join counter that is not FREE (R58): count, target, parked message, and whether it fired. -/
structure JoinCtr where
  owner : Name
  count : Nat := 0
  target : Nat := 0
  parked : Option Msg := none
  fired : Bool := false
  age : Nat := 0
  ord : Nat := 0
  recalled : Option Bool := none
  stalled : Bool := false
  deriving DecidableEq, Repr, Inhabited

/-- A link- or monitor-table entry in use (R70). -/
structure LinkEnt where
  psup : Name := 0#64
  peer : Name
  ref : BitVec 32 := 0#32
  prst : BitVec 16 := 0#16
  kind : LinkKind
  lslot : Nat
  deriving DecidableEq, Repr, Inhabited

/-- A table entry held for a death, as it stood: a monitor's or a link's, its place, and the name of its own actor. -/
structure HeldEnt where
  mon : Bool
  idx : Nat
  ent : LinkEnt
  holder : Name
  deriving DecidableEq, Repr, Inhabited

/-- A death whose signals wait for resolution (R69 step 5, R75), with the table entries held for it. With `lost` the dead actor
lies on a lost module and the entries' own actors are signalled (R76). -/
structure Resolving where
  name : Name
  sup : Name
  death : Death
  restarts : BitVec 16
  links : List HeldEnt
  asked : Nat
  lost : Bool := false
  deriving DecidableEq, Repr, Inhabited

/-- A window-table entry (R103). -/
structure Window where
  grantee : Word := 0#64
  off : Nat := 0
  len : Nat := 0
  gen : BitVec 16 := 0#16
  jc : BitVec 6 := 0#6
  gk : Nat := 0
  owner : Nat := 0
  handle : Nat := 0
  dd : Bool := false
  live : Bool := false
  pb : Bool := false
  cn : Bool := false
  at_ : Bool := false
  ww : Bool := false
  wd : Bool := false
  deriving DecidableEq, Repr, Inhabited

/-- A timer entry: its generation, and its message while armed (R279). -/
structure Timer where
  gen : BitVec 16 := 1#16
  owner : Nat := 0
  due : Option Nat := none
  msg : Msg := default
  deriving DecidableEq, Repr, Inhabited

/-- A reply-wait entry (R269). -/
structure ReplyWait where
  owner : Nat
  peer : Name
  expiry : Nat
  order : Nat := 0
  deriving DecidableEq, Repr, Inhabited

/-- A context-map entry's state (R119). -/
inductive SlotState where
  | mapped | retiring
  deriving DecidableEq, Repr, Inhabited

/-- A context-map entry in use (R119); PCELLS is counted from the pool. -/
structure CtxSlot where
  id : CtxId
  use : Nat := 0
  state : SlotState := .mapped
  deriving DecidableEq, Repr, Inhabited

/-- A cell of the pool (R124): owner entry, region handle, line, context, data (none yet where it is only reserved), when it
was last used, and whether a queued operation has it reserved (R127). -/
structure Cell where
  entry : Nat
  handle : Nat
  line : Nat
  ctx : CtxId
  data : List Byte := []
  slot : Nat := 0
  used : Nat := 0
  reserved : Bool := false
  deriving DecidableEq, Repr, Inhabited

/-- An eviction-buffer entry: a cell on its way to the record it has taken, by its offset in the area (R124, R126). -/
structure Evict where
  cell : Cell
  off : Nat := 0
  deriving DecidableEq, Repr, Inhabited

/-- Recalls in progress (R125, R130, R259): for a dispatch, for a landing, for a CTXPF. -/
inductive RecallFor where
  | dispatch
  | prefetch (serial : Nat)
  | landing
  deriving DecidableEq, Repr, Inhabited

/-- A recall of a context's records of one actor (R126), and the offsets of those that a prefetch has dropped (R128). -/
structure Recall where
  entry : Nat
  ctx : CtxId
  why : RecallFor
  dropped : List Nat := []
  deriving DecidableEq, Repr, Inhabited

/-- A background walk freeing overflow records (R95, R132, R69): by context, by handle, or all. -/
inductive WalkKind where
  | context (c : CtxId)
  | handle (h : Nat)
  | all
  deriving DecidableEq, Repr, Inhabited

structure Walk where
  entry : Nat
  kind : WalkKind
  deriving DecidableEq, Repr, Inhabited

/-- A landing held for a recall or a full eviction buffer (R130): accepted, for the owner's region as it was then (R108), at a
byte of it, with the counter it advances and the member it answers as. -/
structure HeldLanding where
  op : RemoteOp
  entry : Nat
  handle : Nat
  region : Region
  addr : Nat
  jc : Option (BitVec 6)
  member : Option Nat := none
  deriving DecidableEq, Repr, Inhabited

/-- An operation of several flits under way at its target (R113): its requester's core and number, the bytes still to come,
when its first flit came, and what the checks of R105 said of it: what its flits land as, or the status they are answered
with. -/
structure OpenOp where
  core : Nat
  id : Nat × Nat
  left : Nat
  since : Nat
  into : Option HeldLanding := none
  status : CopyStatus := .window
  deriving DecidableEq, Repr, Inhabited

/-- A freed region whose space is kept until the operations accepted on its windows have landed (R294). -/
structure Freeing where
  entry : Nat
  handle : Nat
  region : Region
  deriving DecidableEq, Repr, Inhabited

/-! ### Engine operations -/

/-- Vector operations (R321 to R328, R350). -/
inductive VecKind where
  | add | sub | mul | fma | div | min | max | abs | neg | and | or | xor | shl | shr | sra
  | exp | log | sqrt | rsq | rcp | tanh | sig
  | cmp (c : VCond) | sel | cvt | fill | rsum | rmax | rmin | perm | trn | xch | rng
  deriving DecidableEq, Repr, Inhabited

/-- Matrix operations (R335 to R338). -/
inductive MatKind where
  | mma (t : Bool)
  | msp (t : Bool)
  | zero
  | ld (k : AccKind)
  | st (k : AccKind) (e5 : Bool)
  | cp
  | addAcc (k : AccKind)
  | trn
  | trnD
  deriving DecidableEq, Repr, Inhabited

/-- Summary operations (R345 to R348). -/
inductive SumKind where
  | qski | qskm | qskq | qskr | qskn | hhi | hhm | hhq | hhn (fmt : BitVec 6) | dci | dcm | dce | dcn (fmt : BitVec 6)
  deriving DecidableEq, Repr, Inhabited

/-- Copy forms (R302, R303, R306, R307) and the transfer of R99. -/
inductive CopyKind where
  | cpy | cpyc | deal | gath | cpye (m : ExfMode) | mcst | pull | give
  deriving DecidableEq, Repr, Inhabited

/-- A copy's descriptor as read at issue (R298), with its slice list. -/
structure CopyDesc where
  src : Nat := 0
  dst : Nat := 0
  len : Nat := 0
  sk : Nat := 0
  dk : Nat := 0
  msg : Bool := false
  ljc : Bool := false
  cnt : Bool := false
  lj : Nat := 0
  ns : Nat := 0
  fp : Bool := false
  ccw : Word := 0#64
  user : Word := 0#64
  aux : Nat := 0
  res : Nat := 0
  slices : List (Word × Nat) := []
  deriving DecidableEq, Repr, Inhabited

/-- What an engine operation does when it completes. -/
inductive EngBody where
  | vec (k : VecKind) (dst : BitVec 256) (srcs : List (BitVec 256)) (scalar : Word) (scalar2 : Word)
  | mat (k : MatKind) (d s : AccReg) (a b c : Nat)
  | sum (k : SumKind) (a b c : Word) (shape : BitVec 256)
  | copy (k : CopyKind) (d : CopyDesc)
  | transfer (t : Transfer)
  deriving DecidableEq, Repr, Inhabited

/-- A queued engine operation (R111, R319, R339, R344): its issuer, its context, what it samples, the ranges of its
interlock, the cores of its window ends, the landing entry of its result, when it issued, and how far it has come. -/
structure EngOp where
  id : Nat
  seq : Nat
  entry : Nat
  name : Name
  rec_ : Nat
  serial : Nat
  tenant : Tenant
  ctx : CtxId
  slot : Nat := 0
  ctl : Ctl := {}
  reads : List Span := []
  writes : List Span := []
  land : Option Nat := none
  rel : Option Scope := none
  fences : List (Scope × Nat) := []
  tfences : List (Scope × Nat) := []
  pc : Nat := 0
  begun : Bool := false
  sent : Bool := false
  waiting : List Nat := []
  places : List (Option Nat) := []
  at_ : Nat := 0
  pieces : Nat := 0
  status : CopyStatus := .ok
  failOff : Nat := 0
  extra : List (Nat × List Byte) := []
  a3 : Nat := 0
  ended : Bool := false
  keys : List Word := []
  spots : List Spot := []
  body : EngBody
  deriving DecidableEq, Repr, Inhabited

/-- A result on its way to a landing entry (R22); that of an RALLOC makes a region usable as it lands, by entry and handle
(R293). -/
structure Result where
  rec_ : Nat
  serial : Nat
  idx : Nat
  value : Word
  region : Option (Nat × Nat) := none
  deriving DecidableEq, Repr, Inhabited

/-! ### Outbound queue and remote operations -/

/-- What an outbound entry does when it leaves (R194, R196); a store of the store buffer keeps the region it was checked for. -/
inductive OutBody where
  | packet (p : Packet)
  | remote (rid : Nat) (p : Packet)
  | localStore (entry handle : Nat) (region : Region) (ctx : CtxId) (slot addr : Nat) (bytes : List Byte)
  | fork (entry : Nat) (m : Msg)
  | wqOpen (rec_ serial idx : Nat) (x y : Nat)
  deriving DecidableEq, Repr, Inhabited

/-- An outbound-queue entry with the conditions it waits for (R193, R196): each names a scope and the issue number below
which the writes must have been performed. `at_` is the time of its issue (R194). -/
structure OutEnt where
  seq : Nat
  name : Name
  serial : Nat
  conds : List (Scope × Nat) := []
  reads : List (Scope × Nat) := []
  campion : Option Nat := none
  at_ : Nat := 0
  body : OutBody
  deriving DecidableEq, Repr, Inhabited

/-- What the answer of a remote operation is for. -/
inductive RemUse where
  | none
  | land (rec_ serial : Nat) (idx : Option Nat) (pidx : Option Nat)
  | copy (id : Nat) (slice : Nat)
  | wq (rec_ serial idx : Nat)
  deriving DecidableEq, Repr, Inhabited

/-- A remote operation without its answer (R184, R194). `place` is the number of the target core, none when the target lies
outside the module; `members` are the cores of the module that hold windows of its multicast group (R200); `n` numbers the
operation among those of a replicated actor (R87); `spot` is the window bytes it reaches (R186); `parts` counts the flits
still to be answered, and `st` is the status of those that have been (R113, R425). -/
structure Remote where
  seq : Nat
  name : Name
  serial : Nat
  place : Option Nat
  module : Nat
  write : Bool
  read : Bool
  use : RemUse
  left : Option Nat := none
  desc : Option CopyDesc := none
  ctx : CtxId := 0#32
  entry : Nat := 0
  n : Option Nat := none
  members : List Nat := []
  spot : Option Spot := none
  parts : Nat := 1
  st : CopyStatus := .ok
  at_ : Nat := 0
  deriving DecidableEq, Repr, Inhabited

/-- A FENCE.R whose landing entry waits (R310). -/
structure FenceWait where
  rec_ : Nat
  serial : Nat
  idx : Nat
  name : Name
  scope : Scope
  upto : Nat
  dead : Bool
  deriving DecidableEq, Repr, Inhabited

/-! ### Yarrow and Campion -/

/-- What a start by Yarrow is for (R84, R274, R288). -/
inductive StartFor where
  | restart (dead : Name)
  | spawn (r : SpawnReq)
  | rstart (rec_ serial idx : Nat)
  deriving DecidableEq, Repr, Inhabited

/-- A start in progress (R84): the supervisor's entry and child index, the core and entry chosen, and whether the entry is
claimed; `n` numbers an RSTART among the operations of a replicated supervisor (R87). -/
structure Start where
  why : StartFor
  supEntry : Nat := 0
  supName : Name := 0#64
  child : Nat := 0
  core : Option Nat := none
  entry : Nat := 0
  loading : Bool := false
  dead : Name := 0#64
  req : SpawnReq := default
  n : Option Nat := none
  deriving DecidableEq, Repr, Inhabited

/-- A restart event of a supervisor (R80): the children still to be started, the deaths it has joined, and the names whose old
entries are not yet known to be FREE (R84 step 1). -/
structure Event where
  supEntry : Nat
  supName : Name
  todo : List Nat
  dead : List (Nat × Name)
  waits : List Name := []
  deriving DecidableEq, Repr, Inhabited

/-- A resolution request Yarrow has taken and not answered (R75). -/
structure Ask where
  sup : Name
  dead : Name
  cls : DeathClass
  restarts : BitVec 16
  core : Nat
  deriving DecidableEq, Repr, Inhabited

/-- A spawn whose name has not landed yet, at the spawner's core (R274); `n` numbers it among the operations of a replicated
actor (R87). -/
structure OpenSpawn where
  spawner : Name
  n : Option Nat := none
  rec_ : Nat
  serial : Nat
  idx : Nat
  linkIdx : Option Nat
  acked : Bool := false
  module : Nat
  since : Nat
  deriving DecidableEq, Repr, Inhabited

/-- A message or remote operation of a primary held by Campion (R87): its order number, its hash, since when, the PC of its
SEND, and whether the hashes have been found equal, so that it waits only for room in the outbound queue. -/
structure CampionHold where
  entry : Nat
  n : Nat
  hash : Word
  since : Nat
  pc : Nat
  out : OutEnt
  ok : Bool := false
  deriving DecidableEq, Repr, Inhabited

/-! ### Slices, counters, configuration -/

/-- One tenant's event counters and selectors (R24, R454). Until the end of a cycle `fresh` counts its events and `old` keeps
the selectors that were written in it (R456). -/
structure EvCopy where
  vals : Vector Word 4 := Vector.replicate 4 0#64
  sels : Vector (BitVec 10) 4 := Vector.replicate 4 0#10
  fresh : Vector Nat 4 := Vector.replicate 4 0
  old : Tab (BitVec 10) := []
  deriving DecidableEq, Repr, Inhabited

/-- The core configuration (R360). -/
structure CoreCfg where
  recs : Nat := 12
  spill : Nat := 16
  cpool : Nat := 3
  service : Name := 0#64
  dbg : BitVec 13 := 0#13
  sleept : Nat := 1000
  deriving DecidableEq, Repr, Inhabited

/-- One core, ordinary or steward. `tiles` keeps, by serial, the accumulators of an ended handler that queued matrix
operations still use (R340); `waitDone` are the copy engine's operations, by number, that have ended and whose completions
wait, the one that ended first at the head (R40). -/
structure Core where
  actors : Tab Actor := []
  handlers : Tab Handler := []
  queue : List QMsg := []
  pool : List QMsg := []
  joins : Tab JoinCtr := []
  links : Tab LinkEnt := []
  monitors : Tab LinkEnt := []
  resolving : List Resolving := []
  monRef : BitVec 32 := 0#32
  windows : Tab Window := []
  timers : Tab Timer := []
  waits : Tab ReplyWait := []
  ctxMap : Tab CtxSlot := []
  cells : List Cell := []
  lru : Nat := 0
  evicts : List Evict := []
  recalls : List Recall := []
  walks : List Walk := []
  heldLandings : List HeldLanding := []
  openOps : List OpenOp := []
  freeing : List Freeing := []
  fresh : List CtxId := []
  refill : Nat := 0
  outq : List OutEnt := []
  remotes : Tab Remote := []
  fenceWaits : List FenceWait := []
  seq : Nat := 0
  nextId : Nat := 0
  teasel : List EngOp := []
  vec : List EngOp := []
  matq : List EngOp := []
  sumq : List EngOp := []
  tiles : Tab (Vector (BitVec 8192) 4) := []
  apert : List EngOp := []
  waitDone : List Nat := []
  results : List Result := []
  starts : List Start := []
  events : List Event := []
  asks : List Ask := []
  answered : List (Name × Word × BitVec 16) := []
  opens : Tab OpenSpawn := []
  campion : List CampionHold := []
  hashes : List (Nat × Nat × Word) := []
  evCopies : Tab EvCopy := []
  diag : Tab Nat := []
  energy : Tab Nat := []
  slices : Tab Word := [(0, 0x0C000000#64)]
  sliceWrites : List (Nat × Word × Nat) := []
  sliceAt : Nat := 0
  sliceStart : Nat := 0
  cfg : CoreCfg := {}
  dispCount : Nat := 0
  arrivals : Nat := 0
  rr : Vector Nat 4 := Vector.replicate 4 63
  idleSince : Option Nat := none
  noCandSince : Option Nat := none
  busyCycles : Tab Nat := []
  engineCycles : Nat := 0
  energyDue : Tab Nat := []
  groups : Nat := 0
  evictedAt : Option Nat := none
  evictedN : Nat := 0
  lastVictim : Nat := 0
  stealing : Bool := false
  asleep : Bool := false
  waking : Bool := false
  wakeAsk : List CtxId := []
  wakeSent : List CtxId := []
  wavesOpen : Nat := 0
  deriving DecidableEq, Repr, Inhabited

/-! ### Dies, gateways, links -/

/-- An entry of a cluster or die region table (R92). -/
structure SpaceEnt where
  base : Nat
  size : Nat
  owner : Name
  deriving DecidableEq, Repr, Inhabited

/-- A work distributor (R308); generation 0 is never used, so the first open takes 1. -/
structure Distributor where
  gen : BitVec 16 := 1#16
  busy : Bool := false
  x : Nat := 0
  y : Nat := 0
  next : Nat := 0
  owner : Name := 0#64
  tenant : Tenant := 0#12
  deriving DecidableEq, Repr, Inhabited

/-- One compute die. `cycles` counts its arithmetic cycles at the operating points it has had (R2, R443), `corrected` the
times of its corrected memory errors of the last hour (R457), `releasedAt` the cycle of its last clamp release (R449). -/
structure Die where
  space : Tab SpaceEnt := []
  dists : Tab Distributor := []
  tagCtrl : Word := 1#64
  tagIssued : Tab Word := []
  tagWithheld : Tab Word := []
  tagWaiting : List (Nat × Nat) := []
  diag : Tab Nat := []
  counters : Tab Nat := []
  selectors : Tab Nat := []
  point : Nat := 2
  target : Option Nat := none
  capPoint : Nat := 4
  cap : Nat := 0
  lids : Tab Nat := []
  clamped : Bool := false
  coolSince : Option Nat := none
  releasedAt : Option Nat := none
  changeAt : Nat := 0
  inputPoint : Nat := 4
  cycles : Nat := 0
  cycleRest : Nat := 0
  energyAt : Nat := 0
  energyRest : Nat := 0
  corrected : List Nat := []
  deriving DecidableEq, Repr, Inhabited

/-- A cached leaf translation of a memory gateway (R115): page address, frame, large page, write right. -/
structure TlbEnt where
  tenant : Tenant
  page : Nat
  large : Bool
  frame : Nat
  kten : Tenant := 0#12
  wr : Bool
  deriving DecidableEq, Repr, Inhabited

/-- A memory gateway (R115, R413). -/
structure MemGate where
  roots : Tab Word := []
  tlb : List TlbEnt := []
  deriving DecidableEq, Repr, Inhabited

/-- An Adeux port (R423 to R429); `unacked` are the flits that its link has still to acknowledge, by SEQ, with the time each
was sent. -/
structure Port where
  up : Bool := false
  isSwitch : Bool := false
  reaches : List Nat := []
  lanes : Nat := 8
  spare : Option Nat := some 8
  retired : List Nat := []
  rotation : Nat := 0
  seqNo : Nat := 0
  unacked : List (Nat × Nat) := []
  retries : Nat := 0
  history : List Nat := []
  contact : Option Nat := none
  rotatedAt : Nat := 0
  deriving DecidableEq, Repr, Inhabited

/-- A write-combining buffer of an edge gateway (R116, R427). -/
structure CombineBuf where
  core : Nat
  port : Nat
  key : Word
  line : Nat
  since : Nat
  counted : Bool
  ctx : CtxId
  ops : List RemoteOp
  deriving DecidableEq, Repr, Inhabited

/-- The flows held after a route-mask change, by the masks before and after it (R424). -/
structure FlowHold where
  module : Nat
  old : BitVec 24 := 0#24
  new : BitVec 24 := 0#24
  until_ : Nat
  packets : List (Nat × Packet) := []
  deriving DecidableEq, Repr, Inhabited

/-- A group-table entry (R430): its header, its member keys, and the state of its installation, with the ports whose switch
has still to acknowledge (R431). -/
structure Group where
  header : Word := 0#64
  keys : List Word := []
  installing : Bool := false
  withdrawing : Bool := false
  installed : Bool := false
  ackTo : Option (Nat × Nat) := none
  answerTo : Option Msg := none
  since : Nat := 0
  awaits : List Nat := []
  deriving DecidableEq, Repr, Inhabited

/-! ### Host functions, firmware, boot, power -/

/-- States of a TDI (R394). -/
inductive TdiState where
  | unlocked | locked | run | error
  deriving DecidableEq, Repr, Inhabited

/-- One function of the host gateway (R393 to R402); the one link IDE stream is the module's. -/
structure HostFn where
  enabled : Bool := false
  bound : Option Tenant := none
  confidential : Bool := false
  tdi : TdiState := .unlocked
  ideSel : Bool := false
  fstat : Word := 0#64
  sending : List Msg := []
  hqbase : Word := 0#64
  hqctl : Word := 0#64
  hqtailp : Word := 0#64
  hqhead : Word := 0#64
  hqtail : Nat := 0
  apbase : Word := 0#64
  cnt : Nat := 0
  waiting : List Msg := []
  msix : Tab Word := [(1, 0x100000000#64), (3, 0x100000000#64), (5, 0x100000000#64), (7, 0x100000000#64)]
  pba : Word := 0#64
  deriving DecidableEq, Repr, Inhabited

/-- A tenant as firmware knows it (R400): its function where this is its home module, else 0; a TENANT_DESTROY under way and
the modules that have still to end it. -/
structure TenantRec where
  vf : Nat
  quota : Nat := 0
  confidential : Bool := false
  roots : List Name := []
  mapped : List (Nat × Nat) := []
  wave : Option Nat := none
  destroying : Bool := false
  awaits : List Nat := []
  deriving DecidableEq, Repr, Inhabited

/-- A monitor of the host gateway on a root (R401). -/
structure GateMon where
  root : Name
  vf : Nat
  ref : BitVec 32
  deriving DecidableEq, Repr, Inhabited

/-- A membership record (R419). -/
structure Membership where
  words : Tab Word := []
  deriving DecidableEq, Repr, Inhabited

/-- An SPDM connection of a function (R410). -/
structure Spdm where
  version : Bool := false
  capabilities : Bool := false
  negotiated : Bool := false
  sessions : List (Nat × Bool) := []
  nextSession : Nat := 1
  deriving DecidableEq, Repr, Inhabited

/-- Outcome of boot (R407). -/
inductive BootState where
  | running (slotB : Bool)
  | recovery
  deriving DecidableEq, Repr, Inhabited

/-- A reading of a sensor or effecter: `value` over `per` in its unit (R459). -/
structure Reading where
  value : Int
  per : Nat := 1
  deriving DecidableEq, Repr, Inhabited

/-- What leaves the module (the outside world's inputs from it). -/
inductive Out where
  | flit (port : Nat) (header : BitVec 192) (tag : BitVec 128) (p : Packet)
  | hostWrite (fn : Nat) (addr : Nat) (bytes : List Byte)
  | msix (fn vector : Nat)
  | readReply (fn : Nat) (bytes : List Byte)
  | spdm (fn : Nat) (what : String) (bytes : List Byte)
  | mctp (what : String) (bytes : List Byte)
  | pldm (record : Word)
  | sensor (id : Nat) (values : List Reading)
  | combined (core : Nat) (p : Partial)
  | unsupported (fn : Nat)
  | register (v : Word)
  | buddy (module : Nat) (correlated : Bool)
  deriving DecidableEq, Repr, Inhabited

/-- A wave in flight (R132, R205, R362): what it does, who waits for it, which cores and gateways it has still to reach, and
how many took it or were skipped; for a retire wave the modules that have still to answer, and, where it came from another
module, that module with its number of the wave there (R132, R204); `met` is the cycle in which nothing was left for it to reach
(R40). -/
inductive WaveKind where
  | shootdown (tenant : Tenant) (page : Nat) (all : Bool)
  | retire (c : CtxId)
  | moduleLoss (m : Nat)
  deriving DecidableEq, Repr, Inhabited

structure Wave where
  kind : WaveKind
  steward : Option (Nat × Name × Word × Word × CtxId) := none
  service : Option Msg := none
  todo : List Nat
  took : Nat := 0
  skipped : Nat := 0
  cleared : Bool := false
  awaits : List Nat := []
  origin : Option (Nat × Nat) := none
  met : Option Nat := none
  deriving DecidableEq, Repr, Inhabited

/-- The events of the table that the module itself may bring about. -/
inductive Inner where
  | prmtArrival | stewardAccessArrival | messageArrival | poolArrival | dispatch | resumption
  | sliceEnd | stealRequestArrival | stealReplyArrival | counterAdvance | killArrival
  | exitSignalArrival | resolutionRequest | resolutionAnswer | spawnRequestArrival | spawnAckArrival
  | spawnNameArrival | linkRequestArrival | linkAnswerArrival | unlinkArrival | replicaHashArrival
  | vectorOpComplete | matrixOpComplete | summaryOpComplete | remoteOpArrival
  | remoteResponseArrival | transferComplete | combineFlush | retireWaveComplete | shootdownComplete
  | waveCompleteMessage | coreSleep | coreWake | wakeComplete | tagRefill | wqQueryArrival
  | wqCloseArrival | multicastArrival | mergedAckArrival | pullReadArrival | reducedLineArrival
  | maskHoldExpiry | suspect | probeTimeout | dvfsChangeDone | clampRelease | hostQueueDelivery
  | tenantCreate | tenantDestroy | map | unmap | startRoot | query | mcastSet | mcastDel
  | groupCreate | groupRead | groupDelete | serviceBadRequest | membershipLossUpdate
  | budgetExhausted | stealRequest | timerExpiry | watchdogExpiry | replyDeadlineExpiry
  | overflowWalkEnd | regionsReturned | resolveTmo | yarrowRestartStart | yarrowImageLoaded
  | campionTimeout | outboundRelease | copyComplete | resultArrival | remoteTimeout
  | heldLandingRelease | writeBackComplete | prefetchFill | dispatchRecallDone | retireWaveArrival
  | shootdownArrival | moduleLossWaveArrival | wakingQuery | heartbeatSend | selfLost | laneRotation
  | firmwareMessage | groupInstallAck | groupInstallTimeout | portDown
  deriving DecidableEq, Repr, Inhabited

/-- What a host or the management bus reads, beside the rows of the table: a register of BAR0 (R395), the class code and
device identifier (R393), an effecter (R459), a route mask (R423), a diagnostic or die counter (R455). -/
inductive OutRead where
  | bar0 (fn off : Nat) (sealed : Bool)
  | config (fn : Nat)
  | effecter (id : Nat)
  | routeMask (m : Nat)
  | coreDiag (core code : Nat)
  | dieDiag (die code : Nat)
  | dieCounter (die counter : Nat)
  deriving DecidableEq, Repr, Inhabited

/-- What the agenda asks for next: a thread slot issues, an event or an input happens, an event of the module's own, by its
name and numbers, happens, a word in memory shows a soft error that ECC corrects or cannot (R90, R97), something
outside reads, or time passes. -/
inductive Move where
  | issue (core slot : Nat)
  | event (i : Instr)
  | inner (k : Inner) (a b : Nat)
  | softError (home : Nat) (lost : Bool)
  | read (r : OutRead)
  | tick (cycles : Nat)
  deriving DecidableEq, Repr

/-- The handler now issuing: its core and record. -/
structure Cur where
  core : Nat := 0
  rec_ : Nat := 0
  deriving DecidableEq, Repr, Inhabited

/-- The module; `sensed` is what its sensors show since their last update (R459), `feeds` the FEED of other modules as they
have told it (R438), `tiles` the parts of regions on their way to this module, by the giver's core, number and offset (R99). -/
structure Module where
  num : BitVec 10 := 0#10
  cycle : Nat := 0
  timeNs : Nat := 0
  timeFrac : Nat := 0
  unsync : Bool := false
  heldReset : Bool := false
  beatAt : Nat := 0
  tsat : BitVec 16 := 800#16
  feed : BitVec 16 := 0#16
  clampAll : Bool := false
  disconnected : Bool := false
  limitAt : Option Nat := none
  rails : Tab Word := []
  contact : Option Nat := none
  reports : Tab Nat := []
  thermHist : List (Nat × Nat) := []
  eid : Byte := 0#8
  tid : Byte := 0#8
  isolated : List Nat := []
  sensed : Option (Tab (List Reading)) := none
  ideLink : Bool := false
  feeds : Tab (BitVec 16) := []
  tiles : List (Nat × Nat × Nat × List Byte) := []
  deriving DecidableEq, Repr, Inhabited

/-- Boot, flash and attestation state (R407 to R410); `recorded` are measurements 1 to 4 as boot took them; SPDM connections
are kept by function, and by module, from 1,024 on, for the stewards of other modules. -/
structure Boot where
  slotA : Option FlashSlot := none
  slotB : Option FlashSlot := none
  fusedSvn : Nat := 0
  uds : BitVec 256 := 0#256
  vendorKey : BitVec 256 := 0#256
  state : BootState := .recovery
  recorded : Tab (List Byte) := []
  meas5 : Tab (List Byte) := []
  spdm : Tab Spdm := []
  deriving DecidableEq, Repr, Inhabited

/-- Firmware's own records (R400, R414 to R421): its service's name, the tenants, the level-2 tables by stack, tenant, index
and place, the pages whose frames wait for a shoot-down, the monitors of roots, the lost modules whose records are still to be
changed, the modules under suspicion, a START_ROOT that another module has still to answer, the buddy (R438), how far SPDM
with the stewards of other modules is, which fabric keys are still to be delivered to which (R411), and, for each lost module,
whether its link has come up again, and the tenants whose fabric key has still to be replaced (R412). -/
structure Firmware where
  svcName : Name := 0#64
  tenants : Tab TenantRec := []
  tables : List (Nat × Tenant × Nat × Nat) := []
  releasing : Tab (List (Nat × Nat)) := []
  monitors : List GateMon := []
  nextRef : BitVec 32 := 1#32
  declared : List Nat := []
  suspects : Tab Nat := []
  probes : Tab Nat := []
  rootPending : Option Msg := none
  buddy : Option (Nat × Bool) := none
  dials : Tab Nat := []
  keysDue : List (Nat × Tenant) := []
  rejoins : Tab (Bool × List Nat) := []
  deriving DecidableEq, Repr, Inhabited

end Sys2Proof.Machine

namespace Sys2Proof.Machine

open Sys2Proof

/-- One Z-65 module. `badWords` are the words whose error ECC cannot correct, until the end of the cycle (R97). -/
structure State where
  mod : Module
  cores : Tab Core
  clusters : Tab (Tab SpaceEnt)
  dies : Tab Die
  mgates : Tab MemGate
  hbmKeys : Tab (BitVec 512)
  fabricKeys : Tab (BitVec 256)
  ports : Tab Port
  masks : Tab (BitVec 24)
  holds : List FlowHold
  combine : List CombineBuf
  lost : List Nat
  heard : Tab Nat
  groups : Tab Group
  members : Tab Membership
  hostFns : Tab HostFn
  fw : Firmware
  boot : Boot
  mem : Tab Byte
  lineValid : Tab Bool
  badWords : List Nat
  lineKeys : Tab (BitVec 512)
  frameKeys : Tab (BitVec 512)
  net : List Packet
  waves : Tab Wave
  nextWave : Nat
  out : List Out
  agenda : List Move
  cur : Cur
  freeCtr : Nat
  nextSerial : Nat
  deriving DecidableEq, Repr

/-- The module right after reset (R33): tables empty, counters zero, thread slots idle. Absent table entries have the reset
values of their types' defaults (DESIGN CHOICE, log 50). Values that no rule gives: DESIGN CHOICE, logs 1 to 13. -/
def State.reset : State where
  mod := {}
  cores := []
  clusters := []
  dies := []
  mgates := []
  hbmKeys := []
  fabricKeys := []
  ports := []
  masks := []
  holds := []
  combine := []
  lost := []
  heard := []
  groups := []
  members := []
  hostFns := []
  fw := { svcName := 0x0000003F0001000C#64 }
  boot := {}
  mem := []
  lineValid := []
  badWords := []
  lineKeys := []
  frameKeys := []
  net := []
  waves := []
  nextWave := 0
  out := []
  agenda := []
  cur := {}
  freeCtr := 0
  nextSerial := 0

end Sys2Proof.Machine
end

