-- ==== Sys2Proof/Machine/Mem.lean ====
section
/-! DEFINITION. The memories of the module under one home numbering (04 R90), line-valid bits (R96), HBM translation and
keys (R115, R117, 26 R413-R415), and the context views with their cells (05 R121-R127). -/

namespace Sys2Proof.Machine

open Sys2Proof

/-! ### The byte memory -/

/-- The byte at a home address; an unlisted byte reads 0. (DESIGN CHOICE, log 4.) -/
def Memory.read (m : Tab Byte) (a : Nat) : Byte := (Tab.get? m a).getD 0#8

/-- Write one byte, keeping the canonical form: a zero is not listed. (DESIGN CHOICE, log 4.) -/
def Memory.write (m : Tab Byte) (a : Nat) (b : Byte) : Tab Byte := if b = 0#8 then Tab.del m a else Tab.put m a b

/-- The canonical form of memory: addresses strictly rising, no listed zero. -/
abbrev Memory.wf (m : Tab Byte) : Prop := Tab.Sorted m ∧ ∀ e ∈ m, e.2 ≠ 0#8

/-- Write zero to `n` bytes from `a`. -/
def Memory.clear (m : Tab Byte) (a : Nat) : Nat → Tab Byte
  | 0 => m
  | n + 1 => Memory.write (Memory.clear m a n) (a + n) 0#8

/-! ### Home addresses -/

/-- Home address of a TCM byte of a core. -/
def tcmHome (core off : Nat) : Nat := core * 0x100000 + off
/-- Home address of a scratchpad byte of a cluster. -/
def spadHome (cluster off : Nat) : Nat := 0x10000000000 + cluster * 0x100000 + off
/-- Home address of a die SRAM byte. -/
def dieHome (die off : Nat) : Nat := 0x20000000000 + die * 0x4000000 + off
/-- Home address of an HBM byte: stack and stack physical address. -/
def hbmHome (stack pa : Nat) : Nat := 0x40000000000 + stack * 0x1000000000 + pa
/-- First HBM home address. -/
def hbmBase : Nat := 0x40000000000

/-- The die of a core (R11); steward cores follow the ordinary ones, two per die (R405). -/
def dieOf (core : Nat) : Nat :=
  if core < 65536 then (core / 256 / 64) * 4 + core % 256 / 64 else (core - 65536) / 2

/-- The cluster of a core, counted through the module (R11); the two steward cores of a die share one of their own.
(DEDUCED, log 25.) -/
def clusterOf (core : Nat) : Nat :=
  if core < 65536 then dieOf core * 256 + (core / 256 % 64 / 4) * 16 + core % 256 % 64 / 4 else 4096 + dieOf core

/-- Whether a core is a steward core. -/
def isSteward (core : Nat) : Bool := decide (65536 ≤ core)

/-- The home of a local address of a core (R31). -/
def localHome (core addr : Nat) : Nat :=
  if addr < 0x100000 then tcmHome core addr else spadHome (clusterOf core) (addr - 0x100000)

/-! ### Tables of the module -/

def State.core (s : State) (c : Nat) : Core := (Tab.get? s.cores c).getD {}
def State.setCore (s : State) (c : Nat) (k : Core) : State := { s with cores := Tab.put s.cores c k }
def State.modCore (s : State) (c : Nat) (f : Core → Core) : State := s.setCore c (f (s.core c))
def Core.actor (k : Core) (e : Nat) : Actor := (Tab.get? k.actors e).getD {}
def Core.setActor (k : Core) (e : Nat) (a : Actor) : Core := { k with actors := Tab.put k.actors e a }
def Core.modActor (k : Core) (e : Nat) (f : Actor → Actor) : Core := k.setActor e (f (k.actor e))
def State.actor (s : State) (c e : Nat) : Actor := (s.core c).actor e
def State.modActor (s : State) (c e : Nat) (f : Actor → Actor) : State := s.modCore c fun k => k.modActor e f
def State.die (s : State) (d : Nat) : Die := (Tab.get? s.dies d).getD {}
def State.modDie (s : State) (d : Nat) (f : Die → Die) : State := { s with dies := Tab.put s.dies d (f (s.die d)) }
/-- The arithmetic cycles that the die of a core has counted (R2). -/
def State.now (s : State) (core : Nat) : Nat := (s.die (dieOf core)).cycles
def State.mgate (s : State) (g : Nat) : MemGate := (Tab.get? s.mgates g).getD {}
def State.modMgate (s : State) (g : Nat) (f : MemGate → MemGate) : State :=
  { s with mgates := Tab.put s.mgates g (f (s.mgate g)) }
def State.cluster (s : State) (c : Nat) : Tab SpaceEnt := (Tab.get? s.clusters c).getD []
def State.modCluster (s : State) (c : Nat) (f : Tab SpaceEnt → Tab SpaceEnt) : State :=
  { s with clusters := Tab.put s.clusters c (f (s.cluster c)) }
def State.port (s : State) (p : Nat) : Port := (Tab.get? s.ports p).getD {}
def State.modPort (s : State) (p : Nat) (f : Port → Port) : State := { s with ports := Tab.put s.ports p (f (s.port p)) }
def State.hostFn (s : State) (f : Nat) : HostFn := (Tab.get? s.hostFns f).getD {}
def State.modHostFn (s : State) (n : Nat) (f : HostFn → HostFn) : State :=
  { s with hostFns := Tab.put s.hostFns n (f (s.hostFn n)) }
def State.modMod (s : State) (f : Module → Module) : State := { s with mod := f s.mod }
def State.modFw (s : State) (f : Firmware → Firmware) : State := { s with fw := f s.fw }
def State.modBoot (s : State) (f : Boot → Boot) : State := { s with boot := f s.boot }
/-- Put a packet in flight, behind those in flight. -/
def State.emit (s : State) (p : Packet) : State := { s with net := s.net ++ [p] }
/-- Hand something to the outside. -/
def State.output (s : State) (o : Out) : State := { s with out := s.out ++ [o] }
/-- The counter of free values advances. (DESIGN CHOICE, log 3.) -/
def State.draw (s : State) : State := { s with freeCtr := s.freeCtr + 1 }

/-! ### On-package bytes and line-valid bits (R96) -/

/-- Whether the line of a home address holds data: HBM lines always do. -/
def State.lineOk (s : State) (home : Nat) : Bool :=
  decide (hbmBase ≤ home) || (Tab.get? s.lineValid (home / 64)).getD false

/-- The on-package line of a home address holds a word whose error cannot be corrected (R97). -/
def State.lineBad (s : State) (home : Nat) : Bool :=
  decide (home < hbmBase) && s.badWords.any fun w => decide (w / 8 = home / 64)

/-- A read of one byte: zero from a line whose bit is clear (R96), and from a word that cannot be corrected (R97).
(DESIGN CHOICE, log 4.) -/
def State.readHome (s : State) (home : Nat) : Byte :=
  if s.lineOk home && !s.badWords.contains (home / 8) then Memory.read s.mem home else 0#8

def State.readBytes (s : State) (home n : Nat) : List Byte := (List.range n).map fun i => s.readHome (home + i)

/-- Make the line of a home address valid, its bytes zero (R96); a line with a word that cannot be corrected is one whose bit
is clear (R97). -/
def State.openLine (s : State) (home : Nat) : State :=
  if s.lineOk home && !s.lineBad home then s
  else { s with mem := Memory.clear s.mem (home / 64 * 64) 64, lineValid := Tab.put s.lineValid (home / 64) true,
                badWords := s.badWords.filter fun w => decide (w / 8 ≠ home / 64) }

def State.writeHome (s : State) (home : Nat) (b : Byte) : State :=
  let s := s.openLine home
  { s with mem := Memory.write s.mem home b }

/-- Write bytes from a home address upward. -/
def State.writeBytes (s : State) (home : Nat) : List Byte → State
  | [] => s
  | b :: t => (s.writeHome home b).writeBytes (home + 1) t

/-- Clear the line-valid bits of a range (R96, R97). -/
def State.clearLines (s : State) (home len : Nat) : State :=
  { s with lineValid := s.lineValid.filter fun e => decide (e.1 * 64 < home) || decide (home + len ≤ e.1 * 64) }

/-- Cut an extent at 64-byte lines: (address, length) pieces; `fuel` at least the number of pieces. -/
def linePieces : Nat → Nat → Nat → List (Nat × Nat)
  | 0, _, _ => []
  | f + 1, a, n => if n = 0 then [] else
      let k := min n (64 - a % 64)
      (a, k) :: linePieces f (a + k) (n - k)

def pieces (a n : Nat) : List (Nat × Nat) := linePieces (n / 64 + 2) a n

/-! ### HBM (R115, R117, R413-R415) -/

/-- A range of homes holds a word whose error cannot be corrected (R97, R109). -/
def State.eccBad (s : State) (home len : Nat) : Bool := s.badWords.any fun w => decide (w * 8 < home + len) && decide (home < w * 8 + 8)

def State.hbmKey (s : State) (t : Tenant) : Option (BitVec 512) := Tab.get? s.hbmKeys t.toNat

/-- A byte of a stack as it decrypts under key `k` (R117). (DESIGN CHOICE, log 21.) -/
def State.physByte (s : State) (k : BitVec 512) (home : Nat) : Byte :=
  match (Tab.get? s.lineKeys (home / 64)).orElse fun _ => Tab.get? s.frameKeys (home / 0x200000) with
  | none => Memory.read s.mem home
  | some w => if w = k then Memory.read s.mem home else Config.wrongKeyByte w k (home * 256 + (Memory.read s.mem home).toNat)

def State.physBytes (s : State) (k : BitVec 512) (home n : Nat) : List Byte :=
  (List.range n).map fun i => s.physByte k (home + i)

/-- Write part of one HBM line under key `k`: the rest of the line is read and encrypted again (R117). -/
def State.physWrite (s : State) (k : BitVec 512) (home : Nat) (bs : List Byte) : State :=
  let line := home / 64 * 64
  let old := s.physBytes k line 64
  let s := { s with lineKeys := Tab.put s.lineKeys (home / 64) k }
  (s.writeBytes line old).writeBytes home bs

/-- A page-table entry read by a walk, under tenant 0's key (R415). -/
def State.walkEntry (s : State) (stack pa : Nat) : Nat :=
  leNat (s.physBytes ((s.hbmKey 0#12).getD 0#512) (hbmHome stack pa) 8)

/-- Reserved bits of a page-table entry (R414). -/
def pteReserved (e : Nat) : Bool := decide (bits e 48 16 ≠ 0) || decide (bits e 3 5 ≠ 0)
def pteAddr (e : Nat) : Nat := bits e 8 28 * 256

/-- The walk of R415; the error carries whether PT_BAD advances. An entry with V = 0 is judged by its reserved bits alone, its
other fields being meaningless then: it advances PT_BAD where one of them is set. (DEDUCED, log 60.) -/
def State.walk (s : State) (t : Tenant) (va : Nat) (write : Bool) : Except (Bool × CopyStatus) TlbEnt :=
  let stack := bits va 21 4
  let r := ((Tab.get? (s.mgate stack).roots t.toNat).getD 0#64).toNat
  if bits r 0 1 = 0 then .error (false, .xlate) else
  let e1 := s.walkEntry stack (pteAddr r + 8 * bits va 34 14)
  if bits e1 0 1 = 0 then .error (pteReserved e1, .xlate)
  else if pteReserved e1 || decide (bits e1 2 1 ≠ 0) || decide (bits e1 36 12 ≠ 0) || decide (bits e1 8 4 ≠ 0) then
    .error (true, .xlate)
  else
  let e2 := s.walkEntry stack (pteAddr e1 + 8 * bits va 25 9)
  if bits e2 0 1 = 0 then .error (pteReserved e2, .xlate)
  else if pteReserved e2 then .error (true, .xlate)
  else
  let check (leaf page frame : Nat) (large : Bool) : Except (Bool × CopyStatus) TlbEnt :=
    if decide (bits leaf 36 12 ≠ t.toNat) && decide (t ≠ 0#12) then .error (true, .xlate)
    else if write && decide (bits leaf 1 1 = 0) then .error (false, .prot)
    else .ok { tenant := t, page := page, large := large, frame := frame, kten := BitVec.ofNat 12 (bits leaf 36 12),
               wr := decide (bits leaf 1 1 = 1) }
  if bits e2 2 1 = 1 then
    if bits e2 8 13 ≠ 0 then .error (true, .xlate) else check e2 (va / 0x200000) (pteAddr e2) true
  else if bits e2 36 12 ≠ 0 then .error (true, .xlate)
  else
  let e3 := s.walkEntry stack (pteAddr e2 + 8 * bits va 16 5)
  if bits e3 0 1 = 0 then .error (pteReserved e3, .xlate)
  else if pteReserved e3 || decide (bits e3 2 1 = 0) || decide (bits e3 8 8 ≠ 0) then .error (true, .xlate)
  else check e3 (va / 0x10000) (pteAddr e3) false

/-- A leaf names the page of `va` of tenant `t`. -/
def TlbEnt.hits (e : TlbEnt) (t : Tenant) (va : Nat) : Bool :=
  e.tenant == t && decide (e.page = if e.large then va / 0x200000 else va / 0x10000)

def TlbEnt.home (e : TlbEnt) (va : Nat) : Nat :=
  hbmHome (bits va 21 4) (e.frame + if e.large then va % 0x200000 else va % 0x10000)

/-- Translate without changing the gateway: its cache first, then the walk. -/
def State.translate (s : State) (t : Tenant) (va : Nat) (write : Bool) : Except (Bool × CopyStatus) TlbEnt :=
  match (s.mgate (bits va 21 4)).tlb.find? (TlbEnt.hits · t va) with
  | some e => if write && !e.wr then .error (false, .prot) else .ok e
  | none => s.walk t va write

/-- The die whose counters take the events of a stack's gateway: the die of the same number. (DEDUCED, log 25.) -/
def State.countDie (s : State) (d code : Nat) : State :=
  s.modDie d fun x => { x with
    diag := Tab.put x.diag code (satAdd 0xFFFFFFFF ((Tab.get? x.diag code).getD 0) 1)
    counters := x.selectors.foldl (fun c e =>
      if e.2 = code then Tab.put c e.1 (((Tab.get? c e.1).getD 0 + 1) % 2 ^ 64) else c) x.counters }

/-- One line's translation as the gateway makes it: a good leaf is cached, at most 4,096 of them, of which the one cached
longest ago makes room; PT_BAD advances where a requirement fails (R115, R415). The answer is the home address and the key in
force. (DESIGN CHOICE, log 60.) -/
def State.hbmLine (s : State) (t : Tenant) (va : Nat) (write : Bool) : State × Except CopyStatus (Nat × BitVec 512) :=
  let g := bits va 21 4
  if 2 ^ 48 ≤ va then (s, .error .xlate) else
  match s.translate t va write with
  | .error (bad, st) => (if bad then s.countDie g 0x101 else s, .error st)
  | .ok e =>
    let s := if (s.mgate g).tlb.any (· == e) then s
      else s.modMgate g fun m => { m with tlb := (e :: m.tlb).take 4096 }
    match s.hbmKey e.kten with
    | none => (s, .error .prot)
    | some k => (s, .ok (e.home va, k))

/-- Read an HBM extent line by line; at a failing line, one of no translation or with a word that ECC cannot correct (R109), the
rest is not read, and the bytes before it are the answer. -/
def State.hbmReadLines (s : State) (t : Tenant) : List (Nat × Nat) → List Byte → State × CopyStatus × List Byte
  | [], acc => (s, .ok, acc)
  | (a, n) :: rest, acc =>
    match s.hbmLine t a false with
    | (s, .error st) => (s, st, acc)
    | (s, .ok (home, k)) => if s.eccBad home n then (s, .ecc, acc) else s.hbmReadLines t rest (acc ++ s.physBytes k home n)

def State.hbmRead (s : State) (t : Tenant) (va n : Nat) : State × CopyStatus × List Byte :=
  s.hbmReadLines t (pieces va n) []

/-- Write an HBM extent line by line; at a failing line the rest is not written. The number is that of the bytes written. -/
def State.hbmWriteLines (s : State) (t : Tenant) : List (Nat × Nat) → List Byte → Nat → State × CopyStatus × Nat
  | [], _, done => (s, .ok, done)
  | (a, n) :: rest, bs, done =>
    match s.hbmLine t a true with
    | (s, .error st) => (s, st, done)
    | (s, .ok (home, k)) => (s.physWrite k home (bs.take n)).hbmWriteLines t rest (bs.drop n) (done + n)

def State.hbmWrite (s : State) (t : Tenant) (va : Nat) (bs : List Byte) : State × CopyStatus × Nat :=
  s.hbmWriteLines t (pieces va bs.length) bs 0

/-- What an HBM extent holds, none where a line has no translation or cannot be read: the bytes of a read whose effect on the
gateways `State.hbmRead` or `State.probeArea` gives. -/
def State.hbmPeek (s : State) (t : Tenant) (va n : Nat) : Option (List Byte) :=
  let r := s.hbmRead t va n
  if r.2.1 = .ok then some r.2.2 else none

/-! ### Regions (R91, R94) -/

/-- The rights of R91. -/
inductive Right where
  | rd | wr | ex | rw
  deriving DecidableEq, Repr

def Region.grants (r : Region) : Right → Bool
  | .rd => r.rd
  | .wr => r.wr
  | .ex => r.ex
  | .rw => r.rd && r.wr

/-- Bytes [addr, addr + len) lie wholly inside the region, which has local addresses. -/
def Region.holds (r : Region) (addr len : Nat) : Bool :=
  decide (r.kind < 2) && decide (r.base ≤ addr) && decide (addr + len ≤ r.base + r.size)

/-- The region an actor has at a handle, once it is usable (R91, R293). -/
def Actor.region? (a : Actor) (h : Nat) : Option Region := (Tab.get? a.regions h).filter (·.usable)

/-- The LIVE region that holds an extent, with its handle. -/
def Actor.regionAt (a : Actor) (addr len : Nat) : Option (Nat × Region) :=
  a.regions.find? fun e => !e.2.given && e.2.usable && e.2.holds addr len

/-- Whether a GIVEN entry spans an extent. -/
def Actor.givenAt (a : Actor) (addr len : Nat) : Bool := a.regions.any fun e => e.2.given && e.2.holds addr len

/-- The cluster entry agrees on the owner (R92). -/
def State.spadOwned (s : State) (core : Nat) (a : Actor) (r : Region) : Bool :=
  if r.kind = 1 then
    match Tab.get? (s.cluster (clusterOf core)) r.cidx with
    | some e => e.owner == a.name
    | none => false
  else true

/-- The checks of R94 on an extent of local addresses, in order; `align` 1 for engine operands. The answer is the region
and its handle. -/
def State.checkLocal (s : State) (core entry addr len : Nat) (need : Right) (align : Nat) :
    Except FaultCode (Nat × Region) :=
  let a := s.actor core entry
  if 2 ^ 32 ≤ addr then .error .bounds
  else match a.regionAt addr len with
    | none => .error (if a.givenAt addr len then .given else .bounds)
    | some (h, r) =>
      if !s.spadOwned core a r then .error .bounds
      else if !r.grants need then .error .bounds
      else if addr % align ≠ 0 then .error .align
      else .ok (h, r)

/-- A die-region operand: handle, byte offset and length, checked as R94 checks: an extent that its entry does not hold whole is
BOUNDS before the entry is GIVEN (R112). -/
def State.checkDie (s : State) (core entry handle off len : Nat) (need : Right) : Except FaultCode Region :=
  match (s.actor core entry).region? handle with
  | none => .error .bounds
  | some r =>
    if r.kind ≠ 2 ∨ r.size < off + len then .error .bounds
    else if r.given then .error .given
    else if r.grants need then .ok r else .error .bounds

/-! ### Views and cells (R121-R127) -/

/-- `mix64` of R160. -/
def mix64 (x : Word) : Word :=
  let x := x ^^^ (x >>> 31)
  let x := x * 0x9C5E4F11B6A2D3C7#64
  let x := x ^^^ (x >>> 27)
  let x := x * 0xD1B34E972C5F8A13#64
  x ^^^ (x >>> 33)

/-- Who looks at memory: an actor of a core, in a context and the slot that maps it. -/
structure View where
  core : Nat
  entry : Nat
  ctx : CtxId
  slot : Nat
  deriving DecidableEq, Repr

/-- The filter bit of a context of an actor (R126). -/
def Actor.filterBit (a : Actor) (c : CtxId) : Bool := a.filter.getLsbD ((mix64 (c.setWidth 64)).toNat % 256)

/-- A pool cell answers to an owner, a region handle, a line and a context in its slot. -/
def Cell.matches_ (c : Cell) (entry handle line : Nat) (ctx : CtxId) (slot : Nat) : Bool :=
  decide (c.entry = entry) && decide (c.handle = handle) && decide (c.line = line) && c.ctx == ctx && decide (c.slot = slot)

/-- A buffered cell answers by its full id (R124, R126). -/
def Cell.matchesId (c : Cell) (entry handle line : Nat) (ctx : CtxId) : Bool :=
  decide (c.entry = entry) && decide (c.handle = handle) && decide (c.line = line) && c.ctx == ctx

/-- The data of a cell, from the pool or the eviction buffer; a reserved cell has none yet. -/
def Core.cellData (k : Core) (entry handle line : Nat) (ctx : CtxId) (slot : Nat) : Option (List Byte) :=
  match k.cells.find? (fun c => !c.data.isEmpty && c.matches_ entry handle line ctx slot) with
  | some c => some c.data
  | none => (k.evicts.find? (fun e => e.cell.matchesId entry handle line ctx)).map (·.cell.data)

/-- One byte of a region as a view reads it (R121). -/
def State.viewByte (s : State) (v : View) (h : Nat) (r : Region) (addr : Nat) : Byte :=
  if r.tagged && v.ctx != 0#32 then
    match (s.core v.core).cellData v.entry h ((addr - r.base) / 64) v.ctx v.slot with
    | some d => d.getD (addr % 64) 0#8
    | none => s.readHome (localHome v.core addr)
  else s.readHome (localHome v.core addr)

def State.viewBytes (s : State) (v : View) (h : Nat) (r : Region) (addr n : Nat) : List Byte :=
  (List.range n).map fun i => s.viewByte v h r (addr + i)

/-- What a write through a view answers: done, no cell to be had, or the eviction buffer is full, with the evictions it has made
so far (R55, R124, R127). -/
inductive Got where
  | ok (s : State)
  | noCell
  | full (s : State)
  deriving Repr

def Got.bind (g : Got) (f : State → Got) : Got :=
  match g with
  | .ok s => f s
  | .noCell => .noCell
  | .full s => .full s

/-- Cells of the core's pool (R124, R360). -/
def Core.poolSize (k : Core) : Nat := k.cfg.cpool * 256

/-- A recall for a dispatch runs, or a message of the actor whose records have been recalled waits for its dispatch (R125). -/
def Core.recalledFor (k : Core) (entry : Nat) (ctx : CtxId) : Bool :=
  k.recalls.any (fun r => decide (r.why = .dispatch) && decide (r.entry = entry) && r.ctx == ctx) || k.queue.any (fun q => decide (q.entry = entry) && q.msg.ctx == ctx && decide (q.recalled = some true)) ||
    k.joins.any fun j => decide (bits j.2.owner.toNat 32 6 = entry) && decide (j.2.recalled = some true) &&
      decide (j.2.parked.map (·.ctx) = some ctx)

/-- A cell is pinned: a handler of its owner has its context as CTX, or recalled it by CTXPF (R124), or it is recalled for a
message that waits for its dispatch (R125), or a held landing needs it (R130). -/
def Core.pinned (k : Core) (c : Cell) : Bool :=
  k.handlers.any (fun h => decide (h.2.entry = c.entry) &&
    ((h.2.ctx == c.ctx && decide (h.2.slot = c.slot)) || h.2.recalls.any (·.1 == c.ctx))) ||
    k.recalledFor c.entry c.ctx || k.heldLandings.any fun x => decide (x.entry = c.entry) && decide (x.handle = c.handle) &&
      x.op.ctx == c.ctx && (pieces x.addr x.op.len).any fun p => decide ((p.1 - x.region.base) / 64 = c.line)

/-- Index of the `i`-th record of the probe window of a context (R126). -/
def probeIndex (n : Nat) (c : CtxId) (i : Nat) : Nat := ((mix64 (c.setWidth 64)).toNat % n + i) % n

/-- Offsets in the overflow area of the records of a context's probe window. -/
def probeOffsets (ovlen : Nat) (c : CtxId) : List Nat :=
  let n := ovlen / 128
  (List.range (min n 256)).map fun i => 128 * probeIndex n c i

/-- The context id a record of an overflow area holds, none where it cannot be read. -/
def State.recordId (s : State) (a : Actor) (off : Nat) : Option Nat :=
  (s.hbmPeek a.tenant (a.ova + off + 64) 4).map leNat

/-- The gateways after the ids of records of an overflow area have been read (R115, R126). -/
def State.probeArea (s : State) (a : Actor) (offs : List Nat) : State :=
  offs.foldl (fun s o => (s.hbmRead a.tenant (a.ova + o + 64) 8).1) s

/-- The first free record in the window of a context that no other eviction has taken (R126). A record that cannot be read
counts as free: the write-back then fails. (DEDUCED, log 15.) -/
def State.freeOffset (s : State) (core entry : Nat) (c : CtxId) : Option Nat :=
  let k := s.core core
  let a := k.actor entry
  let taken := (k.evicts.filter fun e => decide (e.cell.entry = entry)).map (·.off)
  if a.ovlen < 128 then none
  else (probeOffsets a.ovlen c).find? fun o => !taken.contains o && match s.recordId a o with
    | some i => decide (i = 0)
    | none => true

/-- The owner has room for a victim of context `c` (R126). -/
def State.hasRoom (s : State) (core entry : Nat) (c : CtxId) : Bool := (s.freeOffset core entry c).isSome

/-- The least recently used of a list of cells, with its place. -/
def lruCell : List (Nat × Cell) → Option (Nat × Cell)
  | [] => none
  | c :: t =>
    match lruCell t with
    | none => some c
    | some d => if d.2.used < c.2.used then some d else some c

/-- The owners and contexts of the pool's cells with room in the owner's overflow area. -/
def State.roomy (s : State) (core : Nat) : List (Nat × CtxId) :=
  ((s.core core).cells.map fun c => (c.entry, c.ctx)).eraseDups.filter fun e => s.hasRoom core e.1 e.2

/-- The victim of an eviction (R124). -/
def State.victim (s : State) (core : Nat) : Option (Nat × Cell) :=
  let k := s.core core
  let room := s.roomy core
  lruCell ((k.cells.mapIdx fun i c => (i, c)).filter fun e =>
    !e.2.reserved && !k.pinned e.2 && room.contains (e.2.entry, e.2.ctx))

/-- Move a pool cell to the eviction buffer, into the first free record of its window: its owner's record count and filter rise
(R124, R126). `evictedN` counts the evictions of one die cycle (R128). -/
def State.evict (s : State) (core i : Nat) (c : Cell) : State :=
  let o := (s.freeOffset core c.entry c.ctx).getD 0
  let now := s.now core
  let a := s.actor core c.entry
  let s := s.probeArea a (((probeOffsets a.ovlen c.ctx).takeWhile fun x => decide (x ≠ o)) ++ [o])
  s.modCore core fun k =>
    let k := { k with cells := dropAt k.cells i, evicts := k.evicts ++ [({ cell := c, off := o } : Evict)],
                      evictedN := if k.evictedAt = some now then k.evictedN + 1 else 1, evictedAt := some now }
    k.modActor c.entry fun a =>
      { a with recCount := a.recCount + 1, filter := a.filter ||| (1#256 <<< ((mix64 (c.ctx.setWidth 64)).toNat % 256)) }

/-- `take_pool_cell` of R124: room for one more cell. -/
def State.takeCell (s : State) (core : Nat) : Got :=
  let k := s.core core
  if k.cells.length < k.poolSize then .ok s
  else match s.victim core with
    | none => .noCell
    | some (i, c) => if 32 ≤ k.evicts.length then .full s else .ok (s.evict core i c)

/-- The 64 bytes of the base line under an address (R121). -/
def State.baseLine (s : State) (core addr : Nat) : List Byte := s.readBytes (localHome core (addr / 64 * 64)) 64

/-- Replace bytes of a list from an offset. -/
def patch (l : List Byte) (o : Nat) (bs : List Byte) : List Byte := l.take o ++ bs ++ l.drop (o + bs.length)

/-- The new use number of a cell. -/
def State.touch (s : State) (core : Nat) : State := s.modCore core fun k => { k with lru := k.lru + 1 }

/-- Write bytes of one line through a view (R121, R122): into the cell, materialised where there is none or only a reserved
one, which stays reserved until its own operation has written (R127). -/
def State.storeLine (s : State) (v : View) (h : Nat) (r : Region) (addr : Nat) (bs : List Byte) : Got :=
  if r.tagged && v.ctx != 0#32 then
    let line := (addr - r.base) / 64
    let k := s.core v.core
    let put (c : Cell) (old : List Byte) : Cell := { c with data := patch old (addr % 64) bs, used := k.lru }
    match k.cells.findIdx? (·.matches_ v.entry h line v.ctx v.slot) with
    | some i =>
      let upd (c : Cell) : Cell := put c (if c.data.isEmpty then s.baseLine v.core addr else c.data)
      .ok ((s.touch v.core).modCore v.core fun k => { k with cells := modifyAt k.cells i upd })
    | none =>
      match k.evicts.findIdx? (fun e => e.cell.matchesId v.entry h line v.ctx) with
      | some i =>
        let upd (e : Evict) : Evict := { e with cell := { e.cell with data := patch e.cell.data (addr % 64) bs } }
        .ok (s.modCore v.core fun k => { k with evicts := modifyAt k.evicts i upd })
      | none =>
        (s.takeCell v.core).bind fun s =>
          .ok ((s.touch v.core).modCore v.core fun k => { k with cells := k.cells ++
            [put { entry := v.entry, handle := h, line := line, ctx := v.ctx, slot := v.slot } (s.baseLine v.core addr)] })
  else .ok (s.writeBytes (localHome v.core addr) bs)

/-- Write an extent through a view, line by line. -/
def State.storeLines (s : State) (v : View) (h : Nat) (r : Region) : List (Nat × Nat) → List Byte → Got
  | [], _ => .ok s
  | (a, n) :: rest, bs => (s.storeLine v h r a (bs.take n)).bind fun s => s.storeLines v h r rest (bs.drop n)

def State.storeView (s : State) (v : View) (h : Nat) (r : Region) (addr : Nat) (bs : List Byte) : Got :=
  s.storeLines v h r (pieces addr bs.length) bs

/-- Reserve a cell for one line of a tagged destination that has none (R127). -/
def State.reserveLine (s : State) (v : View) (h : Nat) (r : Region) (addr : Nat) : Got :=
  let line := (addr - r.base) / 64
  let k := s.core v.core
  if k.cells.any (·.matches_ v.entry h line v.ctx v.slot) || k.evicts.any (fun e => e.cell.matchesId v.entry h line v.ctx)
  then .ok s
  else (s.takeCell v.core).bind fun s =>
    .ok ((s.touch v.core).modCore v.core fun k => { k with cells := k.cells ++
      [({ entry := v.entry, handle := h, line := line, ctx := v.ctx, slot := v.slot, used := k.lru, reserved := true } : Cell)] })

/-- Reserve the cells of the lines of a destination (R127). -/
def State.reserveLines (s : State) (v : View) (h : Nat) (r : Region) : List (Nat × Nat) → Got
  | [] => .ok s
  | (a, _) :: rest => (s.reserveLine v h r a).bind fun s => s.reserveLines v h r rest

/-- The lines of every part of a destination, given by address and length. -/
def State.reserveParts (s : State) (v : View) (h : Nat) (r : Region) (parts : List (Nat × Nat)) : Got :=
  if r.tagged && v.ctx != 0#32 then s.reserveLines v h r (parts.flatMap fun p => pieces p.1 p.2) else .ok s

def State.reserveView (s : State) (v : View) (h : Nat) (r : Region) (addr n : Nat) : Got := s.reserveParts v h r [(addr, n)]


/-- The bytes of an extent of an actor, tagged or not, as a view reads it; zero outside its regions. -/
def State.peek (s : State) (v : View) (addr n : Nat) : List Byte :=
  match (s.actor v.core v.entry).regionAt addr n with
  | some (h, r) => s.viewBytes v h r addr n
  | none => List.replicate n 0#8

/-- Write an extent of an actor through a view, where a region holds it; a write whose cells a wave has freed takes others, or
waits for them (R124, R135). -/
def State.poke (s : State) (v : View) (addr : Nat) (bs : List Byte) : Got :=
  match (s.actor v.core v.entry).regionAt addr bs.length with
  | some (h, r) => s.storeView v h r addr bs
  | none => .ok s

/-- Reserved cells without data of an operation that has ended get the base line's bytes: the operation's extent materialises
every line it touches (R122). -/
def State.fillCell (s : State) (core : Nat) (r : Region) (c : Cell) : Cell :=
  if c.data.isEmpty then { c with data := s.baseLine core (r.base + 64 * c.line) } else c

/-- The base view of an actor (R121). -/
def baseView (core entry : Nat) : View := { core := core, entry := entry, ctx := 0#32, slot := 0 }

/-- Write an extent of an actor's base view, where a region holds it: no cell is needed (R121). -/
def State.pokeBase (s : State) (core entry addr : Nat) (bs : List Byte) : State :=
  match (s.actor core entry).regionAt addr bs.length with
  | some _ => s.writeBytes (localHome core addr) bs
  | none => s

end Sys2Proof.Machine
end

