-- ==== Sys2Proof/Machine/Route.lean ====
section
/-! DEFINITION. Counters (29 R451-R456), names and places (01 R8, R11, 26 R405), scopes (R189), what an earlier write or read
still waits for (R193, R196), and the routes and flits of the edge gateways (27 R423-R427, R435). -/

namespace Sys2Proof.Machine

open Sys2Proof

/-! ### Counters -/

/-- Field VALID and OPEN of a slice word (R360). -/
def sliceValid (w : Word) : Bool := w.getLsbD 26
def sliceOpen (w : Word) : Bool := w.getLsbD 27
def sliceLen (w : Word) : Nat := bits w.toNat 12 14
def sliceTenant (w : Word) : Tenant := BitVec.ofNat 12 w.toNat

/-- The slice word in force, none with no valid entry. -/
def Core.slice (k : Core) : Option Word :=
  if k.slices.any (sliceValid ·.2) then Tab.get? k.slices k.sliceAt else none

/-- The core admits every tenant (R59, R360). -/
def Core.isOpen (k : Core) : Bool :=
  match k.slice with
  | none => true
  | some w => sliceOpen w

/-- The tenant may run now (R48 condition 4). -/
def Core.admits (k : Core) (t : Tenant) : Bool :=
  k.isOpen || t == 0#12 || (match k.slice with | some w => sliceTenant w == t | none => true)

/-- Number of the copy of the event counters that a tenant's events advance: 4,096 stands for the one copy of the open
entry (R454). -/
def Core.copyOf (k : Core) (t : Tenant) : Option Nat :=
  if k.isOpen then some 4096
  else if k.slices.any (fun e => sliceValid e.2 && sliceTenant e.2 == t) then some t.toNat else none

/-- The copy CRD and CWR reach (R454). -/
def Core.loadedCopy (k : Core) : Nat :=
  if k.isOpen then 4096 else match k.slice with | some w => (sliceTenant w).toNat | none => 4096

def Core.evCopy (k : Core) (n : Nat) : EvCopy := (Tab.get? k.evCopies n).getD {}

/-- One copy's counters advance where the selector that they had as the cycle began names the source (R452, R456). -/
def EvCopy.advance (e : EvCopy) (src n : Nat) : EvCopy :=
  { e with fresh := Vector.ofFn fun i => if ((Tab.get? e.old i.val).getD e.sels[i]).toNat = src then e.fresh[i] + n else e.fresh[i] }

/-- At the end of a cycle its events are added to the counters, which saturate (R452, R456). -/
def EvCopy.settle (e : EvCopy) : EvCopy :=
  { e with vals := Vector.ofFn fun i => BitVec.ofNat 64 (satAdd (2 ^ 64 - 1) e.vals[i].toNat e.fresh[i]), fresh := Vector.replicate 4 0, old := [] }

def Core.settleEvents (k : Core) : Core := { k with evCopies := Tab.mapVals k.evCopies fun _ e => e.settle }

/-- An event of a core source, `n` times, for a tenant (R451, R454, R455); the groups retired since energy was last
apportioned are kept apart, as the diagnostic counter saturates (R450). -/
def Core.countN (k : Core) (t : Tenant) (src n : Nat) : Core :=
  { k with
    diag := Tab.put k.diag src (satAdd 0xFFFFFFFF ((Tab.get? k.diag src).getD 0) n)
    evCopies := match k.copyOf t with
      | some c => Tab.put k.evCopies c ((k.evCopy c).advance src n)
      | none => k.evCopies
    groups := if src = 0x002 then k.groups + n else k.groups }

/-- The die counters that select the source (R455); they sum over the 4,096 cores of the die, stewards apart. -/
def Die.countN (d : Die) (src n : Nat) : Die :=
  { d with counters := d.selectors.foldl (fun c e =>
      if e.2 = src then Tab.put c e.1 (((Tab.get? c e.1).getD 0 + n) % 2 ^ 64) else c) d.counters }

/-- (DEDUCED, log 25.) -/
def State.countN (s : State) (core : Nat) (t : Tenant) (src n : Nat) : State :=
  if n = 0 then s
  else
    let s := s.modCore core fun k => k.countN t src n
    if 65536 ≤ core || (s.die (dieOf core)).selectors.isEmpty then s else s.modDie (dieOf core) fun d => d.countN src n

def State.count (s : State) (core : Nat) (t : Tenant) (src : Nat) : State := s.countN core t src 1

/-! ### Names and places -/

def nameModule (n : Name) : Nat := bits n.toNat 54 10
def nameSlot (n : Name) : Nat := bits n.toNat 32 6
def nameInc (n : Name) : BitVec 16 := n.extractLsb' 16 16
def nameTenant (n : Name) : Tenant := n.extractLsb' 4 12
def namePool (n : Name) : Bool := n.getLsbD 3
def nameRepl (n : Name) : Bool := n.getLsbD 2
def nameSupv (n : Name) : Bool := n.getLsbD 1

/-- A malformed name (R9). -/
def nameBad (n : Name) : Bool := n.getLsbD 0 || nameInc n == 0#16

/-- The pseudo-core that stands for the host gateway (R396); function n sends as number `hostPlace + n`. -/
def hostPlace : Nat := 100000

/-- The endpoint of a core, name bits [63:38] (R8, R405), or of a function of the host gateway, EX its number (R396). -/
def State.endpoint (s : State) (core : Nat) : Nat :=
  s.mod.num.toNat * 65536 +
    if core < 65536 then (core % 256) * 256 + core / 256
    else if hostPlace ≤ core then (core - hostPlace) % 256 * 256
    else ((core - 65536) / 2 + 16 * ((core - 65536) % 2)) * 256

/-- The core whose counters take what befalls a packet at the host gateway: steward 0 of die 0. (DEDUCED, log 25.) -/
def gateCore : Nat := 65536

/-- The core that counts for a sender. -/
def countCore (core : Nat) : Nat := if hostPlace ≤ core then gateCore else core

/-- The core of an endpoint of this module (R11). -/
def epCore (ep : Nat) : Nat := ep % 256 * 256 + ep / 256 % 256

/-- The core that a name of this module is delivered to (R11, R396, R405). -/
def nameCore (n : Name) : Nat :=
  let x := bits n.toNat 46 8
  if namePool n && nameRepl n then 65536 + 2 * (x % 16) + x / 16 % 2
  else if namePool n && nameSupv n then hostPlace
  else bits n.toNat 38 8 * 256 + x

/-- Whether a name is of this module. -/
def State.isLocal (s : State) (n : Name) : Bool := decide (nameModule n = s.mod.num.toNat)

/-- A core numbered through the pod. -/
def State.gcore (s : State) (core : Nat) : Nat := s.mod.num.toNat * 0x20000 + core

/-- The core of a pod-wide number where it is of this module. -/
def State.ownCore (s : State) (g : Nat) : Option Nat :=
  if g / 0x20000 = s.mod.num.toNat ∧ g % 0x20000 < 65568 then some (g % 0x20000) else none

/-- An incarnation lives in its entry (R10). -/
def State.alive (s : State) (core : Nat) (n : Name) : Bool :=
  let a := s.actor core (nameSlot n)
  decide (a.state = .live) && a.name == n

/-- A module has been declared lost (R435). -/
def State.isLost (s : State) (m : Nat) : Bool := s.lost.contains m

/-! ### Scopes (R189) -/

/-- The scope, seen from a core, contains a place: a core of the module, or none for another module's. -/
def scopeHolds (sc : Scope) (core : Nat) (place : Option Nat) : Bool :=
  match place with
  | none => decide (sc = .pd)
  | some p =>
    match sc with
    | .cl => decide (clusterOf core = clusterOf p)
    | .di => decide (dieOf core = dieOf p)
    | .mo => true
    | .pd => true

/-- The smallest scope that holds a place, at least `sc` (R193). -/
def widen (sc : Scope) (core : Nat) (place : Option Nat) : Scope :=
  if scopeHolds sc core place then sc
  else if scopeHolds .di core place then .di
  else if scopeHolds .mo core place then .mo else .pd

/-- The place a name is delivered to, for scopes. -/
def State.placeOf (s : State) (n : Name) : Option Nat := if s.isLocal n then some (nameCore n) else none

/-! ### Outstanding writes and reads (R193, R196) -/

/-- Two issuers are one program: the same actor, and for a pool actor the same handler (R192). -/
def sameProgram (pool : Bool) (n m : Name) (a b : Nat) : Bool := n == m && (!pool || decide (a = b))

/-- A home of an end of a copy, by its kind (R298), lies within a scope seen from a core: a local extent always, the die's
memory from the die up, HBM from the module up, a window where its core lies. -/
def endIn (sc : Scope) (core kind : Nat) (places : List (Option Nat)) : Bool :=
  match kind with
  | 0 => true
  | 1 => decide (sc ≠ .cl)
  | 2 => decide (sc = .mo ∨ sc = .pd)
  | _ => places.any (scopeHolds sc core ·)

/-- Everything an operation moves has been performed or has failed; only its completion is still to come (R40, R301). -/
def EngOp.landed (o : EngOp) : Bool := o.sent && o.waiting.isEmpty && o.extra.isEmpty

/-- The home of results that an engine operation has still to write, or of what it has still to read, lies within a scope. -/
def EngOp.writesIn (o : EngOp) (sc : Scope) (core : Nat) : Bool :=
  !o.landed && match o.body with
  | .copy _ d => endIn sc core d.dk o.places
  | _ => true
def EngOp.readsIn (o : EngOp) (sc : Scope) (core : Nat) : Bool :=
  !o.landed && match o.body with
  | .copy _ d => endIn sc core d.sk o.places
  | _ => true

/-- A target of a remote operation lies within a scope, or one of its group (R200). -/
def Remote.within (r : Remote) (sc : Scope) (core : Nat) : Bool :=
  scopeHolds sc core r.place || r.members.any fun p => scopeHolds sc core (some p)

/-- The longest that anything waits for an operation issued at a time, in ns (R194). -/
def waitLimit : Nat := 1000000
def stillCovers (now at_ : Nat) : Bool := decide (now < at_ + waitLimit)

/-- Some earlier write of the program within the scope has not been performed, and its limit has not passed (R193, R194). -/
def Core.writePending (k : Core) (now core : Nat) (n : Name) (serial : Nat) (sc : Scope) (upto : Nat) : Bool :=
  let me (m : Name) (b seq at_ : Nat) : Bool := sameProgram (namePool n) n m serial b && decide (seq < upto) && stillCovers now at_
  k.remotes.any (fun r => r.2.write && me r.2.name r.2.serial r.2.seq r.2.at_ && r.2.within sc core) ||
  (k.teasel ++ k.vec ++ k.matq ++ k.sumq).any (fun o => me o.name o.serial o.seq o.at_ && o.writesIn sc core) ||
  k.outq.any (fun e => me e.name e.serial e.seq e.at_ && (match e.body with | .localStore .. => true | _ => false))

/-- Some earlier read of the program within the scope has not been performed, and its limit has not passed (R194, R196). -/
def Core.readPending (k : Core) (now core : Nat) (n : Name) (serial : Nat) (sc : Scope) (upto : Nat) : Bool :=
  let me (m : Name) (b seq at_ : Nat) : Bool := sameProgram (namePool n) n m serial b && decide (seq < upto) && stillCovers now at_
  k.remotes.any (fun r => r.2.read && me r.2.name r.2.serial r.2.seq r.2.at_ && r.2.within sc core) ||
  (k.teasel ++ k.vec ++ k.matq ++ k.sumq).any fun o => me o.name o.serial o.seq o.at_ && o.readsIn sc core

/-- The flow of a message for R192: sender, receiver, channel, a given region's notice with the others; a counter advance is a
flow of its own (R284), and so are the link and the monitor requests of a pair, with what undoes them (R277). -/
def flowOf : Packet → Option (Name × Name × Nat)
  | .msg m => some (m.sender, m.dest, m.chan.toNat)
  | .transfer t => some (t.giver, t.dest, t.notice.chan.toNat)
  | .advance o _ _ n => some (n, o, 4)
  | .linkReq mon r p _ _ _ _ => some (r, p, 5 + mon.toNat)
  | .unlink mon r p _ => some (r, p, 5 + mon.toNat)
  | _ => none

def OutBody.packet? : OutBody → Option Packet
  | .packet p => some p
  | .remote _ p => some p
  | .localStore .. => none
  | .fork .. => none
  | .wqOpen .. => none

/-- The flow of an outbound entry; a FORK is a SEND of its message there (R285). -/
def OutBody.flow (b : OutBody) : Option (Name × Name × Nat) :=
  match b with
  | .fork _ m => flowOf (.msg m)
  | b => b.packet?.bind flowOf

/-- Nothing keeps the entry: its earlier writes and reads are performed, and no earlier message of its flow waits, in the
queue or as the notice of a region still to be copied (R192-R196, R199). (DESIGN CHOICE, log 17.) -/
def Core.outReady (k : Core) (now core : Nat) (e : OutEnt) : Bool :=
  e.conds.all (fun c => !k.writePending now core e.name e.serial c.1 c.2) &&
  e.reads.all (fun c => !k.readPending now core e.name e.serial c.1 c.2) &&
  (match e.body.flow with
   | none => true
   | some f => !k.outq.any (fun b => decide (b.body.flow = some f) && decide (b.seq < e.seq)) &&
     !k.teasel.any fun o => decide (o.seq < e.seq) && match o.body with
       | .transfer t => decide (flowOf (.transfer t) = some f)
       | _ => false)

/-! ### Window keys and the order of each location (R104, R186) -/

def keyWin (k : Word) : Nat := bits k.toNat 32 6
def keyGen (k : Word) : BitVec 16 := k.extractLsb' 16 16
def keyTenant (k : Word) : Tenant := k.extractLsb' 4 12

/-- The module of a window key or handle, and its core where that is this module (R104). -/
def State.keyPlace (s : State) (key : Word) : Option Nat :=
  if nameModule key = s.mod.num.toNat then some (epCore (key.toNat / 2 ^ 38)) else none

def Span.overlaps (a b : Span) : Bool := decide (a.home < b.home + b.len) && decide (b.home < a.home + a.len)

/-- The whole lines that a range touches. -/
def Span.lines (a : Span) : Span :=
  let h := a.home / 64 * 64
  { home := h, len := (a.home + a.len + 63) / 64 * 64 - h }

/-- The home of a region's first byte. -/
def regionHome (core : Nat) (r : Region) : Nat :=
  if r.kind = 2 then dieHome (dieOf core) r.base else localHome core r.base

/-- The range of a waiting local store, by whole lines in a tagged region, whose views change by lines (R121, R252). -/
def OutBody.storeSpan (b : OutBody) (core : Nat) : Option Span :=
  match b with
  | .localStore _ _ r _ _ addr bs =>
    let sp : Span := { home := localHome core addr, len := bs.length }
    some (if r.tagged then sp.lines else sp)
  | _ => none

/-- A store of the program with a number below `upto` waits in the store buffer and touches a range (R186, R190). -/
def Core.storeHeld (k : Core) (core : Nat) (n : Name) (serial upto : Nat) (sp : Span) : Bool :=
  k.outq.any fun e => sameProgram (namePool n) n e.name serial e.serial && decide (e.seq < upto) &&
    (e.body.storeSpan core).any (Span.overlaps · sp)

/-- The home of the bytes of a window of this module, while its key is good. -/
def State.spotSpan (s : State) (x : Spot) : Option Span :=
  if x.key.toNat % 16 ≠ 0 then none else
  match s.keyPlace x.key with
  | none => none
  | some core =>
    match Tab.get? (s.core core).windows (keyWin x.key) with
    | none => none
    | some w =>
      if w.live && w.gen == keyGen x.key then
        (Tab.get? (s.actor core w.owner).regions w.handle).map fun r =>
          { home := regionHome core r + w.off + x.off, len := x.len }
      else none

/-- A spot of a multicast group: its members' windows are the switches' to know. -/
def Spot.wide (x : Spot) : Bool := x.key.getLsbD 0

/-- Two spots share a byte: in the memory of this module, or by their key in another's; those of a multicast may share one with
any. (DEDUCED, log 53.) -/
def State.sameSpot (s : State) (a b : Spot) : Bool :=
  a.wide || b.wide || match s.spotSpan a, s.spotSpan b with
  | some x, some y => x.overlaps y
  | _, _ => a.key == b.key && decide (a.off < b.off + b.len) && decide (b.off < a.off + a.len)

def State.spotsMeet (s : State) (a b : List Spot) : Bool := a.any fun x => b.any fun y => s.sameSpot x y

/-- An earlier remote operation of the same sender reaches a byte that this packet's operations reach: they keep their order
(R186, R188). (DEDUCED, log 53.) -/
def State.remoteBehind (s : State) (before : List Packet) (p : Packet) : Bool :=
  match p.spots with
  | none => false
  | some (n, l) => before.any fun q => match q.spots with
    | some (m, l') => m == n && s.spotsMeet l l'
    | none => false

/-- An earlier remote write of the program, not yet performed, may reach a range of this core (R186). (DEDUCED, log 53.) -/
def State.remoteMeets (s : State) (core : Nat) (n : Name) (serial upto : Nat) (sp : Span) : Bool :=
  (s.core core).remotes.any fun r => r.2.write && sameProgram (namePool n) n r.2.name serial r.2.serial && decide (r.2.seq < upto) &&
    stillCovers s.mod.timeNs r.2.at_ && match r.2.spot with
      | some x => x.wide || (match s.spotSpan x with | some y => y.overlaps sp | none => false)
      | none => false

/-! ### Flits and routes (R423-R427, R435) -/

/-- The routing header of R425. (DEDUCED, log 18.) -/
def mkHeader (dst src : Nat) (tenant : Tenant) (kind lw port enc group mask status seq : Nat) : BitVec 192 :=
  BitVec.ofNat 192 (seq % 2 ^ 64 + status * 2 ^ 64 + mask * 2 ^ 68 + group % 4096 * 2 ^ 100 + enc * 2 ^ 112 +
    port * 2 ^ 113 + lw * 2 ^ 119 + kind * 2 ^ 124 + tenant.toNat * 2 ^ 128 + src % 2 ^ 26 * 2 ^ 140 + dst % 2 ^ 26 * 2 ^ 166)

/-- Codes of R109. -/
def statusCode : CopyStatus → Nat
  | .ok => 0 | .xlate => 1 | .prot => 2 | .window => 3 | .ecc => 4 | .encrypted => 5 | .dead => 6

/-- Where a packet goes: a module with the destination endpoint, or a switch, for a group and the endpoint that the operation
comes from. -/
inductive Route where
  | module (m ep : Nat)
  | switch (group ep : Nat)
  deriving DecidableEq, Repr

/-- The endpoint of a pod-wide core number. -/
def gEndpoint (g : Nat) : Nat :=
  let core := g % 0x20000
  g / 0x20000 * 65536 +
    if core < 65536 then (core % 256) * 256 + core / 256 else ((core - 65536) / 2 + 16 * ((core - 65536) % 2)) * 256

def Packet.route : Packet → Route
  | .msg m => .module (nameModule m.dest) (m.dest.toNat / 2 ^ 38)
  | .kill t _ _ _ => .module (nameModule t) (t.toNat / 2 ^ 38)
  | .signal t _ _ _ _ _ _ => .module (nameModule t) (t.toNat / 2 ^ 38)
  | .linkReq _ _ p _ _ _ _ => .module (nameModule p) (p.toNat / 2 ^ 38)
  | .linkAns _ r _ _ _ _ _ => .module (nameModule r) (r.toNat / 2 ^ 38)
  | .unlink _ _ p _ => .module (nameModule p) (p.toNat / 2 ^ 38)
  | .advance o _ _ _ => .module (nameModule o) (o.toNat / 2 ^ 38)
  | .spawn r => .module (r.place.toNat / 65536) r.place.toNat
  | .spawnAck c .. => .module (c / 0x20000) (gEndpoint c)
  | .spawnName c .. => .module (c / 0x20000) (gEndpoint c)
  | .resReq n _ _ _ _ => .module (nameModule n) (n.toNat / 2 ^ 38)
  | .resAns c _ _ _ => .module (c / 0x20000) (gEndpoint c)
  | .hash n _ _ => .module (nameModule n) (n.toNat / 2 ^ 38)
  | .remote o => .module (nameModule o.key) (o.key.toNat / 2 ^ 38)
  | .combined os => match os with
    | o :: _ => .module (nameModule o.key) (o.key.toNat / 2 ^ 38)
    | [] => .module 0 0
  | .response c .. => .module (c / 0x20000) (gEndpoint c)
  | .transfer t => .module (nameModule t.dest) (t.dest.toNat / 2 ^ 38)
  | .tile d .. => .module (nameModule d) (d.toNat / 2 ^ 38)
  | .wqQuery h _ _ _ => .module (nameModule h) (nameModule h * 65536)
  | .wqClose h .. => .module (nameModule h) (nameModule h * 65536)
  | .multicast g .. => .switch g.toNat 0
  | .pullReq g .. => .switch g.toNat 0
  | .mcastMember _ o => .module (nameModule o.key) (o.key.toNat / 2 ^ 38)
  | .mergedAck c .. => .module (c / 0x20000) (gEndpoint c)
  | .mcastAck g _ _ _ c _ => .switch g.toNat (gEndpoint c)
  | .pullReply g _ _ _ _ _ c _ => .switch g.toNat (gEndpoint c)
  | .pullRead _ _ k .. => .module (nameModule k) (k.toNat / 2 ^ 38)
  | .reduced c .. => .module (c / 0x20000) (gEndpoint c)
  | .steward a => .module (a.core / 0x20000) (gEndpoint a.target)
  | .prmt t _ => .module (nameModule t) (t.toNat / 2 ^ 38)
  | .retireWave m _ _ _ => .module m (m * 65536)
  | .waveDone m _ _ _ _ => .module m (m * 65536)
  | .retired m _ => .module m (m * 65536)
  | .wakeQuery m _ _ => .module m (m * 65536)
  | .wakeAns c .. => .module (c / 0x20000) (gEndpoint c)
  | .manage m .. => .module m (m * 65536)
  | .firmware m _ _ => .module m (m * 65536)
  | .copy _ _ m => .module (nameModule m.dest) (m.dest.toNat / 2 ^ 38)
  | .stealReq v _ => .module (v / 0x20000) (gEndpoint v)
  | .stealReply t _ _ => .module (t / 0x20000) (gEndpoint t)

/-- KIND of R425. A region's parts travel as stores, its notice, with what the region is, as a message. (DEDUCED, log 18.) -/
def Packet.kind : Packet → Nat
  | .msg _ => 0
  | .remote o => if o.kind = .store then 1 else 2
  | .combined _ => 1
  | .transfer _ => 0
  | .tile .. => 1
  | .response .. => 3
  | .multicast .. => 4
  | .mcastMember .. => 4
  | .mcastAck .. => 5
  | .mergedAck .. => 6
  | .pullReq .. => 7
  | .pullRead .. => 8
  | .pullReply .. => 9
  | .reduced .. => 10
  | .firmware .. => 0
  | .manage .. => 12
  | _ => 11

/-- The tenant of the traffic (R425): that of the sender, of the dead actor for what its death sends, and of the requester for
an answer. What stewards, waves and gateways send is tenant 0's. (DEDUCED, log 18.) -/
def Packet.tenant : Packet → Tenant
  | .msg m => m.tenant
  | .remote o => o.tenant
  | .combined os => match os with | o :: _ => o.tenant | [] => 0#12
  | .transfer t => t.notice.tenant
  | .tile _ g .. => nameTenant g
  | .multicast _ t _ => t
  | .pullReq _ t _ _ _ _ => t
  | .mcastMember _ o => o.tenant
  | .mcastAck _ t .. => t
  | .pullReply _ t .. => t
  | .pullRead _ _ _ _ t _ _ => t
  | .response _ _ t .. => t
  | .linkReq _ _ _ _ _ _ t => t
  | .linkAns _ r _ _ _ _ _ => nameTenant r
  | .unlink _ h _ _ => nameTenant h
  | .spawn r => r.tenant
  | .spawnAck _ _ _ t => t
  | .spawnName _ _ _ _ _ t => t
  | .kill _ _ _ n => nameTenant n
  | .signal _ d _ _ _ _ _ => nameTenant d
  | .resReq _ d _ _ _ => nameTenant d
  | .resAns _ d _ _ => nameTenant d
  | .hash n _ _ => nameTenant n
  | .advance _ _ _ n => nameTenant n
  | .wqQuery _ t _ _ => t
  | .wqClose _ o _ _ => nameTenant o
  | .copy _ _ m => m.tenant
  | .stealReply _ m _ => match m with | some m => m.tenant | none => 0#12
  | .mergedAck .. => 0#12
  | .reduced .. => 0#12
  | .steward _ => 0#12
  | .prmt .. => 0#12
  | .retireWave .. => 0#12
  | .waveDone .. => 0#12
  | .retired .. => 0#12
  | .wakeQuery .. => 0#12
  | .wakeAns .. => 0#12
  | .manage .. => 0#12
  | .firmware .. => 0#12
  | .stealReq .. => 0#12

/-- Words of a window line up to the last that an operation reaches. -/
def RemoteOp.lineWords (o : RemoteOp) : Nat := (o.off % 256 + o.len + 7) / 8

/-- Payload length in words, minus 1 (R425): a store's words stand at their places in the line, as MASK numbers them, a
multicast's, which has no MASK, stand from the first; the merged acknowledgement and the reduced line take the whole payload
(R433, R434). (DEDUCED, log 18.) -/
def Packet.lw : Packet → Nat
  | .remote o => if o.kind = .store then o.lineWords - 1 else 7
  | .combined os => (os.foldl (fun n o => max n o.lineWords) 1) - 1
  | .multicast _ _ o => (o.len + 7) / 8 - 1
  | .mcastMember _ o => (o.len + 7) / 8 - 1
  | .tile _ _ _ _ _ d => (d.length + 7) / 8 - 1
  | .response _ _ _ _ d => (d.length + 7) / 8 - 1
  | .pullReply _ _ _ _ d _ _ _ => (d.length + 7) / 8 - 1
  | .mergedAck .. => 31
  | .reduced .. => 31
  | _ => 7

/-- A flit's LW is valid for its kind: it holds the payload, and is 31 where the payload is the whole (R425). (DEDUCED, log
18.) -/
def Packet.lwOk (p : Packet) (lw : Nat) : Bool :=
  if p.kind = 6 ∨ p.kind = 10 then decide (lw = 31) else decide (p.lw ≤ lw) && decide (lw < 32)

/-- MASK of a remote store (R425): the words of its 256-byte window line that it writes. -/
def RemoteOp.mask (o : RemoteOp) : Nat :=
  ((List.range 32).filter fun i => decide (o.off % 256 ≤ 8 * i) && decide (8 * i < o.off % 256 + o.len)).foldl
    (fun m i => m + 2 ^ i) 0

/-- The parts of a store that lie in one window line each, cut at offsets divisible by 256: (offset, length). -/
def linesOf256 : Nat → Nat → Nat → List (Nat × Nat)
  | 0, _, _ => []
  | f + 1, a, n => if n = 0 then [] else
      let k := min n (256 - a % 256)
      (a, k) :: linesOf256 f (a + k) (n - k)

/-- A remote store to another module as flits of at most 256 bytes (R113, R425); each bears the whole's extent, by which its
target checks it. (DEDUCED, log 18.) -/
def RemoteOp.flits (o : RemoteOp) : List RemoteOp :=
  if o.kind ≠ .store ∨ o.off % 256 + o.len ≤ 256 then [o]
  else (linesOf256 (o.len / 256 + 2) o.off o.len).map fun p =>
    { o with off := p.1, len := p.2, data := (o.data.drop (p.1 - o.off)).take p.2,
             whole := some { off := o.off, len := o.len, id := (o.rid, 0) } }

/-- Number of bits of a port mask, and the set bit of a given rank (R423). -/
def portsOf (m : BitVec 24) : List Nat := (List.range 24).filter fun i => m.getLsbD i

/-- The port of a flow (R423). -/
def choosePort (m : BitVec 24) (src dst : Nat) : Option Nat :=
  let ps := portsOf m
  if ps.isEmpty then none
  else ps[(mix64 (BitVec.ofNat 64 (src * 2 ^ 26 + dst))).toNat % ps.length]?

/-- A module will not answer for a retire wave: the wave is no longer waiting for it (R132, R435). -/
def Wave.without (w : Wave) (m : Nat) : Wave := { w with awaits := w.awaits.filter fun x => decide (x ≠ m) }

/-- A packet that no route or a lost module turns back: a remote operation is answered DEAD, a link or monitor request as
refused, a spawn with 0, a resolution by its limit (R71, R194, R274, R435); a root is not started and a tenant has ended there
(R400). DEAD_DST advances at the sender's core, which stands for its gateway. (DESIGN CHOICE, log 66.) -/
def State.turnBack (s : State) (core : Nat) (p : Packet) : State :=
  let s := s.count (countCore core) p.tenant 0x037
  let dead (s : State) (c rid : Nat) : State := s.emit (.response c rid p.tenant .dead [])
  match p with
  | .remote o => dead s o.core o.rid
  | .combined os => os.foldl (fun s o => dead s o.core o.rid) s
  | .linkReq mon r q ref _ _ _ => s.emit (.linkAns mon r q ref false 0#64 0#16)
  | .spawn r => s.emit (.spawnName r.fromCore r.id 0#64 0x01#8 r.sup.isSome r.tenant)
  | .wqQuery _ _ c rid => dead s c rid
  | .wqClose _ _ c rid => dead s c rid
  | .multicast _ _ o => dead s o.core o.rid
  | .pullReq _ _ _ _ c rid => dead s c rid
  | .firmware m b (.rootReq _) => s.emit (.firmware b m (.rootAns 2 0#64 0#256))
  | .firmware m b (.destroy t) => s.emit (.firmware b m (.destroyed t))
  | .retireWave m _ _ w => { s with waves := Tab.adjust s.waves w fun x => x.without m }
  | .wakeQuery _ c x => s.emit (.wakeAns c x false)
  | _ => s

/-- The key under which a module seals the flits of a tenant, none where it has none (R411, R412): tenant 0's, which no rule
installs, is the configuration's. (DESIGN CHOICE, log 44.) -/
def State.sealKey (s : State) (t : Tenant) : Option (BitVec 256) :=
  (Tab.get? s.fabricKeys t.toNat).orElse fun _ => if t = 0#12 then some Config.fabricKey0 else none

/-- The initialisation vector of a flit (R412). -/
def State.flitIv (s : State) (port : Nat) : BitVec 96 :=
  BitVec.ofNat 96 (s.mod.num.toNat * 2 ^ 86 + port * 2 ^ 80 + (s.port port).seqNo % 2 ^ 64)

/-- A flit leaves through a port, sealed under its tenant's key and its SEQ, its header authenticated with it (R412, R425,
R426); it is to be acknowledged on its link (R429). -/
def State.flitOut (s : State) (core port ep group : Nat) (key : BitVec 256) (p : Packet) : State :=
  let q := s.port port
  let mask := match p with
    | .remote o => if o.kind = .store then o.mask else 0
    | .combined os => os.foldl (fun m o => m ||| o.mask) 0
    | .tile _ _ _ _ _ d => 2 ^ ((d.length + 7) / 8) - 1
    | _ => 0
  let st := match p with
    | .response _ _ _ st _ => statusCode st
    | .mcastAck _ _ _ st _ _ => statusCode st
    | .pullReply _ _ _ st _ _ _ _ => statusCode st
    | _ => 0
  let enc := match p with | .pullReply _ _ _ _ _ clear _ _ => (!clear).toNat | _ => 1
  let hdr := mkHeader ep (s.endpoint core) p.tenant p.kind p.lw port enc group mask st q.seqNo
  (s.modPort port fun q => { q with seqNo := q.seqNo + 1, unacked := q.unacked ++ [(q.seqNo, s.mod.timeNs)] }).output
    (.flit port hdr (Config.gcmTag key (s.flitIv port) hdr p) p)

/-- The port of a flow to a module under the route masks (R423). -/
def State.portFor (s : State) (core m ep : Nat) : Option Nat := choosePort ((Tab.get? s.masks m).getD 0#24) (s.endpoint core) ep

/-- A change of mask moved the flow: it had a port before it and another one after it (R424). -/
def FlowHold.moves (s : State) (h : FlowHold) (core m ep : Nat) : Bool :=
  decide (h.module = m) && (match choosePort h.old (s.endpoint core) ep with
    | some p => decide (some p ≠ choosePort h.new (s.endpoint core) ep)
    | none => false)

/-- Keep a packet in the first hold that its flow meets. -/
def holdPacket (s : State) (core m ep : Nat) (p : Packet) : List FlowHold → List FlowHold
  | [] => []
  | h :: t => if h.moves s core m ep then { h with packets := h.packets ++ [(core, p)] } :: t else h :: holdPacket s core m ep p t

/-- A group number above 0x0FFF names no group (R430): the gateway answers for it as a switch that holds none would (R432).
(DESIGN CHOICE, log 68.) -/
def State.noGroup (s : State) (p : Packet) : State :=
  match p with
  | .multicast _ _ o => s.emit (.mergedAck o.core o.rid .dead 0#512 0 0 false)
  | .pullReq _ _ _ _ c rid => s.emit (.reduced c rid .dead [] 0 0)
  | _ => s

/-- An edge gateway sends a packet on, holds it while its flow moves, or turns it back (R423, R424, R435); one of a tenant for
which the module holds no fabric key cannot be sealed, and is turned back as well (R412). (DESIGN CHOICE, log 44.) -/
def State.gateOut (s : State) (core : Nat) (p : Packet) : State :=
  match s.sealKey p.tenant with
  | none => s.turnBack core p
  | some key =>
    match p.route with
    | .switch g ep =>
      if 4096 ≤ g then s.noGroup p
      else match (List.range 24).find? fun i => (s.port i).up && (s.port i).isSwitch with
        | some port => s.flitOut core port ep g key p
        | none => s.turnBack core p
    | .module m ep =>
      if s.isLost m then s.turnBack core p
      else if s.holds.any (fun h => h.moves s core m ep) then { s with holds := holdPacket s core m ep p s.holds }
      else match s.portFor core m ep with
        | none => s.turnBack core p
        | some port => s.flitOut core port ep 0 key p

/-- A region on its way to another module: its bytes in flits of 256, then the notice with what the region is (R99, R425).
(DEDUCED, log 18.) -/
def State.tilesOut (s : State) (core : Nat) (t : Transfer) : State :=
  let part (s : State) (i : Nat) : State :=
    s.gateOut core (.tile t.dest t.giver (s.gcore t.fromCore) t.id (256 * i) ((t.bytes.drop (256 * i)).take 256))
  ((List.range ((t.bytes.length + 255) / 256)).foldl part s).gateOut core (.transfer { t with bytes := [] })

/-- Send one combining buffer (R427). -/
def State.flushBuf (s : State) (b : CombineBuf) : State :=
  match b.ops with
  | [o] => s.gateOut b.core (.remote o)
  | os => s.gateOut b.core (.combined os)

/-- Send the combining buffers of an endpoint, at a fence or release send of it (R427). -/
def State.flushEndpoint (s : State) (core : Nat) : State :=
  let mine := s.combine.filter fun b => decide (b.core = core)
  let s := { s with combine := s.combine.filter fun b => decide (b.core ≠ core) }
  mine.foldl State.flushBuf s

/-- Send the combining buffers of an endpoint for one target endpoint, before another operation for it (R186).
(DEDUCED, log 53.) -/
def State.flushTarget (s : State) (core ep : Nat) : State :=
  let mine (b : CombineBuf) : Bool := decide (b.core = core) && decide (b.key.toNat / 2 ^ 38 = ep)
  (s.combine.filter mine).foldl State.flushBuf { s with combine := s.combine.filter fun b => !mine b }

/-- A remote store meets the combining buffer of its endpoint at its port (R116, R427): it joins, or the buffer is sent
first. The actors of one core share the endpoint's buffer (R427), though R116 speaks of one sender. (DEDUCED, log 55.) -/
def State.combineIn (s : State) (core port : Nat) (o : RemoteOp) : State :=
  let mine (b : CombineBuf) : Bool := decide (b.core = core) && decide (b.port = port)
  let new : CombineBuf := { core := core, port := port, key := o.key, line := o.off / 256, since := s.mod.cycle,
                            counted := o.counted, ctx := o.ctx, ops := [o] }
  match s.combine.find? mine with
  | some b =>
    if decide (s.mod.cycle < b.since + 32) && b.key == o.key && decide (b.line = o.off / 256) && b.ctx == o.ctx && b.counted == o.counted &&
        decide (o.off % 256 + o.len ≤ 256) && decide ((b.ops.foldl (fun m x => m ||| x.mask) 0) &&& o.mask = 0) then
      let join (c : CombineBuf) : CombineBuf := if mine c then { c with ops := c.ops ++ [o] } else c
      { s with combine := s.combine.map join }
    else
      let s := { s with combine := s.combine.filter fun c => !mine c }
      let s := s.flushBuf b
      { s with combine := s.combine ++ [new] }
  | none => { s with combine := s.combine ++ [new] }

/-- A flit's worth of a remote operation crosses to another module: a relaxed store waits in its combining buffer, anything else
of the endpoint for the same target sends that buffer first (R186, R427). -/
def State.cross (s : State) (core m ep : Nat) (relaxed : Bool) (o : RemoteOp) : State :=
  match s.portFor core m ep with
  | some port =>
    if o.kind = .store ∧ relaxed ∧ !s.isLost m ∧ !s.holds.any (fun h => h.moves s core m ep) then s.combineIn core port o
    else (s.flushTarget core ep).gateOut core (.remote o)
  | none => s.gateOut core (.remote o)

/-- A packet leaves a core: over the mesh within the module, through an edge gateway otherwise (R423); one that is not
relaxed, a release send or one behind a fence, sends the endpoint's combining buffers first (R427). -/
def State.transmit (s : State) (core : Nat) (p : Packet) (relaxed : Bool) : State :=
  let s := if relaxed then s else s.flushEndpoint core
  match p.route with
  | .module m ep =>
    if m = s.mod.num.toNat then s.emit p
    else match p with
      | .remote o => o.flits.foldl (fun s o => s.cross core m ep relaxed o) s
      | .transfer t => s.tilesOut core t
      | _ => s.gateOut core p
  | .switch .. => s.gateOut core p

end Sys2Proof.Machine
end

