-- ==== Sys2Proof/Machine/Record.lean ====
section
/-! DEFINITION. Execution records in TCM (01 R14-R16): where they stand, what each part holds, what a pre-emption writes and a
resumption reads. -/

namespace Sys2Proof.Machine

open Sys2Proof

/-- The slot of a handler that occupies one. -/
def HStatus.slot? : HStatus → Option Nat
  | .running n => some n
  | .stalled n => some n
  | .preempted => none
  | .held => none

/-- Address of an execution record (R14, R15): the records stand at the top of TCM. (DESIGN CHOICE, log 6.) -/
def recordAddr (rec : Nat) : Nat := 0x60000 - (rec + 1) * 0x1400

/-- Home of a place in a record of a core. -/
def recordHome (core rec off : Nat) : Nat := tcmHome core (recordAddr rec + off)

/-- Places of a record (R14): workspace, shapes, tiles, control block with the landing values behind it. -/
def recordReg (i : Nat) : Nat := 8 * i
def recordShape (i : Nat) : Nat := 0x100 + 32 * i
def recordTile (i : Nat) : Nat := 0x300 + 1024 * i
def recordCtl : Nat := 0x1300
def recordEnd : Nat := 0x1400

/-! ### The control block (0x1300) and the landing values (0x1340) -/

/-- A number of up to `l.length` bits from a list of truth values, the first lowest. -/
def bitsOf : List Bool → Nat
  | [] => 0
  | b :: t => b.toNat + 2 * bitsOf t

/-- A scope as the record codes it, 0 for none. (DESIGN CHOICE, log 6.) -/
def acqCode : Option Scope → Nat
  | none => 0
  | some .cl => 1
  | some .di => 2
  | some .mo => 3
  | some .pd => 4

def acqOfCode : Nat → Option Scope
  | 1 => some .cl
  | 2 => some .di
  | 3 => some .mo
  | 4 => some .pd
  | _ => none

/-- The destination of a landing entry as the record codes it. (DESIGN CHOICE, log 6.) -/
def Landing.code (l : Landing) : Nat := l.reg.toNat + 32 * l.isPred.toNat + 64 * acqCode l.acq

/-- The handler's MSG and CHAN (R24, R26) as the record holds them: handler index, channel, flags, priority. -/
def Handler.msgWord (h : Handler) : Nat :=
  h.msg.hidx.toNat + h.chan.toNat * 2 ^ 6 + h.mflags.toNat * 2 ^ 8 + h.msg.prio.toNat * 2 ^ 16

/-- Entry `i` of the recall list (R259): its id, and two bits, whether it is there and whether it is DONE. -/
def Handler.recallId (h : Handler) (i : Nat) : Nat := (h.recalls[i]?.map (·.1.toNat)).getD 0
def Handler.recallBits (h : Handler) (i : Nat) : Nat := (h.recalls[i]?.map fun x => 1 + 2 * x.2.toNat).getD 0

/-- The destinations of the landing entries, nine bits each. -/
def Handler.landDests (h : Handler) : Nat :=
  (List.range 8).foldl (fun n i => n + ((Tab.get? h.landing i).map Landing.code).getD 0 * 2 ^ (9 * i)) 0

/-- The control block: p0-p7, landing-buffer state, control registers, recall list (R14, R24, R259). The spec gives its size
and not its inner layout. (DESIGN CHOICE, log 6.) -/
def Handler.ctlBytes (h : Handler) : List Byte :=
  let land (f : Landing → Bool) : Nat := bitsOf ((List.range 8).map fun i => ((Tab.get? h.landing i).map f).getD false)
  leBytes 8 (bitsOf h.preds.toList + land (fun _ => true) * 2 ^ 8 + land (·.value.isSome) * 2 ^ 16 +
      bitsOf (h.shapes.toList.map Option.isSome) * 2 ^ 24 + h.flags.toNat * 2 ^ 40 + h.ctl.coinsel.toNat * 2 ^ 46 +
      h.ctl.fmta.toNat * 2 ^ 48 + h.ctl.fmtb.toNat * 2 ^ 52 + h.ctl.fmtc.toNat * 2 ^ 56) ++
    leBytes 8 (h.ctl.scla.toNat + h.ctl.sclb.toNat * 2 ^ 32) ++ leBytes 8 (h.ctl.sparse.toNat + h.ctx.toNat * 2 ^ 32) ++
    leBytes 8 h.ctl.seed.toNat ++ leBytes 9 h.landDests ++
    leBytes 2 (h.recallBits 0 + h.recallBits 1 * 4 + h.recallBits 2 * 16 + h.recallBits 3 * 64) ++ leBytes 4 h.msgWord ++
    leBytes 1 0 ++ leBytes 4 (h.recallId 0) ++ leBytes 4 (h.recallId 1) ++ leBytes 4 (h.recallId 2) ++ leBytes 4 (h.recallId 3)

/-- The landing values, 24 bytes each: the value and the cycle of its arrival; the last word of the first is the name that REPLY
answers. (DESIGN CHOICE, log 6.) -/
def Handler.landBytes (h : Handler) : List Byte :=
  (List.range 8).flatMap fun i =>
    let l := Tab.get? h.landing i
    leBytes 8 ((l.bind (·.value)).getD 0#64).toNat ++ leBytes 8 ((l.map (·.at_)).getD 0) ++
      leBytes 8 (if i = 0 then h.replyName.toNat else 0)

/-- The recall list of a control block. -/
def recallsOf (bs : List Byte) : List (CtxId × Bool) :=
  (List.range 4).filterMap fun i =>
    let b := bits (field bs 41 2) (2 * i) 2
    if b % 2 = 0 then none else some (BitVec.ofNat 32 (field bs (48 + 4 * i) 4), decide (2 ≤ b))

/-- Landing entry `i` of a record's control block and landing values, none where it is not allocated. -/
def landingOf (bs : List Byte) (i : Nat) : Option Landing :=
  let d := bits (field bs 32 9) (9 * i) 9
  if bits (field bs 1 1) i 1 = 0 then none
  else some { isPred := decide (bits d 5 1 = 1), reg := BitVec.ofNat 5 d, acq := acqOfCode (bits d 6 3),
              value := if bits (field bs 2 1) i 1 = 1 then some (BitVec.ofNat 64 (field bs (64 + 24 * i) 8)) else none,
              at_ := field bs (64 + 24 * i + 8) 8 }

/-- The control registers of a control block. -/
def ctlOf (bs : List Byte) : Ctl :=
  { fmta := BitVec.ofNat 4 (field bs 6 1), fmtb := BitVec.ofNat 4 (bits (field bs 6 1) 4 4), fmtc := BitVec.ofNat 4 (field bs 7 1),
    scla := BitVec.ofNat 32 (field bs 8 4), sclb := BitVec.ofNat 32 (field bs 12 4), sparse := BitVec.ofNat 32 (field bs 16 4),
    coinsel := decide (bits (field bs 5 1) 6 1 = 1), seed := BitVec.ofNat 64 (field bs 24 8) }

/-! ### Saving and loading -/

/-- The resume word (R15): the address of the interrupted group, and the state of its slot, 1 RUNNING and 2 STALLED. The word
has room for PC [31:1] only, so that a handler pre-empted behind a branch to an address of 2^32 or above, before the fetch
there that would fault (R247), goes on at that address mod 2^32. (DESIGN CHOICE, log 6.) -/
def Handler.resumeWord (h : Handler) : Nat :=
  h.pc % 2 ^ 32 / 2 * 2 + (match h.status with | .running _ => 1 | .stalled _ => 2 | .preempted => 0 | .held => 0) * 2 ^ 32

/-- What a pre-emption writes (R16): places of the record with their bytes, the resume word and every dirty item. -/
def Handler.dirtyItems (h : Handler) : List (Nat × List Byte) :=
  [(0, leBytes 8 h.resumeWord)] ++
  ((List.finRange 32).filter fun i => decide (0 < i.val) && decide (i.val < h.count) && h.dirtyRegs.getLsbD i.val).map
    (fun i => (recordReg i.val, leBytes 8 h.regs[i].toNat)) ++
  ((List.finRange 16).filter fun i => h.dirtyShapes.getLsbD i.val).map
    (fun i => (recordShape i.val, leBytes 32 (h.shapes[i].getD 0#256).toNat)) ++
  ((List.finRange 4).filter fun i => h.dirtyAcc.getLsbD i.val).map
    (fun i => (recordTile i.val, leBytes 1024 h.acc[i].toNat)) ++
  (if h.dirtyCtl || h.dirtyShapes != 0#16 then [(recordCtl, h.ctlBytes ++ h.landBytes)] else [])

/-- Write items into a record. -/
def State.writeItems (s : State) (core rec : Nat) (items : List (Nat × List Byte)) : State :=
  items.foldl (fun s x => s.writeBytes (recordHome core rec x.1) x.2) s

/-- The slot's state as its record holds it (R16): what a resumption reloads, the PC as the resume word has it.
(DESIGN CHOICE, log 6.) -/
def State.loadRecord (s : State) (core rec : Nat) (h : Handler) : Handler :=
  let at_ (off n : Nat) : List Byte := s.readBytes (recordHome core rec off) n
  let ctl := at_ recordCtl 256
  { h with
    pc := bits (leNat (at_ 0 8)) 1 31 * 2
    regs := Vector.ofFn fun i =>
      if i.val = 0 ∨ h.count ≤ i.val then h.regs[i] else BitVec.ofNat 64 (leNat (at_ (recordReg i.val) 8))
    shapes := Vector.ofFn fun i =>
      if bits (field ctl 3 2) i.val 1 = 1 then some (BitVec.ofNat 256 (leNat (at_ (recordShape i.val) 32))) else none
    acc := Vector.ofFn fun i => BitVec.ofNat 8192 (leNat (at_ (recordTile i.val) 1024))
    preds := Vector.ofFn fun i => decide (bits (field ctl 0 1) i.val 1 = 1)
    landing := (List.range 8).filterMap fun i => (landingOf ctl i).map fun l => (i, l)
    flags := BitVec.ofNat 6 (field ctl 5 1)
    ctl := ctlOf ctl
    ctx := BitVec.ofNat 32 (field ctl 20 4)
    recalls := recallsOf ctl
    msg := { h.msg with hidx := BitVec.ofNat 6 (field ctl 43 4), prio := BitVec.ofNat 16 (bits (field ctl 43 4) 16 16) }
    chan := BitVec.ofNat 2 (bits (field ctl 43 4) 6 2)
    mflags := BitVec.ofNat 8 (bits (field ctl 43 4) 8 8)
    replyName := BitVec.ofNat 64 (field ctl 80 8) }

/-- A handler's record holds what its clean items hold. -/
def State.recordAgrees (s : State) (core rec : Nat) (h : Handler) : Prop :=
  s.loadRecord core rec h = h

/-- Something other than the handler's own groups changes its control block (R16): that of a handler in a slot, or the record
of one that has none. -/
def State.modCtl (s : State) (core rec : Nat) (f : Handler → Handler) : State :=
  match Tab.get? (s.core core).handlers rec with
  | none => s
  | some h =>
    let h' := f h
    if h.status.slot?.isSome then s.modCore core fun k => { k with handlers := Tab.put k.handlers rec { h' with dirtyCtl := true } }
    else (s.modCore core fun k => { k with handlers := Tab.put k.handlers rec h' }).writeItems core rec
      [(recordCtl, h'.ctlBytes ++ h'.landBytes)]

/-- A queued matrix operation writes a tile of its handler (R16): in its slot, or in the record of one that has none. -/
def State.modTile (s : State) (core rec : Nat) (i : Fin 4) (v : BitVec 8192) : State :=
  match Tab.get? (s.core core).handlers rec with
  | none => s
  | some h =>
    let h' := { h with acc := h.acc.set i.val v }
    if h.status.slot?.isSome then
      s.modCore core fun k => { k with handlers := Tab.put k.handlers rec { h' with dirtyAcc := h.dirtyAcc ||| (1#4 <<< i.val) } }
    else (s.modCore core fun k => { k with handlers := Tab.put k.handlers rec h' }).writeItems core rec [(recordTile i.val, leBytes 1024 v.toNat)]

end Sys2Proof.Machine
end

