-- ==== Sys2Proof/Machine/Ops.lean ====
section
/-! DEFINITION. The named operations every meaning uses: the current handler and its registers,
retiring a group, the landing buffer (R22), context slots (R120), taking a fault as the death of the actor (R65-R69), and
pre-emption with resumption, which save and restore a handler (R61, R62). -/

namespace Sys2Proof.Machine

open Sys2Proof

/-- What an instruction or an event answers. -/
abbrev Res := Host.Outcome State Fault Refusal

/-! ### The current handler -/

/-- The handler now issuing. -/
def State.hd (s : State) : Handler := (Tab.get? (s.core s.cur.core).handlers s.cur.rec_).getD {}

def State.setHd (s : State) (h : Handler) : State :=
  s.modCore s.cur.core fun k => { k with handlers := Tab.put k.handlers s.cur.rec_ h }

def State.modHd (s : State) (f : Handler → Handler) : State := s.setHd (f s.hd)

/-- The core of the current handler, and its actor. -/
def State.here (s : State) : Core := s.core s.cur.core
def State.self (s : State) : Actor := s.here.actor s.hd.entry
def State.modHere (s : State) (f : Core → Core) : State := s.modCore s.cur.core f
def State.modSelf (s : State) (f : Actor → Actor) : State := s.modActor s.cur.core s.hd.entry f
/-- An event counted for the current handler's tenant. -/
def State.countHere (s : State) (src : Nat) : State := s.count s.cur.core s.self.tenant src

/-- Reading a scalar register: s0 reads zero (R17). -/
def Handler.reg (h : Handler) (r : Reg) : Word := if r = 0#5 then 0#64 else h.regs[r.toNat]

/-- Writing a scalar register: a write to s0 is discarded (R17); the dirty bit is set (R16). -/
def Handler.setReg (h : Handler) (r : Reg) (v : Word) : Handler :=
  if r = 0#5 then h
  else { h with regs := h.regs.set r.toNat v, dirtyRegs := h.dirtyRegs ||| (1#32 <<< r.toNat),
                stale := h.stale.filter fun x => x.1 || x.2.1 != r }

/-- Reading a predicate: p0 reads 1 (R21). -/
def Handler.pred (h : Handler) (p : Pred) : Bool := if p = 0#3 then true else h.preds[p.toNat]

/-- Writing a predicate: a write to p0 is discarded (R21). -/
def Handler.setPred (h : Handler) (p : Pred) (v : Bool) : Handler :=
  if p = 0#3 then h else { h with preds := h.preds.set p.toNat v, dirtyCtl := true,
                                  stale := h.stale.filter fun x => !x.1 || x.2.1 != p.setWidth 5 }

/-- The value from before a COMMIT of this same cycle, where one names the register (R23); s0 and p0 have none. -/
def Handler.staleOf (h : Handler) (now : Nat) (isPred : Bool) (r : BitVec 5) : Option Word :=
  if h.staleAt = now ∧ r ≠ 0#5 then (h.stale.find? fun x => x.1 == isPred && x.2.1 == r).map (·.2.2) else none

/-- What the current handler's group reads in a register (R23). -/
def State.reg (s : State) (r : Reg) : Word := (s.hd.staleOf (s.now s.cur.core) false r).getD (s.hd.reg r)
def State.setReg (s : State) (r : Reg) (v : Word) : State := s.modHd fun h => h.setReg r v
def State.pred (s : State) (p : Pred) : Bool :=
  ((s.hd.staleOf (s.now s.cur.core) true (p.setWidth 5)).map fun v => decide (v ≠ 0#64)).getD (s.hd.pred p)
def State.setPred (s : State) (p : Pred) (v : Bool) : State := s.modHd fun h => h.setPred p v

/-- The sticky flags take more bits (R29). -/
def State.orFlags (s : State) (f : BitVec 6) : State := s.modHd fun h => { h with flags := h.flags ||| f, dirtyCtl := true }

/-- The view of the current handler's CTX (R25, R121). -/
def State.hdView (s : State) : View :=
  { core := s.cur.core, entry := s.hd.entry, ctx := s.hd.ctx, slot := s.hd.slot }

/-- The group retires: its handler runs on at the next group, and GROUPS advances (R213, R453). -/
def Handler.advance (h : Handler) : Handler :=
  { h with pc := h.npc, status := match h.status with | .stalled n => .running n | x => x }

def State.retire (s : State) : State := (s.modHd Handler.advance).countHere 0x002

/-- The group waits in a bounded stall (R55): nothing of it has an effect, and it issues again. -/
def State.stall (s : State) : State :=
  s.modHd fun h => { h with status := match h.status with | .running n => .stalled n | x => x }

/-! ### The landing buffer (R22) -/

/-- Take the lowest free landing entry for a destination. -/
def Handler.allocLand (h : Handler) (l : Landing) : Option (Nat × Handler) :=
  match Tab.lowestFree h.landing 8 with
  | some i => some (i, { h with landing := Tab.put h.landing i l, dirtyCtl := true })
  | none => none

/-- Whether `n` landing entries are free. -/
def Handler.landFree (h : Handler) (n : Nat) : Bool := decide (h.landing.length + n ≤ 8)

/-- A result sets out for a landing entry (R22). -/
def State.result (s : State) (core rec serial idx : Nat) (v : Word) : State :=
  s.modCore core fun k => { k with results := k.results ++ [{ rec_ := rec, serial := serial, idx := idx, value := v }] }

/-- A region's handle sets out for a landing entry; its region is usable once it lands (R293). -/
def State.resultRegion (s : State) (core rec serial idx : Nat) (v : Word) (entry handle : Nat) : State :=
  s.modCore core fun k => { k with
    results := k.results ++ [{ rec_ := rec, serial := serial, idx := idx, value := v, region := some (entry, handle) }] }

/-! ### Context slots (R119, R120) -/

/-- Pool cells of a slot (PCELLS of R119). -/
def Core.pcells (k : Core) (slot : Nat) : Nat := (k.cells.filter fun c => decide (c.slot = slot) && c.ctx != 0#32).length

/-- The slot that maps an id: 0 for the base context. R119 has a slot MAPPED or RETIRING; whether a RETIRING one still maps
its id, no rule says, and here it does not: CTXQ finds no slot for the id (R262), and LDX reads the base view (R256). (DESIGN
CHOICE, log 67.) -/
def Core.slotOf (k : Core) (c : CtxId) : Option Nat :=
  if c = 0#32 then some 0
  else (k.ctxMap.find? fun e => e.2.id == c && decide (e.2.state = .mapped)).map (·.1)

/-- The lowest slot that is FREE, else the lowest that is MAPPED with no use and no cell (R120). -/
def Core.mappable (k : Core) : Option Nat :=
  match (List.range 255).find? fun i => (Tab.get? k.ctxMap (i + 1)).isNone with
  | some i => some (i + 1)
  | none => (k.ctxMap.find? fun e => decide (e.2.state = .mapped) && decide (e.2.use = 0) &&
      decide (k.pcells e.1 = 0)).map (·.1)

/-- Map an id (R120). -/
def Core.mapCtx (k : Core) (c : CtxId) : Option (Core × Nat) :=
  match k.slotOf c with
  | some i => some (k, i)
  | none => k.mappable.map fun i => ({ k with ctxMap := Tab.put k.ctxMap i { id := c } }, i)

/-- The slot in which work fixed in a context goes on: its own while that still holds the id, else a fresh mapping (R132, R135,
R204); none while there is no slot for it. -/
def Core.slotFor (k : Core) (c : CtxId) (slot : Nat) : Option (Core × Nat) :=
  let same : Bool := match Tab.get? k.ctxMap slot with
    | some e => e.id == c
    | none => false
  if c = 0#32 ∨ same then some (k, slot) else k.mapCtx c

def Core.addUse (k : Core) (slot : Nat) : Core :=
  { k with ctxMap := Tab.adjust k.ctxMap slot fun e => { e with use := e.use + 1 } }

/-- A use of a slot ends; a RETIRING slot without uses frees its cells and becomes FREE (R132). -/
def Core.dropUse (k : Core) (slot : Nat) : Core :=
  match Tab.get? k.ctxMap slot with
  | none => k
  | some e =>
    if e.use ≤ 1 ∧ e.state = .retiring then
      { k with ctxMap := Tab.del k.ctxMap slot, cells := k.cells.filter fun c => decide (c.slot ≠ slot) || c.ctx == 0#32 }
    else { k with ctxMap := Tab.put k.ctxMap slot { e with use := e.use - 1 } }


/-! ### The end of a handler (R34, R35, R131) -/

/-- A handler's record, slot, registers and landing entries go; its contexts lose their uses, and reserved ids that were
not handed out return to the range. Its tiles stay for the matrix operations it has queued (R340). -/
def Core.endHandler (k : Core) (rec : Nat) (h : Handler) : Core :=
  let k := if k.matq.any (fun o => decide (o.serial = h.serial)) then { k with tiles := Tab.put k.tiles h.serial h.acc } else k
  let k := { k with handlers := Tab.del k.handlers rec }
  let k := if h.ctx = 0#32 then k else k.dropUse h.slot
  let k := (h.fresh ++ h.handed).foldl (fun k x => k.dropUse x.2) k
  { k with fresh := k.fresh ++ h.fresh.map (·.1) }

/-- The matrix operations that a DONE leaves behind show nothing but what an MST writes (R340). -/
def Core.endTiles (k : Core) (serial : Nat) : Core :=
  { k with matq := k.matq.map fun o => if o.serial = serial then { o with ended := true } else o }

/-! ### Mailbox configurations (R27, R41) -/

def mboxOrdered (w : Word) : Bool := w.getLsbD 0
def mboxDrop (w : Word) : Bool := w.getLsbD 1
/-- Depth D (R41). -/
def mboxDepth (w : Word) : Nat := if mboxOrdered w then bits w.toNat 8 12 + 1 else 2 ^ bits w.toNat 4 4

/-- The queue count N of an actor (R41). -/
def Core.queued (k : Core) (entry : Nat) : Nat :=
  (k.queue.filter fun q => decide (q.entry = entry) && q.msg.chan != 0#2).length

/-- Another ch1-ch3 message would overflow a FIFO mailbox under EXIT (R42). -/
def Core.mboxFull (k : Core) (entry : Nat) : Bool :=
  let w := (k.actor entry).mbox
  !mboxOrdered w && !mboxDrop w && decide (mboxDepth w ≤ k.queued entry)

/-! ### Death (R65 to R69) -/

/-- Codes of R73. -/
def DeathClass.code : DeathClass → Nat
  | .normal => 0 | .killed => 1 | .fault => 2 | .unreachable => 3 | .escalated => 4 | .shutdown => 5

/-- Codes of R68. -/
def FaultCode.code : FaultCode → Nat
  | .illegal => 0x01 | .prefixMisuse => 0x02 | .priv => 0x03 | .regbound => 0x04 | .align => 0x05 | .bounds => 0x06
  | .given => 0x07 | .shape => 0x08 | .format => 0x09 | .cellfull => 0x0A | .window => 0x0B | .diverge => 0x0C
  | .image => 0x0E

/-- Generations and counters that pass from 0xFFFF to 1 (R10, R279, R308). -/
def nextSkip0 (g : BitVec 16) : BitVec 16 := if g = 0xFFFF#16 then 1#16 else g + 1#16

/-- A live window ends (R108). -/
def Window.end_ (w : Window) (byDeath : Bool) : Window :=
  { w with live := false, gen := w.gen + 1#16, pb := false, dd := byDeath }

/-- Every live window of a region ends, or of every region of an actor. -/
def Core.revokeOf (k : Core) (entry : Nat) (handle : Option Nat) (byDeath : Bool) : Core :=
  { k with windows := Tab.mapVals k.windows fun _ w =>
      if w.live && decide (w.owner = entry) && (match handle with | some h => decide (w.handle = h) | none => true)
      then w.end_ byDeath else w }

/-- Free a timer entry; its generation advances (R279). -/
def Timer.freed (t : Timer) : Timer := { t with due := none, gen := nextSkip0 t.gen }

/-- An operation of a dying actor is cancelled: it has not begun in an earlier cycle, and it reads or writes the actor's regions
(R69 step 2) or is of the matrix engine (R340). A transfer of R99 completes (R102). -/
def EngOp.cancelled (o : EngOp) (entry : Nat) (name : Name) : Bool :=
  decide (o.entry = entry) && o.name == name && !o.begun && match o.body with
    | .transfer _ => false
    | .mat .. => true
    | _ => !(o.reads.isEmpty && o.writes.isEmpty)

def Core.cancelOps (k : Core) (entry : Nat) (name : Name) : Core :=
  let keep (l : List EngOp) : List EngOp := l.filter fun o => !o.cancelled entry name
  { k with teasel := keep k.teasel, vec := keep k.vec, matq := keep k.matq, sumq := keep k.sumq,
           tiles := k.tiles.filter fun e => (keep k.matq).any fun o => decide (o.serial = e.1) }

/-- Names of the running children of a supervisor's table (R78, R83). -/
def State.childNames (s : State) (core entry : Nat) : List Name :=
  match (s.actor core entry).sup with
  | none => []
  | some t =>
    let n := field (s.peek (baseView core entry) (t + 2) 1) 0 1
    ((List.range n).map fun i => BitVec.ofNat 64 (leNat (s.peek (baseView core entry) (t + 192 + 32 * i) 8))).filter (· != 0#64)

/-- The record count falls; at 0 the filter is clear (R126). -/
def Actor.lowerRec (a : Actor) (n : Nat) : Actor :=
  { a with recCount := a.recCount - n, filter := if a.recCount ≤ n then 0#256 else a.filter }

/-- The attribute word of R91 bits [13:0]. -/
def attrRegion (attr base size cidx : Nat) : Region :=
  { base := base, size := size, cidx := cidx, kind := bits attr 12 2, tagged := decide (bits attr 11 1 = 1),
    privx := decide (bits attr 10 1 = 1), gr := decide (bits attr 3 1 = 1), ex := decide (bits attr 2 1 = 1),
    wr := decide (bits attr 1 1 = 1), rd := decide (bits attr 0 1 = 1) }

/-- The region that a transfer hands over. -/
def Transfer.source (t : Transfer) : Region := attrRegion t.attr.toNat t.base t.size t.cidx

/-- The region of an entry that a queued transfer is still to read, by its handle (R99): RFREE of the GIVEN entry changes
nothing in it (R95). (DEDUCED, log 18.) -/
def Core.pendingSource (k : Core) (entry handle : Nat) : Option Region :=
  k.teasel.findSome? fun o => match o.body with
    | .transfer t => if o.entry = entry ∧ t.handle = handle then some t.source else none
    | _ => none

/-- A transfer from a handle of an entry has not read its region yet (R99). -/
def Core.transferring (k : Core) (entry handle : Nat) : Bool := (k.pendingSource entry handle).isSome

/-- The region that the cells and records under a handle belong to: the actor's own, or one that a transfer is still to read. -/
def Core.cellRegion (k : Core) (entry handle : Nat) : Option Region :=
  (Tab.get? (k.actor entry).regions handle).orElse fun _ => k.pendingSource entry handle

/-- Two regions are one: they lie at one place. -/
def Region.same (a b : Region) : Bool := decide (a.kind = b.kind) && decide (a.base = b.base)

/-- Accepted operations on a region of an entry that have not landed, or not with all their flits (R108, R113, R130).
(DEDUCED, log 18.) -/
def Core.landingsOn (k : Core) (entry : Nat) (r : Region) : Bool :=
  let on (x : HeldLanding) : Bool := decide (x.entry = entry) && x.region.same r
  k.heldLandings.any on || k.openOps.any fun y => y.into.any on

/-- A recall that CTXPF or CTXSET started goes on after the death of its actor (R264). -/
def RecallFor.runsOn : RecallFor → Bool
  | .prefetch _ => true
  | .dispatch => false
  | .landing => false

/-- Steps 1 to 3 of R69 in the tables of the core; the cells of a region on its way to a receiver stay until they are read,
and what Campion holds stays to the end of the cycle, in which a comparison that fails may still be the cause (R66, R87). -/
def Core.reclaim (k : Core) (entry : Nat) (name : Name) : Core :=
  let k := k.handlers.foldl (fun k e => if e.2.entry = entry then k.endHandler e.1 e.2 else k) k
  let k := k.cancelOps entry name
  let k := k.revokeOf entry none true
  let lostEv := (k.evicts.filter fun e => decide (e.cell.entry = entry) && !k.transferring entry e.cell.handle).length
  let k := if lostEv = 0 then k else k.modActor entry fun a => a.lowerRec lostEv
  { k with
    queue := k.queue.filter fun q => decide (q.entry ≠ entry)
    pool := k.pool.filter fun q => decide (q.entry ≠ entry)
    joins := k.joins.filter fun e => e.2.owner != name
    timers := Tab.mapVals k.timers fun _ t => if decide (t.owner = entry) && t.due.isSome then t.freed else t
    waits := k.waits.filter fun e => decide (e.2.owner ≠ entry)
    cells := k.cells.filter fun c => decide (c.entry ≠ entry) || k.transferring entry c.handle
    evicts := k.evicts.filter fun e => decide (e.cell.entry ≠ entry) || k.transferring entry e.cell.handle
    recalls := k.recalls.filter fun r => decide (r.entry ≠ entry) || r.why.runsOn
    opens := k.opens.filter fun o => o.2.spawner != name
    links := k.links.filter fun e => !(decide (e.2.lslot = entry) && e.2.peer == 0#64)
    walks := if (k.actor entry).recCount ≠ 0 then k.walks ++ [{ entry := entry, kind := .all }] else k.walks }

/-- The die allocator counts an id as retired (R417, R418). -/
def Die.retireId (d : Die) (c : CtxId) : Die :=
  let n := c.toNat % 2 ^ 18
  { d with tagIssued := Tab.adjust d.tagIssued (n / 64) fun w => w &&& ~~~(1#64 <<< (n % 64)) }

/-- A core's range of fresh ids holds 64 at most; what exceeds them goes back to the die's allocator (R129).
(DESIGN CHOICE, log 19.) -/
def State.trimFresh (s : State) (core : Nat) : State :=
  let l := (s.core core).fresh
  if l.length ≤ 64 then s
  else (s.modCore core fun k => { k with fresh := l.take 64 }).modDie (dieOf core) fun d => (l.drop 64).foldl Die.retireId d

/-- The work distributors an actor owns are freed at its die (R309). -/
def Die.freeDists (d : Die) (name : Name) : Die :=
  { d with dists := Tab.mapVals d.dists fun _ w =>
      if w.busy && w.owner == name then { w with busy := false, gen := nextSkip0 w.gen } else w }

/-- The start serves a SPAWN. -/
def StartFor.isSpawn : StartFor → Bool
  | .spawn _ => true
  | _ => false

/-- What Yarrow gives up when a supervisor dies: its events, its starts, and its open questions, answered with no
successor (R85). -/
def State.abandon (s : State) (core : Nat) (name : Name) : State :=
  let k := s.core core
  let open_ := k.asks.filter fun a => a.sup == name
  let s := open_.foldl (fun s a => s.transmit core (.resAns a.core a.dead 0#64 a.restarts) true) s
  let freed := (k.starts.filter fun x => x.supName == name && x.why.isSpawn == false)
  let s := freed.foldl (fun s x => match x.core with
    | some c => s.modActor c x.entry fun a => { a with claimed := false }
    | none => s) s
  s.modCore core fun k => { k with
    asks := k.asks.filter fun a => a.sup != name
    events := k.events.filter fun e => e.supName != name
    starts := k.starts.filter fun x => !(x.supName == name && x.why.isSpawn == false) }

/-- One actor enters EXITING: steps 1 to 3 of R69, the kill of a supervisor's children first (R83), with FAULTS code
0x0D counted for its handlers but the one whose fault it was (R68). -/
def State.exitOne (s : State) (core entry : Nat) (cls : DeathClass) (detail : BitVec 8) (w2 : Word)
    (exempt : Option Nat) : State :=
  let a := s.actor core entry
  let full := (s.core core).mboxFull entry
  let ended := (s.core core).handlers.filter fun h => decide (h.2.entry = entry) && decide (some h.2.serial ≠ exempt)
  let s := s.countN core a.tenant 0x02D ended.length
  let kids := match a.role with | .secondary _ _ => [] | _ => s.childNames core entry
  let s := kids.foldl (fun s n => s.transmit core (.kill n .shutdown 0#8 a.name) true) s
  let s := (s.modCore core fun k => k.reclaim entry a.name).trimFresh core
  let s := if (s.die (dieOf core)).dists.any (fun d => d.2.busy && d.2.owner == a.name) then
    s.modDie (dieOf core) fun d => d.freeDists a.name else s
  let s := s.abandon core a.name
  s.modActor core entry fun a =>
    { a with state := .exiting, sup := none, diedAt := s.now core, wasFull := full,
             death := some { cls := cls, detail := detail, w2 := w2 } }

/-- The order of R66 among causes of one cycle. -/
def DeathClass.rank (c : DeathClass) : Nat :=
  match c with
  | .fault => 0
  | .unreachable => 1
  | .killed => 2
  | .escalated => 3
  | .shutdown => 4
  | .normal => 5

/-- An entry that died in this very cycle of a cause that ranks behind the class (R66). (DEDUCED, log 51.) -/
def State.outranks (s : State) (core entry : Nat) (cls : DeathClass) : Bool :=
  let a := s.actor core entry
  decide (a.state = .exiting) && decide (a.diedAt = s.now core) && match a.death with
    | some d => decide (cls.rank < d.cls.rank)
    | none => false

/-- A cause of death reaches the actor of a name: it lives, or the cause outranks the one it died of in this cycle (R66). -/
def State.mortal (s : State) (core : Nat) (n : Name) (cls : DeathClass) : Bool :=
  s.alive core n || ((s.actor core (nameSlot n)).name == n && s.outranks core (nameSlot n) cls)

/-- An entry's twin, where it is half of a replicated actor (R86). -/
def Actor.twin (a : Actor) : Option (Nat × Nat) :=
  match a.role with
  | .none => none
  | .primary c e => some (c, e)
  | .secondary c e => some (c, e)

/-- An entry holds the secondary of the actor of a name: what it would send or bring about itself comes to it from its primary
(R87). -/
def Actor.isShadow (a : Actor) (n : Name) : Bool :=
  match a.role with
  | .secondary _ _ => a.name == n
  | _ => false

/-- A cause of the same cycle that ranks before the one an entry died of takes its place (R66). -/
def State.rewriteDeath (s : State) (core entry : Nat) (cls : DeathClass) (detail : BitVec 8) (w2 : Word) : State :=
  s.modActor core entry fun a => { a with death := some { cls := cls, detail := detail, w2 := w2 } }

/-- TAKING A DEATH: the first cause moves a LIVE entry to EXITING (R66), both replicas of a replicated actor together
(R88); later causes change nothing but one of the same cycle that ranks before it, which both replicas take. -/
def State.enterExiting (s : State) (core entry : Nat) (cls : DeathClass) (detail : BitVec 8) (w2 : Word)
    (exempt : Option Nat) : State :=
  let a := s.actor core entry
  if a.state ≠ .live then
    if s.outranks core entry cls then
      let s := s.rewriteDeath core entry cls detail w2
      match a.twin with
      | some (c, e) => if (s.actor c e).state = .exiting then s.rewriteDeath c e cls detail w2 else s
      | none => s
    else s
  else
    let s := s.exitOne core entry cls detail w2 exempt
    match a.twin with
    | some (c, e) => if (s.actor c e).state = .live then s.exitOne c e cls detail w2 exempt else s
    | none => s

/-- TAKING A FAULT, the one exception the machine has (R65, R67, R68): the group has no effect, FAULTS and the code's own
source advance, and the actor of the current handler dies with class FAULT, the code as detail and the group's address in
w2. There is no return from it; the restart engine builds the actor anew (R84). (DESIGN CHOICE, log 46.) -/
def State.takeFault (s : State) (c : FaultCode) : State :=
  let h := s.hd
  ((s.countHere 0x020).countHere (0x020 + c.code)).enterExiting s.cur.core h.entry .fault (BitVec.ofNat 8 (c.code))
    (BitVec.ofNat 64 h.pc) (some h.serial)

/-! ### Pre-emption and resumption: the save and the restore of a handler (R15, R16, R61, R62) -/

/-- Why a handler is pre-empted (R61). -/
inductive PreemptWhy where
  | budget | slice | request (hold : Bool)
  deriving DecidableEq, Repr

/-- Budget classes in cycles (R60); none has no end. -/
def budgetOf (cls : Nat) : Option Nat :=
  match cls with
  | 0 => some 16384
  | 1 => some 262144
  | 2 => some 4194304
  | _ => none

/-- Effective channel by age in dispatches (R50). -/
def effChannel (chan age now : Nat) : Nat :=
  if chan = 0 then 0
  else if 8192 < now - age then max 1 (chan - 2)
  else if 4096 < now - age then max 1 (chan - 1)
  else chan

/-- The handler leaves its slot: its items are clean again, its age is now, and after an exhausted budget its channel is 3
(R16, R61, R62). A slice end or a request leaves it the channel it had, 3 after an earlier exhausted budget.
(DESIGN CHOICE, log 6 and 54.) -/
def Handler.save (h : Handler) (now : Nat) (why : PreemptWhy) : Handler :=
  { h with
    status := match why with | .request true => .held | _ => .preempted
    effChan := match why with | .budget => 3 | _ => h.effChan
    age := now
    stale := []
    dirtyRegs := 0#32, dirtyShapes := 0#16, dirtyAcc := 0#4, dirtyCtl := false }

/-- Pre-empt the handler in a record, where it holds a slot: dirty items and the resume word go to the record (R15, R16, R61).
-/
def State.preempt (s : State) (core rec : Nat) (why : PreemptWhy) : State :=
  match Tab.get? (s.core core).handlers rec with
  | none => s
  | some h =>
    match h.status.slot? with
    | none => s
    | some _ =>
      let s := s.writeItems core rec h.dirtyItems
      let s := s.modCore core fun k => { k with handlers := Tab.put k.handlers rec (h.save k.dispCount why) }
      s.count core (s.actor core h.entry).tenant 0x004

/-- Resume the handler in a record into a free slot: its state is reloaded, with a fresh budget (R16, R62). -/
def State.resume (s : State) (core rec slot : Nat) : State :=
  s.modCore core fun k => { k with
    handlers := Tab.adjust k.handlers rec fun h => { s.loadRecord core rec h with status := .running slot, used := 0 } }

/-- The lowest thread slot that is IDLE (R13). -/
def Core.freeSlot (k : Core) : Option Nat :=
  (List.range 8).find? fun n => !k.handlers.any fun h => decide (h.2.status.slot? = some n)

/-! ### Guards (step 3 to 5 of R229) -/

def State.fault (s : State) (c : FaultCode) : Res := .next (s.takeFault c)

/-- A register number lies below the declared count (R18). -/
def Handler.named (h : Handler) (rs : List Nat) : Bool := rs.all fun r => decide (r < h.count)

/-- Step 4 of R229: every register a group names lies below the declared count, or REGBOUND. -/
def State.guardRegs (s : State) (rs : List Reg) (k : Res) : Res :=
  if s.hd.named (rs.map BitVec.toNat) then k else s.fault .regbound

/-- Step 3 of R229: a privileged form on a core that is not a steward core. -/
def State.guardPriv (s : State) (k : Res) : Res := if isSteward s.cur.core then k else s.fault .priv

/-- A check of step 5 of R229. -/
def State.require (s : State) (b : Bool) (c : FaultCode) (k : Res) : Res := if b then k else s.fault c

/-- The group's effect is done: it retires. -/
def State.done (s : State) : Res := .next s.retire

end Sys2Proof.Machine
end

