-- ==== Sys2Proof/Machine/Recall.lean ====
section
/-! DEFINITION. Recalls (05 R125, R126): the records of a context in an overflow area, brought back into the pool for a
dispatch, a prefetch, a landing, or an operation that meets its own lines there. -/

namespace Sys2Proof.Machine

open Sys2Proof

/-- The records of an id in its actor's probe window: offset, data, handle, line. Those of a freed region are left to the walk
that frees them (R95). -/
def State.records (s : State) (core entry : Nat) (c : CtxId) : List (Nat × List Byte × Nat × Nat) :=
  let a := s.actor core entry
  if a.ovlen < 128 then [] else
  (probeOffsets a.ovlen c).filterMap fun o =>
    match s.hbmPeek a.tenant (a.ova + o) 72 with
    | some bs =>
      let h := bits (field bs 68 4) 16 5
      if field bs 64 4 = c.toNat ∧ !(s.core core).walks.any (fun w => decide (w.entry = entry) && decide (w.kind = .handle h))
      then some (o, bs.take 64, h, field bs 68 2) else none
    | none => none

/-- Free a record: its id becomes 0 and the owner's count falls (R126). -/
def State.freeRecord (s : State) (core entry off : Nat) : State :=
  let a := s.actor core entry
  let s := (s.hbmWrite a.tenant (a.ova + off + 64) (List.replicate 4 0#8)).1
  s.modActor core entry fun a => a.lowerRec 1

/-- A record of a recall: its offset, its data, its region handle and its line. -/
abbrev Record := Nat × List Byte × Nat × Nat

/-- How far a recall gets: every record is in the pool; so many are left for want of a cell; or the rest waits for the
eviction buffer (R55, R124). What is in the pool stays there. -/
inductive Fill where
  | done (s : State)
  | short (s : State) (left : Nat)
  | wait (s : State)

/-- Bring records into the pool one by one, each freed when its cell is there (R125, R126). -/
def State.recallAll (s : State) (core entry slot : Nat) (c : CtxId) : List Record → Fill
  | [] => .done s
  | (o, d, h, l) :: rest =>
    match s.takeCell core with
    | .ok s =>
      let cell : Cell := { entry := entry, handle := h, line := l, ctx := c, slot := slot, data := d, used := (s.core core).lru }
      let s := s.modCore core fun k => { k with cells := k.cells ++ [cell], lru := k.lru + 1 }
      (s.freeRecord core entry o).recallAll core entry slot c rest
    | .full s => .wait s
    | .noCell => .short s (rest.length + 1)

/-- A recall of records of an id for an actor, into the slot that maps it (R125, R126). It waits for a walk that frees the
records of the retired id (R132), and at its end for the cells of the id that are still in the eviction buffer. (DEDUCED, log
15.) -/
def State.recallList (s : State) (core entry : Nat) (c : CtxId) (l : List Record) : Fill :=
  if (s.core core).walks.any fun w => decide (w.entry = entry) && decide (w.kind = .context c) then .wait s
  else match (s.core core).mapCtx c with
  | none => .short s 0
  | some (k, slot) =>
    let a := s.actor core entry
    match ((s.setCore core k).probeArea a (if a.ovlen < 128 then [] else probeOffsets a.ovlen c)).recallAll core entry slot c l with
    | .done s =>
      if (s.core core).evicts.any fun e => decide (e.cell.entry = entry) && e.cell.ctx == c then .wait s else .done s
    | f => f

/-- A recall of every record of an id, those that `first` picks before the others. -/
def State.performRecall (s : State) (core entry : Nat) (c : CtxId) (first : Record → Bool) : Fill :=
  let l := s.records core entry c
  s.recallList core entry c (l.filter first ++ l.filter fun r => !first r)

/-! ### Operations whose lines are in the area (R121, R135, R203) -/

/-- A record is of a line that some of the ranges touch, in a region of the actor or one that a transfer is still to read. -/
def State.touchesRecord (s : State) (core entry : Nat) (sps : List Span) (r : Record) : Bool :=
  match (s.core core).cellRegion entry r.2.2.1 with
  | none => false
  | some g => sps.any (Span.overlaps · { home := localHome core (g.base + 64 * r.2.2.2), len := 64 })

/-- What an operation left in a context reads and writes is in the pool or the eviction buffer, so that its view is whole:
whether it is, and the state with the records that could be brought back (R125, R135, R203). (DEDUCED, log 15.) -/
def State.viewIn (s : State) (core entry : Nat) (c : CtxId) (sps : List Span) : Bool × State :=
  let need (s : State) : Bool := (s.records core entry c).any (s.touchesRecord core entry sps)
  if c = 0#32 ∨ !(s.actor core entry).filterBit c ∨ !need s then (true, s)
  else
    let t := match s.performRecall core entry c (s.touchesRecord core entry sps) with
      | .done t => t
      | .short t _ => t
      | .wait t => t
    (!need t, t)

end Sys2Proof.Machine
end

