-- ==== Sys2Proof/Machine/Outbound.lean ====
section
/-! DEFINITION. The outbound queue of a core with its releases and fences (08 R193-R196), and Campion (03 R87). -/

namespace Sys2Proof.Machine

open Sys2Proof

/-! ### The outbound queue (R193-R196) -/

/-- A distributor handle (R308). -/
def State.distHandle (s : State) (die i : Nat) (d : Distributor) : Word :=
  BitVec.ofNat 64 (s.mod.num.toNat * 2 ^ 54 + die * 2 ^ 50 + d.gen.toNat * 2 ^ 32 + i)

/-- The lowest free distributor of the issuing core's die opens and its handle lands, or 0 where none is free (R309). -/
def State.openDist (s : State) (core : Nat) (name : Name) (rec serial idx x y : Nat) : State :=
  let die := dieOf core
  match (List.range 64).find? fun e => !((Tab.get? (s.die die).dists e).getD {}).busy with
  | none => (s.count core (nameTenant name) 0x055).result core rec serial idx 0#64
  | some e =>
    let old := (Tab.get? (s.die die).dists e).getD {}
    let d : Distributor := { old with busy := true, x := x, y := y, next := 0, owner := name, tenant := nameTenant name }
    (s.modDie die fun v => { v with dists := Tab.put v.dists e d }).result core rec serial idx (s.distHandle die e d)

/-- Where a pool message is stored: 128 entries of the deque on chip, further ones in the spill pool (R39, R56). -/
def countPlace (q : List QMsg) (p : Place) : Nat := (q.filter fun x => decide (x.place = p)).length

/-- Spill entries of the core: 64 to each 4 KiB unit (R39, R360). -/
def Core.spillFree (k : Core) : Bool :=
  decide (countPlace k.queue .spill + countPlace k.pool .spill < k.cfg.spill * 64)
def Core.poolPlace (k : Core) : Option Place :=
  if countPlace k.pool .chip < 128 then some .chip else if k.spillFree then some .spill else none

/-- Enter a pool message: at the owner end, the head of the list, or at the far end (R56). -/
def State.poolPush (s : State) (core entry : Nat) (m : Msg) (ownerEnd : Bool) : State :=
  let k := s.core core
  match k.poolPlace with
  | none => s.count core m.tenant 0x035
  | some p =>
    let q : QMsg := { entry := entry, msg := m, place := p, age := k.dispCount, ord := k.arrivals }
    s.modCore core fun k => { k with pool := if ownerEnd then q :: k.pool else k.pool ++ [q], arrivals := k.arrivals + 1 }

/-- A forked message reaches its actor's deque at the owner end, if the actor still lives (R56, R66, R285). -/
def State.forkIn (s : State) (core entry : Nat) (m : Msg) : State :=
  if s.alive core m.dest then s.poolPush core entry m true else s.count core m.tenant 0x037

/-- What an entry does when it leaves; a waiting local store is performed by `OUTBOUND_RELEASE` itself. -/
def State.leave (s : State) (core : Nat) (e : OutEnt) : State :=
  match e.body with
  | .packet p => s.transmit core p e.conds.isEmpty
  | .remote rid p =>
    let s := s.modCore core fun k => { k with
      remotes := Tab.adjust k.remotes rid fun r => { r with left := some s.mod.timeNs } }
    s.transmit core p e.conds.isEmpty
  | .localStore .. => s
  | .fork entry m => s.forkIn core entry m
  | .wqOpen rec serial idx x y => s.openDist core e.name rec serial idx x y

/-- An earlier store of the program that waits in the store buffer reaches one of the spots. -/
def State.storeMeets (s : State) (core : Nat) (before : List OutEnt) (e : OutEnt) (l : List Spot) : Bool :=
  before.any fun b => sameProgram (namePool e.name) e.name b.name e.serial b.serial && (b.body.storeSpan core).any fun sp =>
    l.any fun x => (s.spotSpan x).any sp.overlaps

/-- An earlier engine operation or copy of the program that has not moved everything reads or writes one of the spots in this
core's memories, or sends to one of them (R186, R190). -/
def State.opMeets (s : State) (core : Nat) (e : OutEnt) (l : List Spot) : Bool :=
  let k := s.core core
  (k.teasel ++ k.vec ++ k.matq ++ k.sumq).any fun o => sameProgram (namePool e.name) e.name o.name e.serial o.serial &&
    decide (o.seq < e.seq) && ((!o.sent && s.spotsMeet l o.spots) ||
      (!o.landed && l.any fun x => (s.spotSpan x).any fun sp => (o.reads ++ o.writes).any sp.overlaps))

/-- Nothing keeps an entry behind those before it, nor an earlier write of its program that reaches the same bytes: waiting in
the queue or in the store buffer, still to be sent or moved by an engine, or a multicast on its way (R186, R192-R196); a FORK
also lets the messages of its flow arrive first (R285). (DEDUCED, log 53.) -/
def State.mayLeave (s : State) (core : Nat) (before : List OutEnt) (e : OutEnt) : Bool :=
  let k := s.core core
  k.outReady s.mod.timeNs core e && match e.body.packet? with
    | none => (match e.body with
      | .fork _ m => !s.net.any fun p => decide (flowOf p = flowOf (.msg m))
      | _ => true)
    | some p => !s.remoteBehind (before.filterMap (·.body.packet?)) p &&
        match p.spots with
        | none => true
        | some (_, l) =>
          !s.opMeets core e l && !s.storeMeets core before e l &&
          !k.remotes.any fun r => r.2.write && r.2.name == e.name && decide (r.2.seq < e.seq) && stillCovers s.mod.timeNs r.2.at_ &&
            ((r.2.spot.map Spot.wide).getD false || (l.any Spot.wide && r.2.spot.isSome))

/-- Place an entry in the outbound queue; one that nothing holds leaves at once (R193). (DESIGN CHOICE, log 17.) -/
def State.enqueue (s : State) (core : Nat) (e : OutEnt) : State :=
  let k := s.core core
  if s.mayLeave core k.outq e then s.leave core e
  else s.modCore core fun k => { k with outq := k.outq ++ [e] }

/-- An entry takes room in the outbound queue: a store in the store buffer takes none (R196, R252), and a spawn request is
counted with those that wait for their first answer (R274). -/
def OutBody.takesRoom : OutBody → Bool
  | .localStore .. => false
  | .packet (.spawn _) => false
  | _ => true

/-- Entries of the outbound queue in use (R194, R274). -/
def Core.outUsed (k : Core) : Nat := (k.outq.filter fun e => e.body.takesRoom).length + (k.opens.filter fun o => !o.2.acked).length

/-- The outbound queue has no room (R194). -/
def Core.outFull (k : Core) : Bool := decide (128 ≤ k.outUsed)

/-! ### Campion (R87) -/

/-- The hash of six words. -/
def hash6 (ws : List Word) : Word := ws.foldl (fun h w => mix64 (h ^^^ w)) 0#64

/-- Header words of a message (R36). -/
def Msg.headerLo (m : Msg) : Word := m.dest
def Msg.headerHi (m : Msg) : Word :=
  BitVec.ofNat 64 (m.hidx.toNat + m.chan.toNat * 64 + m.mflags.toNat * 256 + m.prio.toNat * 65536 + m.ctx.toNat * 2 ^ 32)

/-- The six words of a message. -/
def Msg.words (m : Msg) : List Word := [m.headerLo, m.headerHi, m.a0, m.a1, m.a2, m.a3]

/-- The six words of a remote operation. -/
def RemoteOp.words (o : RemoteOp) : List Word :=
  [o.key, BitVec.ofNat 64 o.off, o.operand, o.expected, BitVec.ofNat 64 o.len, BitVec.ofNat 64 (leNat o.data)]

/-- The six words of a packet that an actor issues, for Campion: header and arguments of a message, of a region's notice too
(R98); key, offset, operands and data of a remote operation; what another form names. What an actor does not issue has none to
compare. (DEDUCED, log 24.) -/
def Packet.words : Packet → List Word
  | .msg m => m.words
  | .transfer t => t.notice.words
  | .remote o => o.words
  | .multicast g _ o => o.words.set 0 (g.setWidth 64)
  | .pullReq g _ off fp _ _ => [g.setWidth 64, BitVec.ofNat 64 off, BitVec.ofNat 64 fp.toNat, 0#64, 0#64, 0#64]
  | .advance o c n _ => [o, BitVec.ofNat 64 c.toNat, BitVec.ofNat 64 n, 0#64, 0#64, 0#64]
  | .spawn r => [r.image.setWidth 64, r.place.setWidth 64, r.ilen.setWidth 64, BitVec.ofNat 64 r.dom,
                 BitVec.ofNat 64 (r.repl.toNat + 2 * r.supv.toNat + 4 * r.pool.toNat + 8 * r.link.toNat), r.a3]
  | .kill t cls detail _ => [t, BitVec.ofNat 64 cls.code, detail.setWidth 64, 0#64, 0#64, 0#64]
  | .linkReq mon _ p ref _ _ _ => [p, BitVec.ofNat 64 mon.toNat, ref.setWidth 64, 0#64, 0#64, 0#64]
  | .unlink mon _ p ref => [p, BitVec.ofNat 64 mon.toNat, ref.setWidth 64, 0#64, 0#64, 0#64]
  | .wqQuery h _ _ _ => [h, 0#64, 0#64, 0#64, 0#64, 0#64]
  | .wqClose h _ _ _ => [h, 1#64, 0#64, 0#64, 0#64, 0#64]
  | .steward a => [BitVec.ofNat 64 a.target, a.tbl.setWidth 64, a.idx.setWidth 64, BitVec.ofNat 64 a.write.isSome.toNat,
                   a.write.getD 0#64, 0#64]
  | .prmt t op => [t, op.setWidth 64, 0#64, 0#64, 0#64, 0#64]
  | _ => [0#64, 0#64, 0#64, 0#64, 0#64, 0#64]

/-- The pair of a replicated actor dies of a failed comparison (R65, R87), a fault of code 0x0C (R68). (DEDUCED, log 24.) -/
def State.diverge (s : State) (core entry : Nat) (src : Nat) (pc : Nat) : State :=
  let t := (s.actor core entry).tenant
  (((s.count core t src).count core t 0x020).count core t 0x02C).enterExiting core entry .fault 0x0C#8 (BitVec.ofNat 64 pc) none

/-- What Campion has found equal goes to the outbound queue, in its order, while that has room (R87, R194). -/
def State.campionFlow (s : State) (core : Nat) : State :=
  ((s.core core).campion.filter (·.ok)).foldl (fun s c =>
    if (s.core core).outFull then s
    else (s.modCore core fun k => { k with campion := k.campion.filter fun x => !(x.ok && decide (x.entry = c.entry) &&
      decide (x.n = c.n)) }).enqueue core c.out) s

/-- Campion compares a held message with the secondary's hash, when both are there; that of an actor which has died meanwhile
is not sent any more (R69, R87). (DEDUCED, log 24.) -/
def State.campionMeet (s : State) (core entry n : Nat) : State :=
  let k := s.core core
  match k.campion.find? (fun c => decide (c.entry = entry) && decide (c.n = n)),
        k.hashes.find? (fun h => decide (h.1 = entry) && decide (h.2.1 = n)) with
  | some c, some h =>
    let mine (x : CampionHold) : Bool := decide (x.entry = entry) && decide (x.n = n)
    let s := s.modCore core fun k => { k with hashes := k.hashes.filter fun x => !(decide (x.1 = entry) && decide (x.2.1 = n)) }
    let gone (s : State) : State := s.modCore core fun k => { k with campion := k.campion.filter fun x => !mine x }
    if c.hash ≠ h.2.2 then (gone s).diverge core entry 0x040 c.pc
    else if (k.actor entry).state ≠ .live then gone s
    else
      let met (x : CampionHold) : CampionHold := if mine x then { x with ok := true } else x
      (s.modCore core fun k => { k with campion := k.campion.map met }).campionFlow core
  | _, _ => s

/-- A further send of this actor would wait for Campion: 32 messages are held (R55, R87). -/
def Core.campionFull (k : Core) (entry : Nat) : Bool :=
  decide (32 ≤ (k.campion.filter fun c => decide (c.entry = entry)).length)

/-- An actor's message or remote operation goes out: an ordinary actor's to the outbound queue, a primary's to Campion, and
of a secondary's only the hash (R87). (DEDUCED, log 24.) -/
def State.post (s : State) (core entry : Nat) (e : OutEnt) (pc : Nat) : State :=
  let a := s.actor core entry
  match a.role, e.body.packet? with
  | .none, _ => s.enqueue core e
  | _, none => s.enqueue core e
  | .primary _ _, some p =>
    let s := s.modActor core entry fun a => { a with outN := a.outN + 1 }
    let s := s.modCore core fun k => { k with campion := k.campion ++ [{ entry := entry, n := a.outN, hash := hash6 p.words,
                                                                         since := s.mod.timeNs, pc := pc, out := e }] }
    s.campionMeet core entry a.outN
  | .secondary _ _, some p =>
    let s := s.modActor core entry fun a => { a with outN := a.outN + 1 }
    s.emit (.hash a.name a.outN (hash6 p.words))

/-- The number of a replicated actor's next operation (R87). -/
def Actor.nextOut (a : Actor) : Option Nat :=
  match a.role with
  | .none => none
  | _ => some a.outN

/-- An operation of a replicated actor that Campion does not compare is counted on both sides all the same. -/
def Actor.countOut (a : Actor) : Actor :=
  match a.role with
  | .none => a
  | _ => { a with outN := a.outN + 1 }

/-- The next issue number of a core. -/
def State.bumpSeq (s : State) (core : Nat) : State := s.modCore core fun k => { k with seq := k.seq + 1 }
/-- The next number of a remote operation, engine operation or spawn of a core. -/
def State.bumpId (s : State) (core : Nat) : State := s.modCore core fun k => { k with nextId := k.nextId + 1 }

/-- Sends wait where the outbound queue is full or Campion holds 32 messages (R55). -/
def State.sendBlocked (s : State) : Bool := s.here.outFull || s.here.campionFull s.hd.entry

/-- What an issue of the current handler must wait for: its fences (R196), and with a release ordering every earlier write
within the scope, widened to hold the receiver (R193). -/
def State.condsFor (s : State) (rel : Option Scope) (place : Option Nat) : List (Scope × Nat) :=
  let k := s.here
  (s.hd.fences.filter fun f => scopeHolds f.1 s.cur.core place) ++
    match rel with
    | some sc => [(widen sc s.cur.core place, k.seq)]
    | none => []

/-- The ordering of a form as a release, and as an acquire. -/
def relOf : MemOrd → Option Scope
  | .release sc => some sc
  | .acqRel sc => some sc
  | _ => none
def acqOf : MemOrd → Option Scope
  | .acquire sc => some sc
  | .acqRel sc => some sc
  | _ => none

/-- The current handler sends a packet that no answer follows: a message, a kill, an advance, a signal of its own. -/
def State.sendPacket (s : State) (p : Packet) (rel : Option Scope) (place : Option Nat) : State :=
  let h := s.hd
  let e : OutEnt := { seq := s.here.seq, name := s.self.name, serial := h.serial, conds := s.condsFor rel place,
                      at_ := s.mod.timeNs, body := .packet p }
  (s.post s.cur.core h.entry e h.pc).bumpSeq s.cur.core

/-- The current handler hands its core something that no packet carries: a FORK (R285), an open of a distributor (R292). -/
def State.sendHere (s : State) (b : OutBody) : State :=
  let h := s.hd
  let e : OutEnt := { seq := s.here.seq, name := s.self.name, serial := h.serial, conds := s.condsFor none (some s.cur.core),
                      at_ := s.mod.timeNs, body := b }
  (s.post s.cur.core h.entry e h.pc).bumpSeq s.cur.core

/-- The number of flits whose answers a remote operation of this module waits for (R113): more than one where a long store
crosses to another module. -/
def Packet.answers (p : Packet) (place : Option Nat) : Nat :=
  match p with
  | .remote o => if place.isNone then o.flits.length else 1
  | _ => 1

/-- The current handler issues a remote operation: it is recorded until its answer, and goes out by the outbound queue (R184,
R194). Its writes come behind the fences whose scopes hold a target of it, its reads behind every fence, for the earlier reads
within that fence's scope (R196). -/
def State.sendRemote (s : State) (r : Remote) (rel : Option Scope) (p : Packet) : State :=
  let h := s.hd
  let k := s.here
  let rid := k.nextId
  let rels := match rel with
    | some sc => [(widen sc s.cur.core r.place, k.seq)]
    | none => []
  let e : OutEnt := { seq := k.seq, name := s.self.name, serial := h.serial,
                      conds := if r.write then (s.hd.fences.filter fun f => r.within f.1 s.cur.core) ++ rels else [],
                      reads := if r.read then s.hd.fences else [],
                      at_ := s.mod.timeNs, body := .remote rid p }
  let r := { r with seq := k.seq, n := s.self.nextOut, at_ := s.mod.timeNs, parts := p.answers r.place,
                    spot := p.spots.bind (·.2.head?) }
  let s := s.modHere fun k => { k with remotes := Tab.put k.remotes rid r }
  ((s.post s.cur.core h.entry e h.pc).bumpSeq s.cur.core).bumpId s.cur.core

end Sys2Proof.Machine
end

