-- ==== Sys2Proof/Machine/Operands.lean ====
section
/-! DEFINITION. Every operand form: operation widths (11 R231), effective addresses and local accesses with the interlock,
the store buffer and the views (12 R249-R256), message blocks (13 R265, R266), reserved bits of a register operand. -/

namespace Sys2Proof.Machine

open Sys2Proof

/-! ### Operation widths (R231) -/

/-- Width in bits of modifier class S. -/
def widthBits : OpWidth → Nat
  | .w64 => 64 | .w32 => 32 | .w16 => 16 | .w8 => 8

/-- Bytes of an access size (R249). -/
def sizeBytes : Size → Nat
  | .b => 1 | .h => 2 | .w => 4 | .d => 8

/-- The low `w` bits of a register. -/
def lowBits (w : Nat) (v : Word) : Nat := v.toNat % 2 ^ w

/-- The low `w` bits as a signed number. -/
def signedLow (w : Nat) (v : Word) : Int :=
  let n := lowBits w v
  if n < 2 ^ (w - 1) then n else (n : Int) - 2 ^ w

/-- A `w`-bit result, sign-extended to 64 bits (R231). -/
def sextWidth (w : Nat) (n : Int) : Word :=
  let m := (n % 2 ^ w).toNat
  if m < 2 ^ (w - 1) then BitVec.ofNat 64 m else BitVec.ofInt 64 ((m : Int) - 2 ^ w)

/-! ### Interlock (R55, R190) and the store buffer (R196, R252) -/

/-- The engine and copy operations queued on a core. -/
def Core.ops (k : Core) : List EngOp := k.teasel ++ k.vec ++ k.matq ++ k.sumq ++ k.apert

/-- The interlock of R55 and R250: a queued operation of the program reads or writes the range. The program of a pool actor is
the one handler; what an ordinary actor's earlier handler left queued keeps its interlock (R190). -/
def Core.interlocked (k : Core) (n : Name) (serial : Nat) (sp : Span) : Bool :=
  k.ops.any fun o => sameProgram (namePool n) n o.name serial o.serial && (o.reads ++ o.writes).any sp.overlaps

/-- Engine operations run behind those whose results they read or whose operands they write (R190). -/
def Core.conflicts (k : Core) (n : Name) (serial : Nat) (write : Bool) (sp : Span) : Bool :=
  k.ops.any fun o => sameProgram (namePool n) n o.name serial o.serial && ((if write then o.reads else []) ++ o.writes).any sp.overlaps

/-- A queued operation, a waiting store or a held landing still reaches the line of a cell of its owner and context. -/
def Core.keepsCell (k : Core) (core : Nat) (r : Region) (c : Cell) : Bool :=
  let sp : Span := { home := localHome core (r.base + 64 * c.line), len := 64 }
  let line (addr : Nat) : Bool := decide ((addr - r.base) / 64 = c.line)
  k.ops.any (fun o => decide (o.entry = c.entry) && o.ctx == c.ctx && o.writes.any sp.overlaps) ||
    k.outq.any (fun e => match e.body with
      | .localStore x h _ ctx _ a _ => decide (x = c.entry) && decide (h = c.handle) && ctx == c.ctx && line a
      | _ => false) ||
    k.heldLandings.any fun x => decide (x.entry = c.entry) && decide (x.handle = c.handle) && x.op.ctx == c.ctx &&
      (pieces x.addr x.op.len).any fun p => line p.1

/-- A reserved cell that something is still to write, with the region of its line. -/
def State.stillReserved (s : State) (core : Nat) (c : Cell) : Bool :=
  c.reserved && ((s.core core).cellRegion c.entry c.handle).any fun r => (s.core core).keepsCell core r c

/-- An operation has ended: a cell that it reserved and no other write is to come to is a cell like any other. Every line of its
extent is materialised, the lines that it wrote no byte of from the base line (R122, R127). (DEDUCED, log 19.) -/
def State.settleCells (s : State) (core : Nat) : State :=
  let settled (c : Cell) : Cell :=
    if !c.reserved || s.stillReserved core c then c
    else match (s.core core).cellRegion c.entry c.handle with
      | some r => { s.fillCell core r c with reserved := false }
      | none => { c with reserved := false }
  s.modCore core fun k => { k with cells := (k.cells.map settled).filter fun c => c.reserved || !c.data.isEmpty }

/-- What was reserved for an operation that does not take place is free again: it reserves all its cells or none (R127). -/
def State.unreserve (s : State) (core : Nat) : State :=
  s.modCore core fun k => { k with
    cells := (k.cells.map fun c => { c with reserved := s.stillReserved core c }).filter fun c => c.reserved || !c.data.isEmpty }

/-- The lines that an access touches. -/
def lineSpan (core addr n : Nat) : Span := ({ home := localHome core addr, len := n } : Span).lines

/-! ### Loads with the store buffer (R190, R252) -/

/-- A byte as a view sees it while its program's stores wait: its cell's, where it has a cell, and the base line's (R121). -/
structure Seen where
  cell : Option Byte
  base : Byte
  deriving DecidableEq, Repr, Inhabited

def Seen.value (x : Seen) : Byte := x.cell.getD x.base

/-- What a waiting store makes of a byte when it is performed: one to the base line changes that; one in the view's own context
materialises the line, if it has no cell yet, and changes the cell (R121). -/
def OutBody.lay (ctx : CtxId) (a : Nat) (x : Seen) (b : OutBody) : Seen :=
  match b with
  | .localStore _ _ r c _ addr d =>
    let hit := decide (addr ≤ a) && decide (a < addr + d.length)
    let new := d.getD (a - addr) 0#8
    if !r.tagged || c == 0#32 then (if hit then { x with base := new } else x)
    else if c == ctx && decide (addr / 64 = a / 64) then { x with cell := some (if hit then new else x.value) }
    else x
  | _ => x

/-- One byte of a region as a program reads it through a view: its own waiting stores are performed for it, oldest first. -/
def State.seenByte (s : State) (n : Name) (serial : Nat) (v : View) (h : Nat) (r : Region) (addr : Nat) : Byte :=
  let k := s.core v.core
  let x : Seen := {
    cell := if r.tagged && v.ctx != 0#32 then
        (k.cellData v.entry h ((addr - r.base) / 64) v.ctx v.slot).map fun d => d.getD (addr % 64) 0#8
      else none
    base := s.readHome (localHome v.core addr) }
  ((k.outq.filter fun e => sameProgram (namePool n) n e.name serial e.serial).foldl (fun x e => e.body.lay v.ctx addr x) x).value

/-- A view of a region has no cell for the line of an address: it reads the base line there (R121). -/
def State.isBare (s : State) (v : View) (h : Nat) (r : Region) (addr : Nat) : Bool :=
  ((s.core v.core).cellData v.entry h ((addr - r.base) / 64) v.ctx v.slot).isNone

/-- A local read through a view, the waiting stores of the program seen. -/
def State.readWithHeld (s : State) (n : Name) (serial : Nat) (v : View) (h : Nat) (r : Region) (addr len : Nat) : List Byte :=
  (List.range len).map fun i => s.seenByte n serial v h r (addr + i)

/-- A local read of the current handler through a view. -/
def State.localRead (s : State) (v : View) (h : Nat) (r : Region) (addr n : Nat) : List Byte :=
  s.readWithHeld s.self.name s.hd.serial v h r addr n

/-- A pool cell that a read finds is the most recently used (R124). -/
def State.touchRead (s : State) (v : View) (h : Nat) (r : Region) (addr : Nat) : State :=
  if r.tagged && v.ctx != 0#32 then
    let line := (addr - r.base) / 64
    match (s.core v.core).cells.findIdx? (fun c => !c.data.isEmpty && c.matches_ v.entry h line v.ctx v.slot) with
    | some i => (s.touch v.core).modCore v.core fun k => { k with cells := modifyAt k.cells i fun c => { c with used := k.lru } }
    | none => s
  else s

/-- The cells of an extent that a read finds. -/
def State.touchLines (s : State) (v : View) (addr n : Nat) : State :=
  match (s.actor v.core v.entry).regionAt addr n with
  | some (h, r) => if r.tagged && v.ctx != 0#32 then (pieces addr n).foldl (fun s p => s.touchRead v h r p.1) s else s
  | none => s

/-- What a local access of the current handler meets before its effect. -/
inductive Access where
  | fault (c : FaultCode)
  | wait
  | at_ (addr : Nat) (handle : Nat) (r : Region)

/-- The effective address of a load, store or atomic (R250). -/
def State.ea (s : State) (b : Reg) (off : Word) : Nat := (s.reg b + off).toNat

/-- A read of the current handler waits behind a fence for earlier reads (R196): its value is written at retirement (R251), so
that the group cannot retire before. -/
def State.readsWait (s : State) : Bool :=
  s.hd.fences.any fun f => s.here.readPending s.mod.timeNs s.cur.core s.self.name s.hd.serial f.1 f.2

/-- A queued operation of the handler is on a range of local addresses (R55, R190). -/
def State.lockedAt (s : State) (addr n : Nat) : Bool :=
  s.here.interlocked s.self.name s.hd.serial { home := localHome s.cur.core addr, len := n }

/-- A read of local addresses waits behind a fence, or for an earlier remote write of the program through a window of its own,
which happens before it (R186, R188, R196). (DEDUCED, log 53.) -/
def State.readHeld (s : State) (addr n : Nat) : Bool :=
  s.readsWait || s.remoteMeets s.cur.core s.self.name s.hd.serial s.here.seq { home := localHome s.cur.core addr, len := n }

/-- The checks of R94 at an address and the interlock of R55. -/
def State.access (s : State) (addr n : Nat) (need : Right) : Access :=
  match s.checkLocal s.cur.core s.hd.entry addr n need n with
  | .error c => .fault c
  | .ok (h, r) =>
    if s.lockedAt addr n then .wait
    else if (need = .rd ∨ need = .rw) ∧ s.readHeld addr n then .wait
    else .at_ addr h r

/-- An operand of an instruction in memory, of `n` bytes at an aligned address, read in the CTX view (R271, R273, R296,
R298, R304): the checks of R94 with RD, the form's alignment in the place of its step 5. (DEDUCED, log 52.) -/
inductive Fetched where
  | fault (c : FaultCode)
  | wait
  | bytes (bs : List Byte)

def State.fetchOperand (s : State) (addr : Word) (n align : Nat) : Fetched :=
  match s.checkLocal s.cur.core s.hd.entry addr.toNat n .rd align with
  | .error c => .fault c
  | .ok (h, r) =>
    if s.lockedAt addr.toNat n || s.readHeld addr.toNat n then .wait
    else .bytes (s.localRead s.hdView h r addr.toNat n)

/-- The cells that an operand's read finds are the most recently used (R124). -/
def State.touchOperand (s : State) (addr : Word) (n : Nat) : State := s.touchLines s.hdView addr.toNat n
def State.touchOperands (s : State) (l : List (Word × Nat)) : State := l.foldl (fun s x => s.touchOperand x.1 x.2) s

/-- A store of the current handler to an EX region is remembered word by word (R215). -/
def State.noteCode (s : State) (r : Region) (addr n : Nat) : State :=
  if r.ex then s.modHd fun h => { h with coded := h.coded ++ (List.range ((addr % 2 + n + 1) / 2)).map fun i => addr / 2 * 2 + 2 * i }
  else s

/-- Stores of the current handler (R252): performed at once, or, where a fence, a release or the order of the location puts them
behind earlier writes, kept in the store buffer with their cell taken. (DESIGN CHOICE, log 17.) -/
def State.localStore (s : State) (v : View) (h : Nat) (r : Region) (addr : Nat) (bs : List Byte) (rel : Option Scope) :
    Got :=
  let k := s.here
  let conds := s.hd.fences ++ (match rel with | some sc => [(sc, k.seq)] | none => [])
  let sp : Span := { home := localHome s.cur.core addr, len := bs.length }
  let held := conds.any (fun c => k.writePending s.mod.timeNs s.cur.core s.self.name s.hd.serial c.1 c.2) ||
    k.storeHeld s.cur.core s.self.name s.hd.serial k.seq (if r.tagged then sp.lines else sp) ||
    s.remoteMeets s.cur.core s.self.name s.hd.serial k.seq sp
  if held then
    (s.reserveView v h r addr bs.length).bind fun s =>
      let e : OutEnt := { seq := k.seq, name := s.self.name, serial := s.hd.serial, conds := conds, at_ := s.mod.timeNs,
                          body := .localStore v.entry h r v.ctx v.slot addr bs }
      .ok (((s.modHere fun k => { k with outq := k.outq ++ [e] }).bumpSeq s.cur.core).noteCode r addr bs.length)
  else (s.storeView v h r addr bs).bind fun s => .ok (s.noteCode r addr bs.length)

/-- A group stalls on a full eviction buffer: the evictions it made stay, so that it needs fewer when it issues again, and
what else it did is undone (R55, R124, R127). -/
def State.stallFull (s t : State) : State := ((t.unreserve s.cur.core).modHere fun k => { k with ctxMap := s.here.ctxMap }).stall

/-- A store's outcome as the group's: a full buffer stalls, no cell is CELLFULL (R55, R127). -/
def State.got (s : State) (g : Got) (k : State → Res) : Res :=
  match g with
  | .ok t => k t
  | .noCell => s.fault .cellfull
  | .full t => .next (s.stallFull t)

/-! ### Message blocks (R265, R266) -/

/-- Register `n` of the current handler by number. -/
def State.regN (s : State) (n : Nat) : Word := if n < 32 then s.reg (BitVec.ofNat 5 n) else 0#64

/-- A block of five registers. -/
structure Block where
  ctl : Word
  a0 : Word
  a1 : Word
  a2 : Word
  a3 : Word
  deriving DecidableEq, Repr

def State.block (s : State) (b : Reg) : Block :=
  let r (i : Nat) : Word := s.regN (b.toNat + i)
  { ctl := r 0, a0 := r 1, a1 := r 2, a2 := r 3, a3 := r 4 }

/-- Fields of a control word (R265). -/
def cwDeadline (w : Word) : Nat := bits w.toNat 48 16
def cwJv (w : Word) : Bool := w.getLsbD 38
def cwJcn (w : Word) : BitVec 6 := w.extractLsb' 32 6
def cwPrio (w : Word) : BitVec 16 := w.extractLsb' 16 16
def cwChan (w : Word) : BitVec 2 := w.extractLsb' 6 2
def cwHidx (w : Word) : BitVec 6 := w.extractLsb' 0 6

/-- Check 3 of R266. -/
def cwReserved (w : Word) (deadlineOk joinOk : Bool) : Bool :=
  decide (bits w.toNat 39 9 ≠ 0) || decide (bits w.toNat 8 8 ≠ 0) || (!deadlineOk && decide (cwDeadline w ≠ 0)) ||
    (!joinOk && (cwJv w || cwJcn w != 0#6))

/-- The checks of R266 on the block at B: its registers, channel 0, reserved bits. -/
def State.checkBlock (s : State) (b : Reg) (deadlineOk joinOk : Bool) : Option FaultCode :=
  if ¬ b.toNat + 4 < s.hd.count then some .regbound
  else
    let w := (s.block b).ctl
    if cwChan w = 0#2 ∧ !isSteward s.cur.core then some .priv
    else if cwReserved w deadlineOk joinOk then some .bounds else none

/-- The message of a block for a destination, in a context (R268). -/
def State.msgOf (s : State) (bl : Block) (dest : Name) (ctx : CtxId) (rel : Bool) : Msg :=
  { dest := dest, hidx := cwHidx bl.ctl, chan := cwChan bl.ctl, prio := cwPrio bl.ctl,
    mflags := if rel then 0x20#8 else 0#8, ctx := ctx, a0 := bl.a0, a1 := bl.a1, a2 := bl.a2, a3 := bl.a3,
    sender := s.self.name, tenant := s.self.tenant }

/-- A message that hardware builds from a control word, to an actor (R301, R362): HWSIG set, no sender. -/
def hwMsg (dest : Name) (w : Word) (ctx : CtxId) (a0 a1 a2 a3 : Word) : Msg :=
  { dest := dest, hidx := cwHidx w, chan := cwChan w, prio := cwPrio w, mflags := 0x10#8, ctx := ctx,
    a0 := a0, a1 := a1, a2 := a2, a3 := a3, sender := 0#64, tenant := nameTenant dest }

/-- A context id that is never issued (R118). -/
def ctxBad (c : CtxId) : Bool := decide (c.toNat % 2 ^ 22 = 0) && c != 0#32

/-- A context operand of a register: its upper half zero and the id possible (R255, R257, R268). -/
def ctxOperand (v : Word) : Option CtxId :=
  let c : CtxId := v.setWidth 32
  if v.toNat < 2 ^ 32 ∧ !ctxBad c then some c else none

/-- The destination checks of R268, steps 1 and 2. -/
def State.destOk (s : State) (n : Name) : Bool :=
  !nameBad n && n != 0#64 && (nameTenant n == s.self.tenant || s.self.tenant == 0#12 || nameTenant n == 0#12)

/-- A name of another tenant, for a form that a tenant-0 actor may aim anywhere (R275, R277, R284). -/
def State.sameTenant (s : State) (n : Name) : Bool := nameTenant n == s.self.tenant || s.self.tenant == 0#12

end Sys2Proof.Machine
end

