-- ==== Sys2Proof/Machine/Waves.lean ====
section
/-! DEFINITION. Waves (05 R132, 08 R204, R205, 18 R362) and what each does where it arrives. -/

namespace Sys2Proof.Machine

open Sys2Proof

/-- Cores of the module, ordinary and steward (R1, R405). (DESIGN CHOICE, log 50.) -/
def coreCount : Nat := 65568

/-- Modules a wave or heartbeat is sent on to: those a route reaches and that are not lost (R132, R435).
(DESIGN CHOICE, log 10.) -/
def State.podModules (s : State) : List Nat :=
  (s.masks.filter fun e => e.2 != 0#24 && !s.isLost e.1 && decide (e.1 ≠ s.mod.num.toNat)).map (·.1)

/-- Place number of a memory gateway in a wave's list. -/
def gatePlace (g : Nat) : Nat := 200000 + g

/-- A wave that has met every place and, for a retire wave, whose id is cleared, is complete from this cycle on (R40, R204,
R205). -/
def Wave.stamp (w : Wave) (now : Nat) : Wave :=
  if w.met.isNone && w.todo.isEmpty && (match w.kind with | .retire _ => w.cleared | _ => true) then { w with met := some now } else w

/-- Start a wave; retire waves under way wait no longer for a module that is declared lost (R435). A core that holds only
reset state takes it at once, since it changes nothing there; the others and the gateways are listed and take it one by one.
(DESIGN CHOICE, log 1.) -/
def State.startWave (s : State) (kind : WaveKind) (steward : Option (Nat × Name × Word × Word × CtxId)) (service : Option Msg)
    (issuer : Option Nat) (awaits : List Nat := []) (origin : Option (Nat × Nat) := none) : State :=
  let gates := match kind with | .shootdown .. => (List.range 16).map gatePlace | _ => []
  let listed := (s.cores.map (·.1)).filter fun c => decide (some c ≠ issuer)
  let w : Wave := { kind := kind, steward := steward, service := service, todo := gates ++ listed, awaits := awaits, origin := origin,
                    took := coreCount - s.cores.length + (if issuer.isSome then 1 else 0) }
  let w := w.stamp s.mod.cycle
  let old := match kind with
    | .moduleLoss m => Tab.mapVals s.waves fun _ x => x.without m
    | _ => s.waves
  { s with waves := Tab.put old s.nextWave w, nextWave := s.nextWave + 1 }

/-- A retire wave sets out from a core of this module, which `issuer` names where it takes the wave itself: over the module's
tree, and through the edge gateways to the other modules (R132, R362). -/
def State.startRetire (s : State) (core : Nat) (c : CtxId) (steward : Option (Nat × Name × Word × Word × CtxId))
    (issuer : Option Nat) : State :=
  let n := s.nextWave
  let ms := s.podModules
  ms.foldl (fun s m => s.gateOut core (.retireWave m c s.mod.num.toNat n)) (s.startWave (.retire c) steward none issuer ms)

/-- The firmware of this module tells that of another, from steward 0 of die 0 (R410, R411). (DESIGN CHOICE, log 65.) -/
def State.tellModule (s : State) (m : Nat) (f : FwMsg) : State := s.gateOut 65536 (.firmware m s.mod.num.toNat f)

/-! ### Fabric keys of the pod group (R410 to R412, R435) -/

/-- The fabric keys owed to a module are told to its steward, within the session (R411). -/
def State.sendKeys (s : State) (m : Nat) : State :=
  let due := s.fw.keysDue.filter fun x => decide (x.1 = m)
  due.foldl (fun s x => match Tab.get? s.fw.tenants x.2.toNat, Tab.get? s.fabricKeys x.2.toNat with
    | some r, some key => s.tellModule m (.tenantKey x.2 key r.quota r.confidential)
    | _, _ => s) (s.modFw fun f => { f with keysDue := f.keysDue.filter fun x => decide (x.1 ≠ m) })

/-- Keys are owed to a module: an SPDM session with its steward is opened first, by the requests of R410 one after another,
where none stands (R411). (DESIGN CHOICE, log 65.) -/
def State.dial (s : State) (m : Nat) : State :=
  if s.isLost m || !s.fw.keysDue.any fun x => decide (x.1 = m) then s
  else match Tab.get? s.fw.dials m with
    | none => (s.modFw fun f => { f with dials := Tab.put f.dials m 0 }).tellModule m (.spdmReq .getVersion)
    | some n => if n = 5 then s.sendKeys m else s

/-- The fabric key of a tenant is owed to modules. -/
def State.oweKey (s : State) (t : Tenant) (ms : List Nat) : State :=
  ms.foldl State.dial (s.modFw fun f => { f with keysDue := f.keysDue ++ ms.map fun m => (m, t) })

/-- A lost module whose link is up again, and after whose loss every fabric key has been replaced here, is a module of the
group again (R412, R435). (DESIGN CHOICE, log 10.) -/
def State.settleRejoins (s : State) : State :=
  let back := (s.fw.rejoins.filter fun e => e.2.1 && e.2.2.isEmpty).map (·.1)
  back.foldl (fun s m => (({ s with lost := s.lost.filter fun x => decide (x ≠ m), heard := Tab.put s.heard m s.mod.timeNs } : State).modFw
    fun f => { f with rejoins := Tab.del f.rejoins m }).dial m) s

/-- A fabric key has been replaced, or its tenant is gone (R412). -/
def State.keyReplaced (s : State) (t : Nat) : State :=
  (s.modFw fun f => { f with rejoins := Tab.mapVals f.rejoins fun _ e => (e.1, e.2.filter fun x => decide (x ≠ t)) }).settleRejoins

/-- A fabric key is installed (R361, R411). -/
def State.putFabricKey (s : State) (t : Nat) (key : BitVec 256) : State :=
  ({ s with fabricKeys := Tab.put s.fabricKeys t key } : State).keyReplaced t

/-- The link of a lost module is up again: firmware replaces the fabric keys of the tenants whose home this module is, and
tells the group; those of others are replaced as their homes tell theirs (R412). (DESIGN CHOICE, log 10.) -/
def State.rekey (s : State) (m : Nat) : State :=
  match Tab.get? s.fw.rejoins m with
  | none => s
  | some e =>
    let s := s.modFw fun f => { f with rejoins := Tab.put f.rejoins m (true, e.2) }
    let mine := s.fw.tenants.filter fun t => decide (t.2.vf ≠ 0) && e.2.contains t.1
    (mine.foldl (fun s t => (s.draw.putFabricKey t.1 (Config.fabricKeyDraw s.freeCtr)).oweKey (BitVec.ofNat 12 t.1) (m :: s.podModules))
      s).settleRejoins

/-- A module is declared lost (R435): its bit is set; what firmware had with its steward is void, and the fabric keys that it
knew are to be replaced before it comes back (R412). -/
def State.setLost (s : State) (m : Nat) : State :=
  (({ s with lost := s.lost ++ [m] } : State).modBoot fun b => { b with spdm := Tab.del b.spdm (1024 + m) }).modFw fun f =>
    { f with suspects := Tab.del f.suspects m, probes := Tab.del f.probes m, dials := Tab.del f.dials m,
             keysDue := f.keysDue.filter (fun x => decide (x.1 ≠ m)),
             rejoins := Tab.put f.rejoins m (false, s.fabricKeys.map (·.1)) }

/-! ### A wave at its places -/

/-- A wave's place has taken it, or was asleep and is skipped. (DEDUCED, log 29.) -/
def State.waveTook (s : State) (wave place : Nat) (skipped : Bool) : State :=
  { s with waves := Tab.adjust s.waves wave fun w => Wave.stamp { w with
      todo := w.todo.filter fun p => decide (p ≠ place)
      took := if skipped then w.took else w.took + 1
      skipped := if skipped then w.skipped + 1 else w.skipped } s.mod.cycle }

/-- Count per tenant the members of a list. -/
def State.countEach (s : State) (core src : Nat) (ts : List Tenant) : State := ts.foldl (fun s t => s.count core t src) s

/-- The core takes a retire wave, in one step (R132). -/
def State.takeRetire (s : State) (core : Nat) (c : CtxId) : State :=
  let k := s.core core
  let lostEv := k.evicts.filter fun e => e.cell.ctx == c
  let isLost (m : Msg) : Bool := m.ctx == c && m.chan != 0#2
  let msgs := ((k.queue ++ k.pool).filter fun q => isLost q.msg).map (·.msg.tenant) ++
    (k.joins.filter fun j => match j.2.parked with | some m => isLost m | none => false).map (nameTenant ·.2.owner)
  let s := s.countEach core 0x065 (lostEv.map fun e => (k.actor e.cell.entry).tenant)
  let s := s.countEach core 0x066 msgs
  s.modCore core fun k =>
    let k := lostEv.foldl (fun k e => k.modActor e.cell.entry fun a => a.lowerRec 1) k
    let walkers := (k.actors.filter fun a => a.2.filterBit c && decide (a.2.recCount ≠ 0)).map (·.1)
    let map := match k.slotOf c with
      | some i => if i = 0 then k.ctxMap
        else match Tab.get? k.ctxMap i with
          | some e => if e.use = 0 then Tab.del k.ctxMap i else Tab.put k.ctxMap i { e with state := .retiring }
          | none => k.ctxMap
      | none => k.ctxMap
    { k with
      cells := k.cells.filter fun x => x.ctx != c
      evicts := k.evicts.filter fun e => e.cell.ctx != c
      recalls := k.recalls.filter fun r => r.ctx != c
      queue := (k.queue.filter fun q => !isLost q.msg).map fun q =>
        if q.msg.ctx = c ∧ q.recalled = some false then { q with recalled := none } else q
      pool := k.pool.filter fun q => !isLost q.msg
      joins := Tab.mapVals k.joins fun _ j =>
        match j.parked with
        | some m => if isLost m then { j with parked := none, fired := false, recalled := none, stalled := false }
          else if m.ctx = c ∧ j.recalled = some false then { j with recalled := none } else j
        | none => j
      walks := k.walks ++ walkers.map fun e => { entry := e, kind := .context c }
      ctxMap := map }

/-- The leaves a shoot-down names (R362): by page, or every translation of the tenant. -/
def TlbEnt.shot (e : TlbEnt) (t : Tenant) (va : Nat) (all : Bool) : Bool := e.tenant == t && (all || e.hits t va)

end Sys2Proof.Machine
end

