-- ==== Sys2Proof/Machine/System.lean ====
section
/-! DEFINITION. Control registers, fences, service requests, breakpoints and the privileged forms (chapter 18, 01
R24-R30). -/

namespace Sys2Proof.Machine

open Sys2Proof

/-! ### Control registers (R24, R353, R354) -/

/-- LAND as CRD reads it: an entry is present from the cycle after its arrival (R23, R30). -/
def Handler.land (h : Handler) (now : Nat) : Word :=
  BitVec.ofNat 64 (h.landing.foldl (fun w e =>
    w + 2 ^ (8 + e.1) + (if e.2.value.isSome && decide (e.2.at_ < now) then 2 ^ e.1 else 0)) 0)

/-- MSG (R26). -/
def Handler.msgReg (h : Handler) : Word :=
  BitVec.ofNat 64 (h.msg.prio.toNat * 65536 + h.mflags.toNat * 256 + h.msg.hidx.toNat)


/-- Queued vector, matrix, summary and CPYE operations of the handler (R29). -/
def State.flagsBusy (s : State) : Bool :=
  let mine (o : EngOp) : Bool := decide (o.serial = s.hd.serial)
  let k := s.here
  (k.vec ++ k.matq ++ k.sumq).any mine ||
    k.teasel.any (fun o => mine o && match o.body with | .copy (.cpye _) _ => true | _ => false)

/-- The word a steward's SID reads (R355). -/
def State.sid (s : State) : Word :=
  let n := s.cur.core - 65536
  BitVec.ofNat 64 (s.mod.num.toNat + n / 2 * 1024 + n % 2 * 16384)

/-- The value of a control register, none where the number names none on this core (R24, R353, R355); FLAGS and ENTR are
instructions of their own. (DESIGN CHOICE, log 23.) -/
def State.crd (s : State) (n : Nat) : Option Word :=
  let h := s.hd
  let a := s.self
  let ev := s.here.evCopy s.here.loadedCopy
  match n with
  | 0x00 => some a.name
  | 0x01 => some (a.tenant.setWidth 64)
  | 0x02 => some (h.ctx.setWidth 64)
  | 0x03 => some (h.chan.setWidth 64)
  | 0x04 => some (BitVec.ofNat 64 s.mod.cycle)
  | 0x05 => some (BitVec.ofNat 64 s.mod.timeNs)
  | 0x06 => some (h.ctl.fmta.setWidth 64)
  | 0x07 => some (h.ctl.fmtb.setWidth 64)
  | 0x08 => some (h.ctl.fmtc.setWidth 64)
  | 0x09 => some (h.ctl.scla.setWidth 64)
  | 0x0A => some (h.ctl.sclb.setWidth 64)
  | 0x0B => some (h.ctl.sparse.setWidth 64)
  | 0x0C => some (BitVec.ofNat 64 h.ctl.coinsel.toNat)
  | 0x0D => some h.ctl.seed
  | 0x0E => some (BitVec.ofNat 64 (recordAddr s.cur.rec_))
  | 0x0F => some h.msgReg
  | 0x10 => some a.mbox
  | 0x11 => some (BitVec.ofNat 64 (a.trapx || a.supv).toNat)
  | 0x12 => some (BitVec.ofNat 64 a.watch)
  | 0x14 => some (h.land (s.now s.cur.core))
  | 0x20 => some ev.vals[0]
  | 0x21 => some ev.vals[1]
  | 0x22 => some ev.vals[2]
  | 0x23 => some ev.vals[3]
  | 0x28 => some (ev.sels[0].setWidth 64)
  | 0x29 => some (ev.sels[1].setWidth 64)
  | 0x2A => some (ev.sels[2].setWidth 64)
  | 0x2B => some (ev.sels[3].setWidth 64)
  | 0x40 => some s.sid
  | 0x42 => some (BitVec.ofNat 64 s.here.wavesOpen)
  | _ => none

def execCrd (a : Reg) (n : BitVec 8) (s : State) : Res :=
  if 0x40 ≤ n.toNat ∧ !isSteward s.cur.core then s.fault .priv
  else match s.crd n.toNat with
    | none => s.fault .illegal
    | some v => s.guardRegs [a] ((s.setReg a v).done)

def execCrdFlags (a : Reg) (s : State) : Res :=
  s.guardRegs [a] (if s.flagsBusy then .next s.stall else ((s.setReg a (s.hd.flags.setWidth 64)).done))

def execCrdEntr (a : Reg) (s : State) : Res :=
  s.guardPriv (s.guardRegs [a] ((s.draw.setReg a (Config.entropy s.freeCtr)).done))

/-- Sources that a selector may name (R452, R453). -/
def evSource (n : Nat) : Bool :=
  decide (n ≤ 0x006) || (decide (0x010 ≤ n) && decide (n ≤ 0x019)) || (decide (0x020 ≤ n) && decide (n ≤ 0x02E)) ||
    (decide (0x030 ≤ n) && decide (n ≤ 0x03C)) || (decide (0x040 ≤ n) && decide (n ≤ 0x04C)) ||
    (decide (0x050 ≤ n) && decide (n ≤ 0x056)) || (decide (0x060 ≤ n) && decide (n ≤ 0x067))

/-- Width of the writable field of a handler- or core-scope register (R354); none where the number is not writable. -/
def cwrWidth : Nat → Option Nat
  | 0x06 => some 4
  | 0x07 => some 4
  | 0x08 => some 4
  | 0x09 => some 32
  | 0x0A => some 32
  | 0x0B => some 32
  | 0x0C => some 1
  | 0x0D => some 64
  | 0x20 => some 64
  | 0x21 => some 64
  | 0x22 => some 64
  | 0x23 => some 64
  | 0x28 => some 10
  | 0x29 => some 10
  | 0x2A => some 10
  | 0x2B => some 10
  | _ => none

/-- The handler-scope registers take a value (R24). -/
def Ctl.write (c : Ctl) (n : Nat) (v : Word) : Ctl :=
  match n with
  | 0x06 => { c with fmta := v.setWidth 4 }
  | 0x07 => { c with fmtb := v.setWidth 4 }
  | 0x08 => { c with fmtc := v.setWidth 4 }
  | 0x09 => { c with scla := v.setWidth 32 }
  | 0x0A => { c with sclb := v.setWidth 32 }
  | 0x0B => { c with sparse := v.setWidth 32 }
  | 0x0C => { c with coinsel := v.getLsbD 0 }
  | 0x0D => { c with seed := v }
  | _ => c

/-- The event counters and selectors take a value (R452). The events of the cycle are added to a counter's new value, and
count under the selector that it began with (R456). -/
def EvCopy.write (e : EvCopy) (n : Nat) (v : Word) : EvCopy :=
  if n < 0x28 then { e with vals := e.vals.setIfInBounds (n - 0x20) v }
  else
    let i := n - 0x28
    { e with sels := e.sels.setIfInBounds i (v.setWidth 10)
             old := if (Tab.get? e.old i).isSome then e.old else Tab.put e.old i (e.sels.getD i 0#10) }

/-- A write of an event counter or selector, in the copy that the core has loaded (R454). -/
def State.writeEvent (s : State) (n : Nat) (v : Word) : State :=
  s.modHere fun k => { k with evCopies := Tab.put k.evCopies k.loadedCopy ((k.evCopy k.loadedCopy).write n v) }

def execCwr (n : BitVec 8) (b : Reg) (s : State) : Res :=
  if 0x40 ≤ n.toNat then (if isSteward s.cur.core then s.fault .illegal else s.fault .priv)
  else match cwrWidth n.toNat with
    | none => s.fault .illegal
    | some w =>
      s.guardRegs [b]
        (let v := s.reg b
         if 2 ^ w ≤ v.toNat then s.fault .illegal
         else if n.toNat < 0x20 then (s.modHd fun h => { h with ctl := h.ctl.write n.toNat v, dirtyCtl := true }).done
         else if 0x28 ≤ n.toNat ∧ !evSource v.toNat then s.fault .illegal
         else (s.writeEvent n.toNat v).done)

/-- MBOX is written at the handler's own DONE (R27). -/
def execCwrMbox (b : Reg) (s : State) : Res :=
  s.guardRegs [b]
    (let v := s.reg b
     if bits v.toNat 20 44 ≠ 0 ∨ bits v.toNat 2 2 ≠ 0 then s.fault .illegal
     else if bits v.toNat 4 4 < 2 ∨ 12 < bits v.toNat 4 4 then s.fault .bounds
     else (s.modHd fun h => { h with mboxPending := some v, dirtyCtl := true }).done)

/-- TRAPX takes a value; a supervisor's stays (R74, R278). -/
def State.setTrapx (s : State) (v : Bool) : State := s.modSelf fun a => if a.supv then a else { a with trapx := v }

/-- WATCH takes a value and restarts the watchdog (R281). -/
def State.setWatch (s : State) (p : Nat) : State := s.modSelf fun a => { a with watch := p, watchLast := s.mod.timeNs }

def execCwrTrapx (b : Reg) (s : State) : Res :=
  s.guardRegs [b] (if 2 ≤ (s.reg b).toNat then s.fault .illegal else (s.setTrapx ((s.reg b).getLsbD 0)).done)

def execCwrWatch (b : Reg) (s : State) : Res :=
  s.guardRegs [b] (if 2 ^ 32 ≤ (s.reg b).toNat then s.fault .illegal else (s.setWatch (s.reg b).toNat).done)

def execCwrFlags (b : Reg) (s : State) : Res :=
  s.guardRegs [b]
    (if 64 ≤ (s.reg b).toNat then s.fault .illegal
     else if s.flagsBusy then .next s.stall
     else (s.modHd fun h => { h with flags := (s.reg b).setWidth 6, dirtyCtl := true }).done)

/-! ### Fences (R196, R356) -/

/-- The fence divides the handler's program: what follows waits for what stands before it (R196). -/
def State.fence (s : State) (sc : Scope) : State :=
  let k := s.here
  (s.modHd fun h => { h with fences := h.fences ++ [(sc, k.seq)] }).flushEndpoint s.cur.core

def execFence (sc : Scope) (s : State) : Res := (s.fence sc).done

/-- TFENCE orders page-table writes before the walks of later copies, and nothing else (R205, R356): a later copy of the handler
with an end in HBM moves no line before the earlier writes. -/
def execTfence (sc : Scope) (s : State) : Res :=
  let k := s.here
  (s.modHd fun h => { h with tfences := h.tfences ++ [(sc, k.seq)] }).done

def execNop (s : State) : Res := s.done

/-! ### SYSREQ and BRK (R357, R358) -/

/-- A reply wait for a peer: SELF's entry expires `us` microseconds on; with none free the message goes without (R269). -/
def State.openWait (s : State) (peer : Name) (us : Nat) : State :=
  if us = 0 then s
  else match Tab.lowestFree s.here.waits 64 with
    | some i =>
      let e : ReplyWait := { owner := s.hd.entry, peer := peer, expiry := s.mod.timeNs + 1000 * us, order := s.here.seq }
      s.modHere fun k => { k with waits := Tab.put k.waits i e }
    | none => s.countHere 0x03A

/-- (DEDUCED, log 42.) -/
def execSysreq (b : Reg) (ord : MemOrd) (s : State) : Res :=
  match s.checkBlock b true false with
  | some c => s.fault c
  | none =>
    let svc := s.here.cfg.service
    if svc = 0#64 then ((s.countHere 0x037).openWait svc (cwDeadline (s.block b).ctl)).done
    else if s.sendBlocked then .next s.stall
    else
      let bl := s.block b
      let m := s.msgOf bl svc s.hd.ctx (relOf ord).isSome
      (((s.sendPacket (.msg m) (relOf ord) (s.placeOf svc)).openWait svc (cwDeadline bl.ctl))).done

def execBrk (n : BitVec 6) (s : State) : Res :=
  let dbg := s.here.cfg.dbg
  if dbg.getLsbD 12 ∧ dbg.setWidth 12 = s.self.tenant then
    let svc := s.here.cfg.service
    let s := s.retire
    let pc := s.hd.pc
    let m : Msg := { dest := svc, hidx := 3#6, chan := 1#2, prio := 0#16, mflags := 0x10#8, ctx := 0#32, a0 := s.self.name,
                     a1 := BitVec.ofNat 64 pc, a2 := n.setWidth 64, a3 := 0#64, sender := 0#64, tenant := s.self.tenant }
    let s := s.preempt s.cur.core s.cur.rec_ (.request true)
    .next (if svc = 0#64 then s.countHere 0x037 else s.transmit s.cur.core (.msg m) true)
  else (s.countHere 0x03C).done

/-! ### Steward access (R359) -/

/-- Words of a table, none where TBL names none; whether it may be written (R359, R413, R417, R419, R430). -/
def tableWords? : Nat → Option (Nat × Bool)
  | 0x01 => some (256, false)
  | 0x02 => some (4096, false)
  | 0x03 => some (768, false)
  | 0x04 => some (768, false)
  | 0x05 => some (192, false)
  | 0x06 => some (256, false)
  | 0x07 => some (8, true)
  | 0x08 => some (6, true)
  | 0x09 => some (8194, true)
  | 0x0A => some (131072, true)
  | 0x0B => some (262144, true)
  | 0x0C => some (65536, true)
  | _ => none

/-- A system address passes the checks of R359. (DEDUCED, log 39.) -/
def State.sysAddrOk (s : State) (v : Word) (write : Bool) : Bool :=
  decide (bits v.toNat 32 6 = 0) && decide (bits v.toNat 54 10 = s.mod.num.toNat) &&
    match tableWords? (bits v.toNat 24 8) with
    | none => false
    | some (n, rw) => decide (bits v.toNat 0 24 < n) && (rw || !write)

/-- Landing entries for a value and, with pd other than p0, for a predicate (R292): BOUNDS where too few are free. -/
def Handler.allocPair (h : Handler) (reg : Option Reg) (p : Pred) (acq : Option Scope) :
    Option (Option Nat × Option Nat × Handler) :=
  let first : Option (Option Nat × Handler) :=
    match reg with
    | some r => (h.allocLand { isPred := false, reg := r, acq := acq }).map fun x => (some x.1, x.2)
    | none => some (none, h)
  match first with
  | none => none
  | some (i, h) =>
    if p = 0#3 then some (i, none, h)
    else (h.allocLand { isPred := true, reg := p.setWidth 5 }).map fun x => (i, some x.1, x.2)

/-- A remote operation of the current handler whose answer lands (R292): it takes its landing entries, or BOUNDS. -/
def State.landing (s : State) (reg : Option Reg) (p : Pred) (acq : Option Scope) (k : Option Nat → Option Nat → State → Res) :
    Res :=
  match s.hd.allocPair reg p acq with
  | none => s.fault .bounds
  | some (i, j, h) => k i j (s.setHd h)

def State.stewardAccess (s : State) (addr : Word) (write : Option Word) (reg : Option Reg) (p : Pred) : Res :=
  if !s.sysAddrOk addr write.isSome then s.fault .bounds
  else if s.sendBlocked then .next s.stall
  else s.landing reg p none fun i j s =>
    let core := epCore (addr.toNat / 2 ^ 38)
    let r : Remote := { seq := 0, name := s.self.name, serial := s.hd.serial, place := some core, module := s.mod.num.toNat,
                        write := false, read := false, use := .land s.cur.rec_ s.hd.serial i j }
    let acc : StewardAccess := { target := s.gcore core, tbl := BitVec.ofNat 8 (bits addr.toNat 24 8),
                                 idx := BitVec.ofNat 24 addr.toNat, write := write, core := s.gcore s.cur.core,
                                 rid := s.here.nextId }
    (s.sendRemote r none (.steward acc)).done

def execStrd (p : Pred) (a b : Reg) (s : State) : Res :=
  s.guardPriv (s.guardRegs [a, b] (s.stewardAccess (s.reg b) none (some a) p))

def execStwr (p : Pred) (b c : Reg) (s : State) : Res :=
  s.guardPriv (s.guardRegs [b, c] (s.stewardAccess (s.reg b) (some (s.reg c)) none p))

/-! ### Keys, waves, pre-emption requests (R361-R363) -/

/-- The answer of an instruction of this core that lands only pd. -/
def State.landPred (s : State) (p : Pred) (v : Bool) (k : State → State) : Res :=
  s.landing none p none fun _ j s =>
    let s := k s
    (match j with
     | some j => s.result s.cur.core s.cur.rec_ s.hd.serial j (BitVec.ofNat 64 v.toNat)
     | none => s).done

def execKeyset (p : Pred) (b : Reg) (s : State) : Res :=
  s.guardPriv (s.guardRegs [b]
    (let addr := s.reg b
     match s.checkLocal s.cur.core s.hd.entry addr.toNat 128 .rw 64 with
     | .error c => s.fault c
     | .ok (h, r) =>
       if s.lockedAt addr.toNat 128 || s.readHeld addr.toNat 128 then .next s.stall else
       let bs := s.localRead s.hdView h r addr.toNat 128
       let t := field bs 0 2
       let use := field bs 2 1
       if 4096 ≤ t ∨ 1 < use ∨ field bs 3 61 ≠ 0 ∨ (use = 1 ∧ field bs 96 32 ≠ 0) then s.fault .bounds
       else match s.localStore s.hdView h r (addr.toNat + 64) (List.replicate 64 0#8) none with
         | .noCell => s.fault .cellfull
         | .full t => .next (s.stallFull t)
         | .ok s' =>
           if s.hd.landing.length + (if p = 0#3 then 0 else 1) > 8 then s.fault .bounds
           else s'.landPred p true fun s =>
             if use = 0 then { s with hbmKeys := Tab.put s.hbmKeys t (BitVec.ofNat 512 (field bs 64 64)) }
             else s.putFabricKey t (BitVec.ofNat 256 (field bs 64 32))))

def execKeydel (p : Pred) (b : Reg) (s : State) : Res :=
  s.guardPriv (s.guardRegs [b]
    (let v := s.reg b
     let t := bits v.toNat 0 12
     if 8192 ≤ v.toNat then s.fault .bounds
     else if v.getLsbD 12 then
       s.landPred p (Tab.get? s.fabricKeys t).isSome fun s => { s with fabricKeys := Tab.del s.fabricKeys t }
     else s.landPred p (Tab.get? s.hbmKeys t).isSome fun s => { s with hbmKeys := Tab.del s.hbmKeys t }))

/-- The control word of a WAVE passes R266 step 3, without deadline and join reference (R362). -/
def waveWordOk (w : Word) : Bool := !cwReserved w false false

/-- A steward starts a wave (R362): four in flight at most, a fifth waits. `go` starts it, told whom it answers. -/
def State.stewardWave (s : State) (ok : Bool) (b c : Reg) (go : Option (Nat × Name × Word × Word × CtxId) → State → State) : Res :=
  if !(ok && waveWordOk (s.reg c)) then s.fault .bounds
  else if 4 ≤ s.here.wavesOpen then .next s.stall
  else (go (some (s.cur.core, s.self.name, s.reg b, s.reg c, s.hd.ctx)) (s.modHere fun k => { k with wavesOpen := k.wavesOpen + 1 })).done

def execWaveShootdown (b c : Reg) (s : State) : Res :=
  s.guardPriv (s.guardRegs [b, c]
    (let v := (s.reg b).toNat
     let all := bits v 15 1 = 1
     s.stewardWave (decide (bits v 60 4 = 0) && decide (bits v 0 15 = 0) && (!decide all || decide (bits v 16 32 = 0))) b c fun w s =>
       s.startWave (.shootdown (BitVec.ofNat 12 (bits v 48 12)) (bits v 16 32 * 65536) (decide all)) w none none))

def execWaveRetire (b c : Reg) (s : State) : Res :=
  s.guardPriv (s.guardRegs [b, c]
    (let v := s.reg b
     s.stewardWave (match ctxOperand v with | some x => x != 0#32 | none => false) b c fun w s =>
       s.startRetire s.cur.core (v.setWidth 32) w none))

def execWaveModuleLoss (b c : Reg) (s : State) : Res :=
  s.guardPriv (s.guardRegs [b, c]
    (let v := (s.reg b).toNat
     s.stewardWave (decide (v < 1024) && decide (v ≠ s.mod.num.toNat)) b c fun w s => s.startWave (.moduleLoss v) w none none))

/-- A request of PRMT to the core of an actor (R363). -/
def State.prmt (s : State) (b : Reg) (op : BitVec 2) : Res :=
  s.guardPriv (s.guardRegs [b]
    (let n := s.reg b
     if nameBad n || n == 0#64 || !s.isLocal n then s.fault .bounds
     else (s.emit (.prmt n op)).done))

def execPrmtPreempt (b : Reg) (s : State) : Res := s.prmt b 0#2
def execPrmtHold (b : Reg) (s : State) : Res := s.prmt b 1#2
def execPrmtRelease (b : Reg) (s : State) : Res := s.prmt b 2#2

end Sys2Proof.Machine
end

