-- ==== Sys2Proof/Machine/Mailbox.lean ====
section
/-! DEFINITION. Messages at their receiver: storage, admission, ordered mailboxes, the pool deque, join counters (02
R39-R44, R56, R58), and the reply waits an arriving REPLY frees (13 R269). -/

namespace Sys2Proof.Machine

open Sys2Proof

/-! ### Storage (R39, R40) -/

def Core.chipFree (k : Core) : Bool := decide (countPlace k.queue .chip < 256)

/-- Where an arriving message of a mailbox is stored, none where neither storage is free; a ch0 message takes the reserve
instead (R39, R40). -/
def Core.placeFor (k : Core) (chan : BitVec 2) : Option Place :=
  if k.chipFree then some .chip
  else if chan = 0#2 then some .reserve
  else if k.spillFree then some .spill else none

/-! ### Mailboxes (R27, R41-R43) -/

/-- `a` ranks before `b` in an ordered mailbox, `a` being the older (R43). -/
def rankBefore (now : Nat) (a b : QMsg) : Bool :=
  let ca := effChannel a.msg.chan.toNat a.age now
  let cb := effChannel b.msg.chan.toNat b.age now
  decide (ca < cb) || (decide (ca = cb) && decide (b.msg.prio.toNat ≤ a.msg.prio.toNat))

/-- Place in the queue of the entry of an actor that ranks last, or first, among its ch1-ch3 messages (R43). -/
def rankLast (now entry : Nat) : List (Nat × QMsg) → Option (Nat × QMsg)
  | [] => none
  | x :: t =>
    match rankLast now entry t with
    | none => if x.2.entry = entry ∧ x.2.msg.chan ≠ 0#2 then some x else none
    | some y => if x.2.entry = entry ∧ x.2.msg.chan ≠ 0#2 ∧ !rankBefore now x.2 y.2 then some x else some y

def rankFirst (now entry : Nat) : List (Nat × QMsg) → Option (Nat × QMsg)
  | [] => none
  | x :: t =>
    match rankFirst now entry t with
    | none => if x.2.entry = entry ∧ x.2.msg.chan ≠ 0#2 then some x else none
    | some y => if x.2.entry = entry ∧ x.2.msg.chan ≠ 0#2 ∧ rankBefore now x.2 y.2 then some x else some y

def indexed {α : Type} (l : List α) : List (Nat × α) := l.mapIdx fun i x => (i, x)

/-- Discard the last-ranking entry of an ordered mailbox (R43). -/
def State.dropLast (s : State) (core entry : Nat) : State :=
  let k := s.core core
  match rankLast k.dispCount entry (indexed k.queue) with
  | none => s
  | some (i, q) => (s.modCore core fun k => { k with queue := dropAt k.queue i }).count core q.msg.tenant 0x032

/-- Enter a message in the queue. -/
def State.push (s : State) (core entry : Nat) (m : Msg) (p : Place) : State :=
  s.modCore core fun k => { k with
    queue := k.queue ++ [{ entry := entry, msg := m, place := p, age := k.dispCount, ord := k.arrivals }], arrivals := k.arrivals + 1 }

/-- An arrival enters the order of an ordered mailbox while no storage is free: it takes the place of the entry that ranks
last, or is that entry (R41, R43). -/
def State.displace (s : State) (core entry : Nat) (m : Msg) : State :=
  let k := s.core core
  let new : QMsg := { entry := entry, msg := m, place := .spill, age := k.dispCount, ord := k.arrivals }
  match rankLast k.dispCount entry (indexed (k.queue ++ [new])) with
  | none => s
  | some (i, q) =>
    let queue := dropAt (k.queue ++ [{ new with place := q.place }]) i
    ((s.modCore core fun k => { k with queue := queue, arrivals := k.arrivals + 1 }).count core q.msg.tenant 0x032).count core m.tenant
      0x033

/-- A message reaches a full FIFO mailbox (R42). `storage` tells which of the two counters takes it: STORE_FULL whenever no
entry is free, also where N has reached D (R41). (DESIGN CHOICE, log 56.) -/
def State.overflow (s : State) (core entry : Nat) (m : Msg) (storage : Bool) : State :=
  if mboxDrop (s.actor core entry).mbox then s.count core m.tenant (if storage then 0x033 else 0x031)
  else (s.count core m.tenant (if storage then 0x033 else 0x030)).enterExiting core entry .unreachable 0#8 0#64 none

/-- Admission of a message to the mailbox of a LIVE actor that is no pool actor (R40-R43). -/
def State.admitMsg (s : State) (core entry : Nat) (m : Msg) : State :=
  let k := s.core core
  let a := k.actor entry
  match k.placeFor m.chan with
  | some p =>
    if m.chan = 0#2 ∨ k.queued entry < mboxDepth a.mbox then s.push core entry m p
    else if mboxOrdered a.mbox then (s.push core entry m p).dropLast core entry
    else s.overflow core entry m false
  | none =>
    if mboxOrdered a.mbox then s.displace core entry m
    else s.overflow core entry m true

/-! ### Arrival (R10, R66, R118, R269) -/

/-- The owner's oldest reply wait on a peer (R269). -/
def oldestWait (owner : Nat) (peer : Name) : Tab ReplyWait → Option (Nat × ReplyWait)
  | [] => none
  | x :: t =>
    match oldestWait owner peer t with
    | none => if x.2.owner = owner ∧ x.2.peer = peer then some x else none
    | some y => if x.2.owner = owner ∧ x.2.peer = peer ∧ x.2.order ≤ y.2.order then some x else some y

/-- A REPLY frees the owner's oldest entry on its sender (R269). -/
def State.replyMatch (s : State) (core entry : Nat) (m : Msg) : State :=
  if m.isReply then
    match oldestWait entry m.sender (s.core core).waits with
    | some (i, _) => s.modCore core fun k => { k with waits := Tab.del k.waits i }
    | none => s
  else s

/-- A message to a pool actor enters the pool deque; one on ch0 is stored as every ch0 message is, and never refused (R40,
R56). (DEDUCED, log 15.) -/
def State.toPool (s : State) (core : Nat) (m : Msg) : Bool := (s.actor core (nameSlot m.dest)).pool && m.chan != 0#2

/-- An actor that died in this very cycle of a cause that ranks behind a full mailbox meets a message that would have overflowed
it (R42, R66). -/
def State.lateOverflow (s : State) (core : Nat) (m : Msg) : Bool :=
  let a := s.actor core (nameSlot m.dest)
  a.name == m.dest && a.wasFull && !a.pool && m.chan != 0#2 && s.outranks core (nameSlot m.dest) .unreachable

/-- A core takes no packet while it sleeps (R134). -/
def State.awake (s : State) (core : Nat) : Bool := !(s.core core).asleep && !(s.core core).waking

/-- A secondary takes the copy of a message; one for a core that sleeps, or that has earlier copies waiting, waits at its router
(R87, R134). -/
def State.copyTo (s : State) (core entry : Nat) (m : Msg) : State :=
  if s.awake core && !s.net.any (fun p => match p with | .copy c e _ => decide (c = core) && decide (e = entry) | _ => false) then
    (s.replyMatch core entry m).admitMsg core entry m
  else s.emit (.copy core entry m)

/-- A message reaches its receiver's core: it is admitted, refused or discarded, and a replicated primary's router copies it
to the secondary (R41, R56, R66, R87, R118). (DESIGN CHOICE, log 16.) -/
def State.arrive (s : State) (core : Nat) (m : Msg) : State :=
  let e := nameSlot m.dest
  if ctxBad m.ctx then s.count core m.tenant 0x060
  else if s.lateOverflow core m then (s.count core m.tenant 0x030).enterExiting core e .unreachable 0#8 0#64 none
  else if !s.alive core m.dest then s.count core m.tenant 0x037
  else
    let s := s.replyMatch core e m
    let a := s.actor core e
    if s.toPool core m then s.poolPush core e m false
    else
      let s := s.admitMsg core e m
      match a.role with
      | .primary c e' => if (s.actor c e').state = .live then s.copyTo c e' m else s
      | _ => s

/-- Room for a message built from a control word: one on ch0 takes no reserve entry (R40). -/
def Core.builtRoom (k : Core) (w : Word) : Bool := cwChan w != 0#2 || k.chipFree || k.spillFree

/-- A message built from a control word arrives at the core that built it: on ch0 it takes a spill entry where no on-chip
entry is free (R38, R40). -/
def State.arriveBuilt (s : State) (core : Nat) (m : Msg) : State :=
  let e := nameSlot m.dest
  if m.chan = 0#2 ∧ !(s.core core).chipFree ∧ !ctxBad m.ctx ∧ s.alive core m.dest then s.push core e m .spill
  else s.arrive core m

/-- A timer's message arrives; a secondary's comes to it as the copy of its primary's (R87, R279). (DEDUCED, log 24.) -/
def State.timerMsg (s : State) (core entry : Nat) (m : Msg) : State :=
  if (s.actor core entry).isShadow m.dest then s else s.arrive core m

/-- The last microsecond tick of TIME (R269, R279, R281). -/
def State.tickNs (s : State) : Nat := s.mod.timeNs / 1000 * 1000

/-! ### Join counters (R58) -/

/-- An ARMED counter whose count has reached its target fires: its message is a candidate of age `now`, the next in the order of
arrivals (R58). -/
def JoinCtr.fire (j : JoinCtr) (now ord : Nat) : JoinCtr :=
  if j.parked.isSome ∧ !j.fired ∧ j.target ≤ j.count then
    { j with fired := true, count := j.count - j.target, age := now, ord := ord }
  else j

/-- An advance by `n` reaches a counter (R58, R284): stray where it is not the owner's. -/
def State.advanceJoin (s : State) (core : Nat) (counter : Nat) (owner : Name) (n : Nat) : State :=
  let k := s.core core
  match Tab.get? k.joins counter with
  | some j =>
    if j.owner = owner then
      s.modCore core fun k => { k with
        joins := Tab.put k.joins counter (({ j with count := satAdd 0xFFFFFFFF j.count n }).fire k.dispCount k.arrivals)
        arrivals := k.arrivals + 1 }
    else s.count core (nameTenant owner) 0x036
  | none => s.count core (nameTenant owner) 0x036

/-- The counter is OWNED or ARMED by an actor, by name. (DEDUCED, log 47.) -/
def Core.joinOf (k : Core) (counter : Nat) (owner : Name) : Bool :=
  match Tab.get? k.joins counter with
  | some j => j.owner == owner && !j.fired
  | none => false

/-- A mailbox write takes effect at DONE (R27): excess messages, the newest first, meet the new configuration. -/
def State.trimMailbox (s : State) (core entry : Nat) : Nat → State
  | 0 => s
  | n + 1 =>
    let k := s.core core
    let a := k.actor entry
    if a.state ≠ .live ∨ k.queued entry ≤ mboxDepth a.mbox then s
    else if mboxOrdered a.mbox then (s.dropLast core entry).trimMailbox core entry n
    else
      match (indexed k.queue).reverse.find? fun x => decide (x.2.entry = entry) && x.2.msg.chan != 0#2 with
      | none => s
      | some (i, q) =>
        ((s.modCore core fun k => { k with queue := dropAt k.queue i }).overflow core entry q.msg false).trimMailbox core entry n

/-- What a handler that ends wrote to MBOX, if it wrote it, is its actor's configuration (R27). -/
def State.applyMbox (s : State) (core entry : Nat) : Option Word → State
  | none => s
  | some w => (s.modActor core entry fun a => { a with mbox := w }).trimMailbox core entry (s.core core).queue.length

end Sys2Proof.Machine
end

