-- ==== Sys2Proof/Machine/Actors.lean ====
section
/-! DEFINITION. Actor and message instructions (chapter 13). -/

namespace Sys2Proof.Machine

open Sys2Proof

/-! ### SEND, REPLY, SENDP (R267-R271) -/

/-- The context a send carries: the one of C, or CTX (R268). -/
def State.sendCtx (s : State) (x : Option Reg) : Option CtxId :=
  match x with
  | none => some s.hd.ctx
  | some c => ctxOperand (s.reg c)

/-- A message of the current handler goes out, and opens its reply wait (R268, R269). -/
def State.sendMsg (s : State) (m : Msg) (rel : Option Scope) (deadline : Nat) : Res :=
  if s.sendBlocked then .next s.stall
  else ((s.sendPacket (.msg m) rel (s.placeOf m.dest)).openWait m.dest deadline).done

def execSend (a b : Reg) (ctx : Option Reg) (ord : MemOrd) (s : State) : Res :=
  s.guardRegs (a :: b :: ctx.toList)
    (match s.checkBlock b true false with
     | some c => s.fault c
     | none =>
       let n := s.reg a
       if !s.destOk n then s.fault .bounds
       else match s.sendCtx ctx with
         | none => s.fault .bounds
         | some x =>
           let bl := s.block b
           s.sendMsg (s.msgOf bl n x (relOf ord).isSome) (relOf ord) (cwDeadline bl.ctl))

def execReply (b : Reg) (ctx : Option Reg) (ord : MemOrd) (s : State) : Res :=
  s.guardRegs (b :: ctx.toList)
    (match s.checkBlock b false false with
     | some c => s.fault c
     | none =>
       let n := s.hd.replyName
       let tenantOk := n == 0#64 || nameTenant n == s.self.tenant || s.self.tenant == 0#12 || nameTenant n == 0#12
       if !tenantOk then s.fault .bounds
       else match s.sendCtx ctx with
         | none => s.fault .bounds
         | some x =>
           if n = 0#64 then (s.countHere 0x039).done
           else
             let bl := s.block b
             s.sendMsg { s.msgOf bl n x (relOf ord).isSome with isReply := true } (relOf ord) 0)

def execSendp (b : Reg) (ord : MemOrd) (s : State) : Res :=
  s.guardRegs [b]
    (match s.fetchOperand (s.reg b) 48 16 with
     | .fault c => s.fault c
     | .wait => .next s.stall
     | .bytes bs =>
       let hi := field bs 8 8
       let dest := BitVec.ofNat 64 (field bs 0 8)
       let chan := BitVec.ofNat 2 (bits hi 6 2)
       if bits hi 8 8 ≠ 0 then s.fault .bounds
       else if chan = 0#2 ∧ !isSteward s.cur.core then s.fault .priv
       else if !s.destOk dest then s.fault .bounds
       else
         let ctx : CtxId := BitVec.ofNat 32 (bits hi 32 32)
         let m : Msg := { dest := dest, hidx := BitVec.ofNat 6 hi, chan := chan, prio := BitVec.ofNat 16 (bits hi 16 16),
                          mflags := if (relOf ord).isSome then 0x20#8 else 0#8, ctx := ctx,
                          a0 := BitVec.ofNat 64 (field bs 16 8), a1 := BitVec.ofNat 64 (field bs 24 8),
                          a2 := BitVec.ofNat 64 (field bs 32 8), a3 := BitVec.ofNat 64 (field bs 40 8),
                          sender := s.self.name, tenant := s.self.tenant }
         if s.sendBlocked then .next s.stall else (s.touchOperand (s.reg b) 48).sendMsg m (relOf ord) 0)

def execRdln (p : Pred) (b : Reg) (s : State) : Res :=
  s.guardRegs [b]
    (match oldestWait s.hd.entry (s.reg b) s.here.waits with
     | some (i, _) => ((s.modHere fun k => { k with waits := Tab.del k.waits i }).setPred p true).done
     | none => (s.setPred p false).done)

/-! ### SPAWN, KILL, EXIT (R273-R276) -/

/-- A kill, link or monitor request of an actor; a secondary sends nothing (R87). (DEDUCED, log 24.) -/
def State.sendControl (s : State) (p : Packet) : State :=
  match s.self.role with
  | .secondary _ _ => s
  | _ => s.transmit s.cur.core p true

/-- The link-table entry a new link takes (R70): the lowest free one. (DESIGN CHOICE, log 74.) -/
def Core.linkFree (k : Core) : Option Nat := Tab.lowestFree k.links 256
/-- The monitor-table entry a new monitor takes (R70): the lowest free one. (DESIGN CHOICE, log 74.) -/
def Core.monFree (k : Core) : Option Nat := Tab.lowestFree k.monitors 256

def execSpawn (a b c : Reg) (s : State) : Res :=
  s.guardRegs [a, b, c]
    (match s.fetchOperand (s.reg b) 32 32 with
     | .fault f => s.fault f
     | .wait => .next s.stall
     | .bytes bs =>
       let image := field bs 8 8
       let place := field bs 16 8
       let dom := field bs 28 1
       let fl := field bs 29 1
       let pool := decide (bits fl 2 1 = 1)
       let link := decide (bits fl 3 1 = 1)
       if field bs 0 8 ≠ 0 ∨ 2 ^ 48 ≤ image ∨ 2 ^ 26 ≤ place ∨ field bs 30 2 ≠ 0 ∨ 16 ≤ fl ∨ 3 ≤ dom ∨
           (dom ≠ 0 ∧ !pool) ∨ (pool ∧ bits fl 0 2 ≠ 0) ∨ (link ∧ s.here.linkFree.isNone) then s.fault .bounds
       else if s.sendBlocked then .next s.stall
       else s.landing (some a) 0#3 none fun i _ s =>
         let id := s.here.nextId
         let li := if link then s.here.linkFree else none
         let req : SpawnReq := { fromCore := s.gcore s.cur.core, id := id, spawner := s.self.name, spawnerSup := s.self.supName,
                                 spawnerRestarts := s.self.restarts, tenant := s.self.tenant,
                                 image := BitVec.ofNat 48 image, ilen := BitVec.ofNat 32 (field bs 24 4),
                                 place := BitVec.ofNat 26 place, dom := dom, repl := decide (bits fl 0 1 = 1),
                                 supv := decide (bits fl 1 1 = 1), pool := pool, link := link, a3 := s.reg c }
         let open_ : OpenSpawn := { spawner := s.self.name, n := s.self.nextOut, rec_ := s.cur.rec_, serial := s.hd.serial,
                                    idx := i.getD 0, linkIdx := li, module := place / 65536, since := s.mod.timeNs }
         let ent : LinkEnt := { peer := 0#64, kind := .link, lslot := s.hd.entry }
         let s := s.modHere fun k => { k with
           opens := Tab.put k.opens id open_
           links := match li with | some n => Tab.put k.links n ent | none => k.links }
         (((s.touchOperand (s.reg b) 32).sendPacket (.spawn req) none (if place / 65536 = s.mod.num.toNat then some (epCore place) else none)).bumpId
           s.cur.core).done)

def execKill (a b : Reg) (s : State) : Res :=
  s.guardRegs [a, b]
    (let n := s.reg a
     if nameBad n || n == 0#64 || !s.sameTenant n || decide (256 ≤ (s.reg b).toNat) then s.fault .bounds
     else if n = s.self.name then
       match s.self.role with
       | .secondary _ _ => s.done
       | _ => .next (s.retire.enterExiting s.cur.core s.hd.entry .killed ((s.reg b).setWidth 8) 0#64 none)
     else (s.sendControl (.kill n .killed ((s.reg b).setWidth 8) s.self.name)).done)

def execExit (b : Reg) (s : State) : Res :=
  s.guardRegs [b]
    (let v := s.reg b
     let cls := v.toNat % 8
     if (cls ≠ 0 ∧ cls ≠ 5) ∨ bits v.toNat 3 5 ≠ 0 ∨ 65536 ≤ v.toNat then s.fault .bounds
     else
       let e := s.hd.entry
       .next (s.retire.enterExiting s.cur.core e (if cls = 0 then .normal else .shutdown) (v.extractLsb' 8 8) 0#64 none))

/-! ### Links and monitors (R277) -/

def execLink (b : Reg) (s : State) : Res :=
  s.guardRegs [b]
    (let n := s.reg b
     if nameBad n || n == 0#64 || n == s.self.name || !s.sameTenant n then s.fault .bounds
     else match s.here.linkFree with
       | none => s.fault .bounds
       | some i =>
         if s.here.links.any (fun e => decide (e.2.lslot = s.hd.entry) && e.2.peer == n) then s.done else
         let ent : LinkEnt := { peer := n, kind := .link, lslot := s.hd.entry }
         ((s.modHere fun k => { k with links := Tab.put k.links i ent }).sendControl
           (.linkReq false s.self.name n 0#32 s.self.supName s.self.restarts s.self.tenant)).done)

def execUnlink (b : Reg) (s : State) : Res :=
  s.guardRegs [b]
    (let n := s.reg b
     if nameBad n then s.fault .bounds
     else match s.here.links.find? fun e => decide (e.2.lslot = s.hd.entry) && e.2.peer == n with
       | none => s.done
       | some (i, _) =>
         ((s.modHere fun k => { k with links := Tab.del k.links i }).sendControl (.unlink false s.self.name n 0#32)).done)

/-- The next monitor reference, 0 skipped (R277). (DESIGN CHOICE, log 7.) -/
def nextRef (r : BitVec 32) : BitVec 32 := if r = 0xFFFFFFFF#32 then 1#32 else r + 1#32

def execMon (a b : Reg) (s : State) : Res :=
  s.guardRegs [a, b]
    (let n := s.reg b
     if nameBad n || n == 0#64 || n == s.self.name || !s.sameTenant n then s.fault .bounds
     else match s.here.monFree with
       | none => s.fault .bounds
       | some i =>
         let ref := nextRef s.here.monRef
         let ent : LinkEnt := { peer := n, ref := ref, kind := .watching, lslot := s.hd.entry }
         let s := s.modHere fun k => { k with monitors := Tab.put k.monitors i ent, monRef := ref }
         ((s.sendControl (.linkReq true s.self.name n ref s.self.supName s.self.restarts s.self.tenant)).setReg a
           (ref.setWidth 64)).done)

def execDemon (b : Reg) (s : State) : Res :=
  s.guardRegs [b]
    (let v := s.reg b
     if 2 ^ 32 ≤ v.toNat then s.fault .bounds
     else match s.here.monitors.find? fun e => decide (e.2.lslot = s.hd.entry) && decide (e.2.kind = .watching) &&
         e.2.ref == v.setWidth 32 with
       | none => s.done
       | some (i, e) =>
         ((s.modHere fun k => { k with monitors := Tab.del k.monitors i }).sendControl
           (.unlink true s.self.name e.peer e.ref)).done)

def execTrapx (a b : Reg) (s : State) : Res :=
  s.guardRegs [a, b]
    (let v := s.reg b
     if 2 ≤ v.toNat then s.fault .bounds
     else ((s.setTrapx (v.getLsbD 0)).setReg a (BitVec.ofNat 64 (s.self.trapx || s.self.supv).toNat)).done)

/-! ### Timers and the watchdog (R279-R281) -/

/-- Handle of a timer entry (R279). -/
def timerHandle (i : Nat) (t : Timer) : Word := BitVec.ofNat 64 (t.gen.toNat * 65536 + i)

def Core.timer (k : Core) (i : Nat) : Timer := (Tab.get? k.timers i).getD {}

/-- The timer entry TIMER takes (R279): the lowest one that is not armed. (DESIGN CHOICE, log 74.) -/
def Core.timerFree (k : Core) : Option Nat := (List.range 256).find? fun i => (k.timer i).due.isNone

/-- (DEDUCED, log 47.) -/
def execTimer (a b c : Reg) (s : State) : Res :=
  s.guardRegs [a, b, c]
    (match s.checkBlock b false false with
     | some f => s.fault f
     | none =>
       match s.here.timerFree with
       | none => ((s.countHere 0x03B).setReg a 0#64).done
       | some i =>
         let t := s.here.timer i
         let m := s.msgOf (s.block b) s.self.name s.hd.ctx false
         let due := (s.reg c).toNat
         if due ≤ s.mod.timeNs then
           let s := s.modHere fun k => { k with timers := Tab.put k.timers i t.freed }
           .next (((s.setReg a (timerHandle i t)).retire).timerMsg s.cur.core s.hd.entry { m with mflags := 0x01#8 })
         else
           let s := s.modHere fun k => { k with timers := Tab.put k.timers i { t with owner := s.hd.entry, due := some due, msg := m } }
           (s.setReg a (timerHandle i t)).done)

def execTcancel (p : Pred) (b : Reg) (s : State) : Res :=
  s.guardRegs [b]
    (let v := s.reg b
     let i := v.toNat % 256
     let t := s.here.timer i
     if v = timerHandle i t ∧ t.due.isSome ∧ t.owner = s.hd.entry then
       if t.due.any (fun d => decide (d ≤ s.tickNs)) then
         .next (((s.modHere fun k => { k with timers := Tab.put k.timers i t.freed }).setPred p false).retire.timerMsg s.cur.core t.owner t.msg)
       else
       ((s.modHere fun k => { k with timers := Tab.put k.timers i t.freed }).setPred p true).done
     else (s.setPred p false).done)

def execWatch (b : Reg) (s : State) : Res :=
  s.guardRegs [b]
    (if 2 ^ 32 ≤ (s.reg b).toNat then s.fault .bounds else (s.setWatch (s.reg b).toNat).done)

def execWkick (s : State) : Res := (s.modSelf fun a => { a with watchLast := s.mod.timeNs }).done

/-! ### Join counters, forks, joins (R282-R286) -/

def execJcget (a : Reg) (s : State) : Res :=
  s.guardRegs [a]
    (match Tab.lowestFree s.here.joins 64 with
     | none => (s.setReg a (BitVec.allOnes 64)).done
     | some i =>
       ((s.modHere fun k => { k with joins := Tab.put k.joins i { owner := s.self.name } }).setReg a (BitVec.ofNat 64 i)).done)

def execJcput (b : Reg) (s : State) : Res :=
  s.guardRegs [b]
    (let v := (s.reg b).toNat
     match Tab.get? s.here.joins v with
     | none => s.fault .bounds
     | some j =>
       if 64 ≤ v ∨ j.owner ≠ s.self.name then s.fault .bounds
       else (s.modHere fun k => { k with joins := Tab.del k.joins v }).done)

def execArm (a b c : Reg) (s : State) : Res :=
  s.guardRegs [a, b, c]
    (match s.checkBlock b false false with
     | some f => s.fault f
     | none =>
       let v := (s.reg a).toNat
       match Tab.get? s.here.joins v with
       | none => s.fault .bounds
       | some j =>
         if 64 ≤ v ∨ j.owner ≠ s.self.name ∨ j.parked.isSome ∨ 2 ^ 32 ≤ (s.reg c).toNat then s.fault .bounds
         else
           let m := s.msgOf (s.block b) s.self.name s.hd.ctx false
           let j := { j with parked := some m, target := (s.reg c).toNat, fired := false }
           (s.modHere fun k => { k with joins := Tab.put k.joins v (j.fire k.dispCount k.arrivals), arrivals := k.arrivals + 1 }).done)

def execDec (a b : Reg) (ord : MemOrd) (s : State) : Res :=
  s.guardRegs [a, b]
    (let n := s.reg a
     let v := s.reg b
     if nameBad n || nameTenant n != s.self.tenant || decide (2 ^ 38 ≤ v.toNat) then s.fault .bounds
     else if s.sendBlocked then .next s.stall
     else (s.sendPacket (.advance n (v.extractLsb' 32 6) (v.toNat % 2 ^ 32) s.self.name) (relOf ord) (s.placeOf n)).done)

/-- A secondary's FORK takes the same checks as any other, on its own core. (DESIGN CHOICE, log 75.) -/
def execFork (a b : Reg) (s : State) : Res :=
  s.guardRegs [a, b]
    (match s.checkBlock b false true with
     | some f => s.fault f
     | none =>
       let n := s.reg a
       let bl := s.block b
       let e := nameSlot n
       if !(s.isLocal n && decide (nameCore n = s.cur.core) && s.alive s.cur.core n && (s.actor s.cur.core e).pool &&
            nameTenant n == s.self.tenant) then s.fault .bounds
       else if cwJv bl.ctl ∧ !s.here.joinOf (cwJcn bl.ctl).toNat s.self.name then s.fault .bounds
       else if s.sendBlocked then .next s.stall
       else
         let m := s.msgOf bl n s.hd.ctx false
         let jr : JoinRef := { core := s.gcore s.cur.core, counter := cwJcn bl.ctl, owner := s.self.name }
         let m := { m with join := if cwJv bl.ctl then some jr else none }
         (s.sendHere (.fork e m)).done)

def execJoin (s : State) : Res :=
  match s.hd.join with
  | none => s.done
  | some j =>
    if s.sendBlocked then .next s.stall
    else ((s.modHd fun h => { h with join := none }).sendPacket (.advance j.owner j.counter 1 s.self.name) (some .mo)
      (s.placeOf j.owner)).done

/-! ### Supervision and queries (R287-R289) -/

/-- NCHILD of a child table, and the three fields of R79, are valid. -/
def nchildOk (bs : List Byte) : Bool := decide (1 ≤ field bs 2 1) && decide (field bs 2 1 ≤ 64)
def tableFieldsOk (bs : List Byte) : Bool := decide (field bs 0 1 ≤ 2) && decide (field bs 1 1 ≤ 16) && nchildOk bs

/-- A child table passes the checks of R287: POLICY, MAXR, NCHILD, reserved bytes. -/
def tableHeadOk (bs : List Byte) : Bool :=
  tableFieldsOk bs && decide (field bs 8 8 = 0) && decide (field bs 144 48 = 0)

/-- The table is read at once, with no wait for copies queued into it. (DESIGN CHOICE, log 76.) -/
def execSupv (b : Reg) (s : State) : Res :=
  s.guardRegs [b]
    (let v := (s.reg b).toNat
     let c := s.cur.core
     let e := s.hd.entry
     if !s.self.supv then s.fault .bounds
     else match s.checkLocal c e v 192 .rw 64 with
       | .error f => s.fault f
       | .ok (h, r) =>
         let bs := s.localRead (baseView c e) h r v 192
         let n := field bs 2 1
         if !tableHeadOk bs || !r.holds v (192 + 32 * n) || !(s.childNames c e).isEmpty then s.fault .bounds
         else (s.modSelf fun a => { a with sup := some v }).done)

/-- The start goes to Yarrow, which for a replicated supervisor also finds a NAME that is there already, so that both replicas
land the same (R87, R288). (DEDUCED, log 24.) -/
def execRstart (a b : Reg) (s : State) : Res :=
  s.guardRegs [a, b]
    (let c := s.cur.core
     let e := s.hd.entry
     match s.self.sup with
     | none => s.fault .bounds
     | some t =>
       let i := (s.reg b).toNat
       if leNat (s.peek (baseView c e) (t + 2) 1) ≤ i then s.fault .bounds
       else s.landing (some a) 0#3 none fun l _ s =>
         let name := BitVec.ofNat 64 (leNat (s.peek (baseView c e) (t + 192 + 32 * i) 8))
         let idx := l.getD 0
         if name ≠ 0#64 ∧ s.self.role = .none then (s.result c s.cur.rec_ s.hd.serial idx name).done
         else
           let st : Start := { why := .rstart s.cur.rec_ s.hd.serial idx, supEntry := e, supName := s.self.name, child := i,
                               n := s.self.nextOut }
           ((s.modHere fun k => { k with starts := k.starts ++ [st] }).modSelf Actor.countOut).done)

/-- The word SELFQ reads for an actor-table entry (R289). STATE reads 0 FREE, 1 LIVE, 2 EXITING: R12 gives the field and its
states, and no codes. (DESIGN CHOICE, log 58.) -/
def Actor.word (a : Actor) (sel : Nat) : Word :=
  match sel with
  | 0 => BitVec.ofNat 64 ((match a.state with | .free => 0 | .live => 1 | .exiting => 2) + a.supv.toNat * 32 +
      a.repl.toNat * 64 + a.pool.toNat * 128 + a.tenant.toNat * 256 + a.inc.toNat * 2 ^ 20)
  | 1 => BitVec.ofNat 64 a.htab
  | 2 => BitVec.ofNat 64 a.stack
  | _ => a.restarts.setWidth 64

def execSelfq (sel : BitVec 3) (a b : Reg) (s : State) : Res :=
  s.guardRegs [a, b]
    (if sel.toNat < 4 then (s.setReg a (s.self.word sel.toNat)).done
     else if sel = 4#3 then (s.setReg a (BitVec.ofNat 64 (s.here.queued s.hd.entry))).done
     else if sel = 5#3 then (s.setReg a (BitVec.ofNat 64 s.here.pool.length)).done
     else if sel = 6#3 then
       match Tab.get? s.here.joins (s.reg b).toNat with
       | none => s.fault .bounds
       | some j =>
         if 64 ≤ (s.reg b).toNat ∨ j.owner ≠ s.self.name then s.fault .bounds
         else (s.setReg a (BitVec.ofNat 64 j.count)).done
     else (s.setReg a (BitVec.ofNat 64 (s.here.waits.filter fun w => decide (w.2.owner = s.hd.entry)).length)).done)

end Sys2Proof.Machine
end

