-- ==== Sys2Proof/Machine/Flags.lean ====
section
/-! DEFINITION. Number formats and every flag computation (chapter 06): decoding and rounding of the formats of R136, exact
arithmetic on their values, conversions, comparisons, EXF8 blocks, and the FLAGS bits with their counters. -/

namespace Sys2Proof.Machine

open Sys2Proof

/-! ### Flag bits (R29, R157) -/

def fNV : BitVec 6 := 1#6
def fDZ : BitVec 6 := 2#6
def fOF : BitVec 6 := 4#6
def fUF : BitVec 6 := 8#6
def fNX : BitVec 6 := 16#6
def fIC : BitVec 6 := 32#6

/-- The arithmetic counters of the flag bits raised advance by one each (R157). -/
def State.countFlags (s : State) (core : Nat) (t : Tenant) (f : BitVec 6) : State :=
  (List.range 6).foldl (fun s i => if f.getLsbD i then s.count core t (0x010 + i) else s) s

/-- A scalar form raises events: FLAGS and the counters (R157, R230). -/
def State.arith (s : State) (f : BitVec 6) : State :=
  if f = 0#6 then s else (s.orFlags f).countFlags s.cur.core s.self.tenant f

/-- An engine operation raises events at its completion: in its handler's FLAGS while the handler lives, and the counters
(R158). (DEDUCED, log 47.) -/
def State.opFlags (s : State) (core : Nat) (o : EngOp) (f : BitVec 6) : State :=
  if f = 0#6 then s
  else
    let s := s.countFlags core o.tenant f
    match Tab.get? (s.core core).handlers o.rec_ with
    | some h => if h.serial = o.serial then s.modCtl core o.rec_ fun h => { h with flags := h.flags ||| f } else s
    | none => s

/-! ### Floating-point formats (R137-R139) -/

/-- A floating-point format: fraction bits, exponent of the smallest normal, width, the largest finite magnitude pattern,
whether it has infinities, and its canonical NaN. -/
structure FFmt where
  frac : Nat
  emin : Int
  width : Nat
  maxMag : Nat
  hasInf : Bool
  nan : Nat
  deriving DecidableEq, Repr

def fp64 : FFmt := { frac := 52, emin := -1022, width := 64, maxMag := 0x7FEFFFFFFFFFFFFF, hasInf := true, nan := 0x7FF8000000000000 }
def fp32 : FFmt := { frac := 23, emin := -126, width := 32, maxMag := 0x7F7FFFFF, hasInf := true, nan := 0x7FC00000 }
def fp16 : FFmt := { frac := 10, emin := -14, width := 16, maxMag := 0x7BFF, hasInf := true, nan := 0x7E00 }
def bf16 : FFmt := { frac := 7, emin := -126, width := 16, maxMag := 0x7F7F, hasInf := true, nan := 0x7FC0 }
def e4m3 : FFmt := { frac := 3, emin := -6, width := 8, maxMag := 0x7E, hasInf := false, nan := 0x7F }
def e5m2 : FFmt := { frac := 2, emin := -14, width := 8, maxMag := 0x7B, hasInf := true, nan := 0x7E }

/-- A value of a format: `fin` is (-1)^neg * m * 2^e, exactly. -/
inductive FVal where
  | nan
  | inf (neg : Bool)
  | fin (neg : Bool) (m : Nat) (e : Int)
  deriving DecidableEq, Repr

/-- The value of a bit pattern (R137, R138). -/
def FFmt.read (f : FFmt) (v : Nat) : FVal :=
  let mag := v % 2 ^ (f.width - 1)
  let neg := decide (v / 2 ^ (f.width - 1) % 2 = 1)
  if f.maxMag < mag then (if f.hasInf ∧ mag = f.maxMag + 1 then .inf neg else .nan)
  else if mag < 2 ^ f.frac then .fin neg mag (f.emin - f.frac)
  else .fin neg (2 ^ f.frac + mag % 2 ^ f.frac) (f.emin - f.frac + (mag / 2 ^ f.frac : Nat) - 1)

/-- The sign bit of a format. -/
def FFmt.sign (f : FFmt) (neg : Bool) : Nat := if neg then 2 ^ (f.width - 1) else 0

/-! ### Rounding (R146-R148) -/

/-- m * 2^e, with a rest below one unit where `sticky`, in units of 2^u: to nearest, ties to even, and whether inexact. -/
def rneAt (m : Nat) (e u : Int) (sticky : Bool) : Nat × Bool :=
  if u ≤ e then (m * 2 ^ (e - u).toNat, sticky)
  else
    let k := (u - e).toNat
    let hi := m / 2 ^ k
    let lo := m % 2 ^ k
    let half := 2 ^ (k - 1)
    let up := decide (half < lo) || (decide (lo = half) && (sticky || decide (hi % 2 = 1)))
    (hi + up.toNat, decide (lo ≠ 0) || sticky)

/-- A result with the flags it raises. -/
abbrev FRes := Nat × BitVec 6

/-- `rne_to` (R146) on the magnitude m * 2^e, exact or with a rest: rounding, tininess (R147) and overflow (R148). -/
def FFmt.round (f : FFmt) (neg : Bool) (m : Nat) (e : Int) (sticky : Bool) : FRes :=
  if m = 0 then (f.sign neg, 0#6)
  else
    let q : Int := e + (m.log2 + 1 : Nat) - (f.frac + 1 : Nat)
    let low : Int := f.emin - f.frac
    let u := max q low
    let r := rneAt m e u sticky
    let mag := (u - low).toNat * 2 ^ f.frac + r.1
    if f.maxMag < mag then (f.sign neg + (if f.hasInf then f.maxMag + 1 else f.maxMag), fOF ||| fNX)
    else
      let free := rneAt m e q sticky
      let tiny := decide (q < low) && !(decide (q + 1 = low) && decide (free.1 = 2 ^ (f.frac + 1)))
      (f.sign neg + mag, if r.2 then (if tiny then fUF ||| fNX else fNX) else 0#6)

/-- Deliver an exact value in a format; an infinity in E4M3 is 448 (R460). -/
def FFmt.deliver (f : FFmt) (v : FVal) : FRes :=
  match v with
  | .nan => (f.nan, 0#6)
  | .inf neg => if f.hasInf then (f.sign neg + f.maxMag + 1, 0#6) else (f.sign neg + f.maxMag, fOF ||| fNX)
  | .fin neg m e => f.round neg m e false

/-- Deliver a value with the flags of the event that made it. -/
def FFmt.put (f : FFmt) (x : FVal × BitVec 6) : FRes :=
  let r := f.deliver x.1
  (r.1, r.2 ||| x.2)

/-! ### Exact arithmetic (R149) -/

/-- m * 2^e as an integer number of units 2^u, u at most e. -/
def unitsAt (neg : Bool) (m : Nat) (e u : Int) : Int :=
  let n : Int := (m * 2 ^ (e - u).toNat : Nat)
  if neg then -n else n

/-- An exact value from a number of units; a zero takes the sign given. -/
def ofUnits (z : Bool) (n : Int) (u : Int) : FVal := .fin (if n = 0 then z else decide (n < 0)) n.natAbs u

def FVal.neg : FVal → FVal
  | .nan => .nan
  | .inf s => .inf (!s)
  | .fin s m e => .fin (!s) m e

def FVal.isNan : FVal → Bool
  | .nan => true
  | _ => false

/-- The exact sum; a zero sum is -0 only where both addends are negative. -/
def FVal.add : FVal → FVal → FVal × BitVec 6
  | .nan, _ => (.nan, 0#6)
  | _, .nan => (.nan, 0#6)
  | .inf a, .inf b => if a = b then (.inf a, 0#6) else (.nan, fNV)
  | .inf a, _ => (.inf a, 0#6)
  | _, .inf b => (.inf b, 0#6)
  | .fin a m e, .fin b n g =>
    let u := min e g
    (ofUnits (a && b) (unitsAt a m e u + unitsAt b n g u) u, 0#6)

/-- The exact product. -/
def FVal.mul : FVal → FVal → FVal × BitVec 6
  | .nan, _ => (.nan, 0#6)
  | _, .nan => (.nan, 0#6)
  | .inf a, .inf b => (.inf (a != b), 0#6)
  | .inf a, .fin b n _ => if n = 0 then (.nan, fNV) else (.inf (a != b), 0#6)
  | .fin a m _, .inf b => if m = 0 then (.nan, fNV) else (.inf (a != b), 0#6)
  | .fin a m e, .fin b n g => (.fin (a != b) (m * n) (e + g), 0#6)

/-- The exact a + x * y; 0 times infinity is invalid even with a NaN addend (R240). -/
def FVal.fma (a x y : FVal) : FVal × BitVec 6 :=
  let p := x.mul y
  if p.2 ≠ 0#6 then p
  else a.add p.1

/-- x / y rounded once (R149). -/
def FFmt.div (f : FFmt) (x y : FVal) : FRes :=
  match x, y with
  | .nan, _ => (f.nan, 0#6)
  | _, .nan => (f.nan, 0#6)
  | .inf _, .inf _ => (f.nan, fNV)
  | .inf a, .fin b _ _ => f.deliver (.inf (a != b))
  | .fin a _ _, .inf b => (f.sign (a != b), 0#6)
  | .fin a m e, .fin b n g =>
    if n = 0 then
      (if m = 0 then (f.nan, fNV) else f.put (.inf (a != b), fDZ))
    else
      let k := f.frac + 4 + n.log2
      let num := m * 2 ^ k
      f.round (a != b) (num / n) (e - g - k) (decide (num % n ≠ 0))

/-- Bits of an integer square root, from bit k - 1 down. -/
def isqrtFrom : Nat → Nat → Nat → Nat
  | 0, _, r => r
  | k + 1, n, r => isqrtFrom k n (if (r + 2 ^ k) * (r + 2 ^ k) ≤ n then r + 2 ^ k else r)

/-- The integer square root. -/
def isqrt (n : Nat) : Nat := isqrtFrom (n.log2 / 2 + 1) n 0

/-- The square root rounded once (R242). -/
def FFmt.sqrt (f : FFmt) (x : FVal) : FRes :=
  match x with
  | .nan => (f.nan, 0#6)
  | .inf a => if a then (f.nan, fNV) else f.deliver (.inf false)
  | .fin a m e =>
    if m = 0 then (f.sign a, 0#6)
    else if a then (f.nan, fNV)
    else
      let k := 2 * (f.frac + 4) + (e % 2).toNat
      let n := m * 2 ^ k
      let r := isqrt n
      f.round false r ((e - k) / 2) (decide (r * r ≠ n))

/-- 1 / sqrt x rounded once (R322). -/
def FFmt.rsqrt (f : FFmt) (x : FVal) : FRes :=
  match x with
  | .nan => (f.nan, 0#6)
  | .inf a => if a then (f.nan, fNV) else (0, 0#6)
  | .fin a m e =>
    if m = 0 then f.put (.inf a, fDZ)
    else if a then (f.nan, fNV)
    else
      let m' := m * 2 ^ (e % 2).toNat
      let k := f.frac + 4 + m'.log2
      let r := isqrt (2 ^ (2 * k) / m')
      f.round false r (-((e - e % 2) / 2) - k) (decide (r * r * m' ≠ 2 ^ (2 * k)))

/-! ### Comparison (R241, R242) -/

/-- x < y and x = y of values that are no NaN; the zeros are equal. -/
def FVal.lt : FVal → FVal → Bool
  | .nan, _ => false
  | _, .nan => false
  | .inf a, .inf b => a && !b
  | .inf a, .fin _ _ _ => a
  | .fin _ _ _, .inf b => !b
  | .fin a m e, .fin b n g => decide (unitsAt a m e (min e g) < unitsAt b n g (min e g))

def FVal.eqv : FVal → FVal → Bool
  | .nan, _ => false
  | _, .nan => false
  | .inf a, .inf b => a == b
  | .inf _, .fin _ _ _ => false
  | .fin _ _ _, .inf _ => false
  | .fin a m e, .fin b n g => decide (unitsAt a m e (min e g) = unitsAt b n g (min e g))

/-- Sign of a value. -/
def FVal.negative : FVal → Bool
  | .nan => false
  | .inf a => a
  | .fin a _ _ => a

def FCond.holds (c : FCond) (x y : FVal) : Bool :=
  match c with
  | .eq => x.eqv y
  | .lt => x.lt y
  | .le => x.lt y || x.eqv y
  | .un => x.isNan || y.isNan

/-- FMIN and FMAX on patterns (R242). -/
def FFmt.minMax (f : FFmt) (isMax : Bool) (x y : Nat) : Nat :=
  let a := f.read x
  let b := f.read y
  if a.isNan || b.isNan then f.nan
  else if a.eqv b then (if a.negative = isMax then y else x)
  else if a.lt b = isMax then y else x

/-! ### Integers and conversions (R140, R150) -/

/-- An integer format: width and signedness. -/
structure IFmt where
  width : Nat
  signed : Bool
  deriving DecidableEq, Repr

def IFmt.min (i : IFmt) : Int := if i.signed then -(2 ^ (i.width - 1) : Int) else 0
def IFmt.max (i : IFmt) : Int := if i.signed then (2 ^ (i.width - 1) : Int) - 1 else 2 ^ i.width - 1
/-- The integer of a pattern, and the pattern of an integer modulo 2^width. -/
def IFmt.read (i : IFmt) (v : Nat) : Int :=
  let n := v % 2 ^ i.width
  if i.signed ∧ 2 ^ (i.width - 1) ≤ n then (n : Int) - 2 ^ i.width else n
def IFmt.wrap (i : IFmt) (n : Int) : Nat := (n % (2 ^ i.width : Int)).toNat
/-- The nearest limit (`sat_int`), and whether the number lay outside. -/
def IFmt.sat (i : IFmt) (n : Int) : Nat × Bool :=
  if n < i.min then (i.wrap i.min, true) else if i.max < n then (i.wrap i.max, true) else (i.wrap n, false)

/-- A format of R136 other than EXF8. -/
inductive Elem where
  | flt (f : FFmt)
  | int (i : IFmt)
  deriving DecidableEq, Repr

/-- The format of a code, none for EXF8 and the reserved codes (R136). -/
def elemOf : Nat → Option Elem
  | 0 => some (.flt bf16)
  | 1 => some (.flt fp16)
  | 2 => some (.flt e4m3)
  | 3 => some (.flt e5m2)
  | 4 => some (.int { width := 8, signed := true })
  | 5 => some (.int { width := 8, signed := false })
  | 7 => some (.flt fp32)
  | 8 => some (.flt fp64)
  | 9 => some (.int { width := 32, signed := true })
  | 10 => some (.int { width := 64, signed := true })
  | _ => none

def Elem.width : Elem → Nat
  | .flt f => f.width
  | .int i => i.width

/-- Element size in bytes by code; EXF8 counts as 4 (R312). -/
def elemSize (code : Nat) : Nat :=
  match elemOf code with
  | some e => e.width / 8
  | none => 4

/-- A value to an integer format (R150): rounding first, then the range. -/
def toInt (i : IFmt) (v : FVal) : FRes :=
  match v with
  | .nan => (0, fIC)
  | .inf neg => (i.wrap (if neg then i.min else i.max), fIC)
  | .fin neg m e =>
    let r := rneAt m e 0 false
    let n : Int := if neg then -(r.1 : Int) else r.1
    let x := i.sat n
    (x.1, if x.2 then fIC else if r.2 then fNX else 0#6)

/-- The exact value of an integer. -/
def FVal.ofInt (n : Int) : FVal := ofUnits false n 0

/-- Conversion of a pattern from one format to another (R150). -/
def convert (src dst : Elem) (v : Nat) : FRes :=
  match src, dst with
  | .flt f, .flt g => g.deliver (f.read v)
  | .flt f, .int i => toInt i (f.read v)
  | .int i, .flt g => g.deliver (.ofInt (i.read v))
  | .int i, .int j =>
    let x := j.sat (i.read v)
    (x.1, if x.2 then fIC else 0#6)

/-- The exact value of an element. -/
def Elem.value : Elem → Nat → FVal
  | .flt f, v => f.read v
  | .int i, v => .ofInt (i.read v)

/-! ### Integer division (R151, R233) -/

/-- Quotient and remainder at a format, with the flag. -/
def IFmt.div (i : IFmt) (x y : Int) : Nat × Nat × BitVec 6 :=
  if y = 0 then (2 ^ i.width - 1, i.wrap x, fDZ)
  else if i.signed ∧ x = i.min ∧ y = -1 then (i.wrap x, 0, fOF)
  else (i.wrap (x.tdiv y), i.wrap (x.tmod y), 0#6)

/-! ### EXF8 blocks (R142-R145) -/

/-- Exponent and fraction widths of the FP8 format that EF names. -/
def exfExp (ef : Bool) : Nat := if ef then 5 else 4
def exfMan (ef : Bool) : Nat := if ef then 2 else 3

/-- Bits of a number, most significant first. -/
def bitsMsb (n v : Nat) : List Bool := (List.range n).map fun i => decide (v / 2 ^ (n - 1 - i) % 2 = 1)

/-- Code of one element (R143). -/
def exfCode (ef : Bool) (emax e : Nat) : List Bool :=
  match emax - e with
  | 0 => [false]
  | 1 => [true, false]
  | 2 => [true, true, false]
  | 3 => [true, true, true, false]
  | _ => [true, true, true, true] ++ bitsMsb (exfExp ef) e

/-- A number from its bits, least significant first. -/
def ofBits : List Bool → Nat
  | [] => 0
  | b :: t => b.toNat + 2 * ofBits t

/-- LEN of a block whose exponent stream has `b` bits (R143). -/
def exfLen (ef : Bool) (b : Nat) : Nat := 4 * ((4 + (b + 7) / 8 + 8 + 8 * exfMan ef + 3) / 4)

/-- The one encoding of 64 elements that the device produces (R144). -/
def exfEncode (ef : Bool) (els : List Nat) : List Byte :=
  let m := exfMan ef
  let exp (v : Nat) : Nat := v % 128 / 2 ^ m
  let emax := els.foldl (fun a v => max a (exp v)) 0
  let stream := els.flatMap fun v => exfCode ef emax (exp v)
  let signs := ofBits (els.map fun v => decide (128 ≤ v))
  let mans := (els.mapIdx fun i v => v % 2 ^ m * 2 ^ (m * i)).foldl (· + ·) 0
  let len := exfLen ef stream.length
  let body := leBytes 4 (len + emax * 65536 + ef.toNat * 2 ^ 24) ++ leBytes ((stream.length + 7) / 8) (ofBits stream) ++
    leBytes 8 signs ++ leBytes (8 * m) mans
  body ++ List.replicate (len - body.length) 0#8

/-- The number of the first `n` bits, most significant first. -/
def takeMsb : Nat → List Bool → Nat × List Bool
  | 0, l => (0, l)
  | n + 1, l =>
    let r := takeMsb n l.tail
    ((l.head?.getD false).toNat * 2 ^ n + r.1, r.2)

/-- Exponent of the next element of a stream and the bits used, none where the code is malformed (R145). -/
def exfNext (ef : Bool) (emax : Nat) (l : List Bool) : Option (Nat × List Bool × Nat) :=
  let sub (d : Nat) (rest : List Bool) : Option (Nat × List Bool × Nat) :=
    if emax < d then none else some (emax - d, rest, d + 1)
  match l with
  | false :: t => sub 0 t
  | true :: false :: t => sub 1 t
  | true :: true :: false :: t => sub 2 t
  | true :: true :: true :: false :: t => sub 3 t
  | true :: true :: true :: true :: t =>
    let r := takeMsb (exfExp ef) t
    if emax < r.1 then none else some (r.1, r.2, 4 + exfExp ef)
  | _ => none

/-- The exponents of `n` elements and the number of bits they took. -/
def exfExps (ef : Bool) (emax : Nat) : Nat → List Bool → Option (List Nat × Nat)
  | 0, _ => some ([], 0)
  | n + 1, l =>
    match exfNext ef emax l with
    | none => none
    | some (e, rest, used) => (exfExps ef emax n rest).map fun r => (e :: r.1, used + r.2)

/-- Bits of bytes, least significant first (R143). -/
def byteBits (bs : List Byte) : List Bool := bs.flatMap fun b => (List.range 8).map fun i => b.getLsbD i

/-- One block at the head of a list of bytes: its 64 elements, its element format and its length, or, where it is
malformed, the format that EF names (R145). -/
def exfBlock (bs : List Byte) : Bool × Option (List Nat × Nat) :=
  let hd := field bs 0 4
  let ef := decide (bits hd 24 1 = 1)
  let emax := bits hd 16 8
  let m := exfMan ef
  if bits hd 25 7 ≠ 0 ∨ 2 ^ exfExp ef ≤ emax then (ef, none)
  else match exfExps ef emax 64 (byteBits (bs.drop 4 |>.take 80)) with
    | none => (ef, none)
    | some (exps, b) =>
      if bits hd 0 16 ≠ exfLen ef b ∨ bs.length < exfLen ef b then (ef, none)
      else
        let at_ := 4 + (b + 7) / 8
        let signs := field bs at_ 8
        let mans := field bs (at_ + 8) (8 * m)
        (ef, some (exps.mapIdx fun i e => bits signs i 1 * 128 + e * 2 ^ m + bits mans (m * i) m, exfLen ef b))

/-- Blocks decoded one behind the other: (element format, pattern) pairs, the bytes used, and whether one was malformed; all
elements of a malformed block and of those after it are one NaN (R145). -/
def exfDecode : Nat → List Byte → List (Bool × Nat) × Nat × Bool
  | 0, _ => ([], 0, false)
  | n + 1, bs =>
    match exfBlock bs with
    | (ef, none) => (List.replicate (64 * (n + 1)) (ef, if ef then 0x7E else 0x7F), 0, true)
    | (ef, some (els, len)) =>
      let r := exfDecode n (bs.drop len)
      (els.map (fun v => (ef, v)) ++ r.1, len + r.2.1, r.2.2)

end Sys2Proof.Machine
end

