-- ==== Sys2Proof/Machine/Local.lean ====
section
/-! DEFINITION. Loads, stores, local atomics, context and landing instructions (chapter 12). -/

namespace Sys2Proof.Machine

open Sys2Proof

/-! ### Loads and stores (R249-R253) -/

/-- A load of `n` bytes at s[B] + off through a view, with the form's own check of the region (R250, R251). -/
def State.load (s : State) (n : Nat) (a b : Reg) (off : Word) (v : View) (check : Nat → Region → Option FaultCode) : Res :=
  match s.access (s.ea b off) n .rd with
  | .fault c => s.fault c
  | .wait => .next s.stall
  | .at_ addr h r =>
    match check h r with
    | some c => s.fault c
    | none =>
      ((s.touchRead v h r addr).setReg a (BitVec.ofNat 64 (leNat (s.localRead v h r addr n)))).done

/-- A store of the low `n` bytes of s[A] at s[B] + off through a view (R250, R252). -/
def State.store (s : State) (n : Nat) (a b : Reg) (off : Word) (ord : MemOrd) : Res :=
  match s.access (s.ea b off) n .wr with
  | .fault c => s.fault c
  | .wait => .next s.stall
  | .at_ addr h r =>
    s.got (s.localStore s.hdView h r addr (leBytes n (s.reg a).toNat) (relOf ord)) State.done

/-- LD at the size's width (R251). The ordering adds nothing in one core: a local load is performed where it stands, before
every later access (R197). -/
def State.execLoad (s : State) (n : Nat) (a b : Reg) (off : Word) : Res :=
  s.guardRegs [a, b] (s.load n a b off s.hdView fun _ _ => none)

/-- ST at the size's width (R252). -/
def State.execStore (s : State) (n : Nat) (a b : Reg) (off : Word) (ord : MemOrd) : Res :=
  s.guardRegs [a, b] (s.store n a b off ord)

def execLdB (a b : Reg) (off : Word) (_ord : MemOrd) (s : State) : Res := s.execLoad 1 a b off
def execLdH (a b : Reg) (off : Word) (_ord : MemOrd) (s : State) : Res := s.execLoad 2 a b off
def execLdW (a b : Reg) (off : Word) (_ord : MemOrd) (s : State) : Res := s.execLoad 4 a b off
def execLdD (a b : Reg) (off : Word) (_ord : MemOrd) (s : State) : Res := s.execLoad 8 a b off
def execStB (a b : Reg) (off : Word) (ord : MemOrd) (s : State) : Res := s.execStore 1 a b off ord
def execStH (a b : Reg) (off : Word) (ord : MemOrd) (s : State) : Res := s.execStore 2 a b off ord
def execStW (a b : Reg) (off : Word) (ord : MemOrd) (s : State) : Res := s.execStore 4 a b off ord
def execStD (a b : Reg) (off : Word) (ord : MemOrd) (s : State) : Res := s.execStore 8 a b off ord

/-! ### LDX and STX (R255, R256) -/

/-- Check 3 of R255: records of the id may lie in the overflow area and have not been recalled. -/
def State.notRecalled (s : State) (r : Region) (c : CtxId) : Bool :=
  r.tagged && c != 0#32 && s.self.filterBit c && c != s.hd.ctx && !s.hd.recalls.any (fun x => x.1 == c && x.2)

/-- The view of an id named by a register: the handler's own slot for CTX, else the slot that maps it, else the base
(R123). -/
def State.viewOf (s : State) (c : CtxId) : View :=
  if c = s.hd.ctx then s.hdView
  else match s.here.slotOf c with
    | some i => { core := s.cur.core, entry := s.hd.entry, ctx := c, slot := i }
    | none => baseView s.cur.core s.hd.entry

def execLdx (size : Size) (a b c : Reg) (off : Word) (_ord : MemOrd) (s : State) : Res :=
  s.guardRegs [a, b, c]
    (match ctxOperand (s.reg c) with
     | none =>
       match s.checkLocal s.cur.core s.hd.entry (s.ea b off) (sizeBytes size) .rd (sizeBytes size) with
       | .error f => s.fault f
       | .ok _ => s.fault .bounds
     | some x => s.load (sizeBytes size) a b off (s.viewOf x) fun _ r => if s.notRecalled r x then some .cellfull else none)

def execStx (size : Size) (a b c : Reg) (off : Word) (ord : MemOrd) (s : State) : Res :=
  s.guardRegs [a, b, c]
    (match s.access (s.ea b off) (sizeBytes size) .wr with
     | .fault f => s.fault f
     | .wait => .next s.stall
     | .at_ addr h r =>
       match ctxOperand (s.reg c) with
       | none => s.fault .bounds
       | some x =>
         if !r.privx then s.fault .bounds
         else if s.notRecalled r x then s.fault .cellfull
         else
           let bs := leBytes (sizeBytes size) (s.reg a).toNat
           if !r.tagged || x == 0#32 then
             s.got (s.localStore (baseView s.cur.core s.hd.entry) h r addr bs (relOf ord)) State.done
           else if x = s.hd.ctx then s.got (s.localStore s.hdView h r addr bs (relOf ord)) State.done
           else match s.here.mapCtx x with
             | none => (s.countHere 0x061).fault .cellfull
             | some (k, i) =>
               match (s.setCore s.cur.core k).localStore { core := s.cur.core, entry := s.hd.entry, ctx := x, slot := i }
                   h r addr bs (relOf ord) with
               | .ok t => t.done
               | .noCell => s.fault .cellfull
               | .full t => .next (s.stallFull t))

/-! ### Local atomics (R254) -/

/-- An atomic on the aligned dword at s[B] + off: `f old` is what it writes, if anything. It reads and writes at once and its
result is written at retirement, so that it waits for the earlier writes that a release or a fence puts it behind (R197), and
for the actor's own waiting stores to the word (R186). -/
def State.atomic (s : State) (a b c : Reg) (off : Word) (ord : MemOrd) (f : Word → Option Word) : Res :=
  s.guardRegs [a, b, c]
    (match s.access (s.ea b off) 8 .rw with
     | .fault x => s.fault x
     | .wait => .next s.stall
     | .at_ addr h r =>
       let k := s.here
       let conds := s.hd.fences ++ (match relOf ord with | some sc => [(sc, k.seq)] | none => [])
       let sp : Span := { home := localHome s.cur.core addr, len := 8 }
       if conds.any (fun x => k.writePending s.mod.timeNs s.cur.core s.self.name s.hd.serial x.1 x.2) ||
           k.storeHeld s.cur.core s.self.name s.hd.serial k.seq (if r.tagged then sp.lines else sp) then .next s.stall
       else
         let m := BitVec.ofNat 64 (leNat (s.viewBytes s.hdView h r addr 8))
         match f m with
         | none => ((s.touchRead s.hdView h r addr).setReg a m).done
         | some v => s.got (s.storeView s.hdView h r addr (leBytes 8 v.toNat)) fun t => ((t.noteCode r addr 8).setReg a m).done)

def execAadd (a b c : Reg) (off : Word) (ord : MemOrd) (s : State) : Res :=
  s.atomic a b c off ord fun m => some (m + s.reg c)
def execAswp (a b c : Reg) (off : Word) (ord : MemOrd) (s : State) : Res :=
  s.atomic a b c off ord fun _ => some (s.reg c)
def execAcas (a b c : Reg) (off : Word) (ord : MemOrd) (s : State) : Res :=
  s.atomic a b c off ord fun m => if m = s.reg c then some (s.reg a) else none

/-! ### Context forms (R258-R262) -/

def execCtxnew (a : Reg) (s : State) : Res :=
  s.guardRegs [a]
    (match s.hd.fresh with
     | [] => s.fault .bounds
     | c :: t => ((s.modHd fun h => { h with fresh := t, handed := h.handed ++ [c] }).setReg a (c.1.setWidth 64)).done)

/-- Start the recall of an id's records for the handler's actor, unless one runs (R259). -/
def State.startRecall (s : State) (c : CtxId) : State :=
  if s.here.recalls.any (fun r => decide (r.entry = s.hd.entry) && r.ctx == c) then s
  else s.modHere fun k => { k with recalls := k.recalls ++ [{ entry := s.hd.entry, ctx := c, why := .prefetch s.hd.serial }] }

/-- The recall of R259: the answer is the predicate. -/
def State.prefetch (s : State) (c : CtxId) : State × Bool :=
  let h := s.hd
  if c = 0#32 ∨ c = h.ctx ∨ !s.self.filterBit c ∨ h.recalls.any (fun x => x.1 == c && x.2) then (s, true)
  else if h.recalls.any (·.1 == c) then (s.startRecall c, false)
  else if 4 ≤ h.recalls.length then (s.countHere 0x061, false)
  else match s.here.mapCtx c with
    | none => (s.countHere 0x061, false)
    | some (k, _) =>
      (((s.setCore s.cur.core k).modHd fun h => { h with recalls := h.recalls ++ [(c, false)], dirtyCtl := true }).startRecall c,
       false)

def execCtxpf (p : Pred) (b : Reg) (s : State) : Res :=
  s.guardRegs [b]
    (match ctxOperand (s.reg b) with
     | none => s.fault .bounds
     | some c =>
       let r := s.prefetch c
       (r.1.setPred p r.2).done)

/-- CTX becomes `c` in slot `i`: the uses of both slots follow (R260). -/
def State.moveCtx (s : State) (c : CtxId) (i : Nat) : State :=
  let h := s.hd
  let s := s.modHere fun k =>
    let k := if c = 0#32 then k else k.addUse i
    if h.ctx = 0#32 then k else k.dropUse h.slot
  s.modHd fun h => { h with ctx := c, slot := i, dirtyCtl := true }

/-- (DEDUCED, log 48.) -/
def execCtxset (p : Pred) (b : Reg) (s : State) : Res :=
  s.guardRegs [b]
    (match ctxOperand (s.reg b) with
     | none => s.fault .bounds
     | some c =>
       let h := s.hd
       if c = h.ctx ∧ (c = 0#32 ∨ !s.self.filterBit c ∨ h.recalls.any (fun x => x.1 == c && x.2)) then (s.setPred p true).done
       else if c = 0#32 then ((s.moveCtx 0#32 0).setPred p true).done
       else if s.self.filterBit c && !h.recalls.any (fun x => x.1 == c && x.2) then
         (((s.prefetch c).1.countHere 0x061).setPred p false).done
       else match s.here.mapCtx c with
         | none => ((s.countHere 0x061).setPred p false).done
         | some (k, i) => (((s.setCore s.cur.core k).moveCtx c i).setPred p true).done)

/-- Stores of the handler's program wait in the store buffer. -/
def Core.storesWait (k : Core) (n : Name) (serial : Nat) : Bool :=
  k.outq.any fun e => sameProgram (namePool n) n e.name serial e.serial && match e.body with
    | .localStore .. => true
    | _ => false

/-- Every earlier store of the handler is performed first (R261), within the limit of R194. -/
def execCtxret (b : Reg) (s : State) : Res :=
  s.guardRegs [b]
    (match ctxOperand (s.reg b) with
     | none => s.fault .bounds
     | some c =>
       if c = 0#32 then s.fault .bounds
       else
         if s.here.storesWait s.self.name s.hd.serial then .next s.stall
         else ((s.startRetire s.cur.core c none (some s.cur.core)).takeRetire s.cur.core c).done)

/-- The word of a context-map entry (R119). -/
def Core.ctxWord (k : Core) (slot : Nat) : Word :=
  if slot = 0 then BitVec.ofNat 64 1
  else match Tab.get? k.ctxMap slot with
    | none => 0#64
    | some e => BitVec.ofNat 64 (e.id.toNat * 2 ^ 32 + k.pcells slot % 4096 * 2 ^ 20 + e.use % 256 * 2 ^ 12 +
        (match e.state with | .mapped => 1 | .retiring => 2))

def execCtxq (byId : Bool) (a b : Reg) (s : State) : Res :=
  s.guardRegs [a, b]
    (let v := s.reg b
     if byId then
       if 2 ^ 32 ≤ v.toNat then s.fault .bounds
       else (s.setReg a (match s.here.slotOf (v.setWidth 32) with | some i => s.here.ctxWord i | none => 0#64)).done
     else if 255 < v.toNat then s.fault .bounds
     else (s.setReg a (s.here.ctxWord v.toNat)).done)

/-! ### COMMIT (R263) -/

/-- A COMMIT's destination takes the value, and for the rest of the cycle reads as before (R23). -/
def State.commitTo (s : State) (l : Landing) (v : Word) : State :=
  let now := s.now s.cur.core
  let old : Word := if l.isPred then BitVec.ofNat 64 (s.pred (l.reg.setWidth 3)).toNat else s.reg l.reg
  let s := if l.isPred then s.setPred (l.reg.setWidth 3) (v != 0#64) else s.setReg l.reg v
  s.modHd fun h => { h with stale := (l.isPred, l.reg, old) :: (if h.staleAt = now then h.stale else []), staleAt := now }

def execCommit (n : BitVec 3) (s : State) : Res :=
  match Tab.get? s.hd.landing n.toNat with
  | none => (s.countHere 0x038).done
  | some l =>
    match l.value with
    | none => .next s.stall
    | some v =>
      let s := s.modHd fun h => { h with landing := Tab.del h.landing n.toNat, dirtyCtl := true }
      (s.commitTo l v).done

end Sys2Proof.Machine
end

