-- ==== Sys2Proof/Machine/Regions.lean ====
section
/-! DEFINITION. Regions and windows (04 R91-R108, 14 R293-R297): placement, freeing, handing over, granting. -/

namespace Sys2Proof.Machine

open Sys2Proof

/-! ### Placement (R93) -/

/-- Where the part of TCM that firmware has not reserved begins. (DESIGN CHOICE, log 6.) -/
def programBase : Nat := 0x8000

/-- Bytes of TCM left for program regions (R360). -/
def Core.programSize (k : Core) : Nat :=
  0x60000 - 0x18000 - (k.cfg.recs * 0x1400 + k.cfg.spill * 0x1000 + k.cfg.cpool * 0x4000)

/-- An extent is free of a list of used ones. -/
def extentFree (used : List (Nat × Nat)) (base size : Nat) : Bool :=
  !used.any fun u => decide (base < u.1 + u.2) && decide (u.1 < base + size)

def alignUp (n g : Nat) : Nat := (n + g - 1) / g * g

/-- First fit: the lowest granule-aligned address of [lo, lo + area) with room for `size` bytes (R93). A run of free
granules begins at the area's start or where a used extent ends. -/
def firstFit (used : List (Nat × Nat)) (lo area size granule : Nat) : Option Nat :=
  let starts := (lo :: used.map fun u => alignUp (u.1 + u.2) granule).filter fun b =>
    decide (lo ≤ b) && decide (b + size ≤ lo + area) && extentFree used b size
  starts.foldl (fun m b => match m with | none => some b | some x => some (min x b)) none

/-- Granules of R90. -/
def granule : Nat → Nat
  | 0 => 0x400
  | 1 => 0x1000
  | _ => 0x10000

/-- Transfers that have not freed their source (R99): queued at Teasel, or on their way to a core of this module. -/
def State.transfersOf (s : State) (core : Nat) : List Transfer :=
  let out (e : OutEnt) : Option Transfer := match e.body with
    | .packet (.transfer t) => if s.isLocal t.dest then some t else none
    | _ => none
  let net (p : Packet) : Option Transfer := match p with
    | .transfer t => if s.isLocal t.giver then some t else none
    | _ => none
  let op (o : EngOp) : Option Transfer := match o.body with
    | .transfer t => some t
    | _ => none
  let k := s.core core
  k.teasel.filterMap op ++ k.outq.filterMap out ++ (k.campion.map (·.out)).filterMap out ++ s.net.filterMap net

/-- TCM extents in use on a core: those of LIVE regions, those of freed ones with landings to come, and those of given ones
whose transfer has not freed them. -/
def State.tcmUsed (s : State) (core : Nat) : List (Nat × Nat) :=
  ((s.core core).actors.flatMap fun a =>
    (a.2.regions.filter fun r => decide (r.2.kind = 0) && !r.2.given).map fun r => (r.2.base, r.2.size)) ++
  ((s.core core).freeing.filter fun x => decide (x.region.kind = 0)).map (fun x => (x.region.base, x.region.size)) ++
  ((s.transfersOf core).filter fun t => decide (t.fromCore = core) && !t.zeroCopy && decide (bits t.attr.toNat 12 2 = 0)).map fun t =>
    (t.base, t.size)

def Region.attr (r : Region) : Nat :=
  r.kind * 0x1000 + r.tagged.toNat * 0x800 + r.privx.toNat * 0x400 + r.gr.toNat * 8 + r.ex.toNat * 4 + r.wr.toNat * 2 +
    r.rd.toNat

/-- Attributes no region may have (R91, R293): reserved bits, KIND 3, TAGGED or EX on a die region. -/
def attrBad (attr : Nat) : Bool :=
  decide (2 ^ 14 ≤ attr) || decide (bits attr 4 6 ≠ 0) || decide (bits attr 12 2 = 3) ||
    (decide (bits attr 12 2 = 2) && (decide (bits attr 11 1 = 1) || decide (bits attr 2 1 = 1)))

/-- The lowest FREE handle of an actor whose walk, if any, has ended (R93). A handle of which a transfer is still to read a
TAGGED region is not taken either: its cells and records stand under it, the walk for them comes only behind the reading
(R95), and a new region there would show cells of the old one, which R96 forbids. (DESIGN CHOICE, log 18.) -/
def Core.freeHandle (k : Core) (entry : Nat) : Option Nat :=
  (List.range 32).find? fun h => (Tab.get? (k.actor entry).regions h).isNone && !(k.pendingSource entry h).any (·.tagged) &&
    !k.walks.any fun w => decide (w.entry = entry) && decide (w.kind = .handle h)

/-- The base and the cluster- or die-table entry of a new region (R92, R93). -/
def State.placeRegion (s : State) (core kind size : Nat) : Option (Nat × Nat) :=
  let used (t : Tab SpaceEnt) : List (Nat × Nat) := t.map fun e => (e.2.base, e.2.size)
  match kind with
  | 0 =>
    (firstFit (s.tcmUsed core) programBase (s.core core).programSize size 0x400).map fun b => (b, 0)
  | 1 =>
    let t := s.cluster (clusterOf core)
    match Tab.lowestFree t 256, firstFit (used t) Config.spadBase Config.spadSize size 0x1000 with
    | some i, some b => some (b, i)
    | _, _ => none
  | _ =>
    let t := (s.die (dieOf core)).space
    match Tab.lowestFree t 1024, firstFit (used t) 0 Config.dieSize size 0x10000 with
    | some i, some b => some (b, i)
    | _, _ => none

/-- Enter a region in its actor's table, and in the cluster or die table, its lines clear (R92, R96). -/
def State.enterRegion (s : State) (core entry handle : Nat) (r : Region) : State :=
  let name := (s.actor core entry).name
  let ent : SpaceEnt := { base := r.base, size := r.size, owner := name }
  let s := match r.kind with
    | 0 => s
    | 1 => s.modCluster (clusterOf core) fun t => Tab.put t r.cidx ent
    | _ => s.modDie (dieOf core) fun d => { d with space := Tab.put d.space r.cidx ent }
  let s := s.modActor core entry fun a => { a with regions := Tab.put a.regions handle r }
  s.clearLines (regionHome core r) r.size

/-- A new region at the lowest handle and address (R93), none where a handle, space or table entry lacks.
(DEDUCED, log 41.) -/
def State.allocRegion (s : State) (core entry size attr : Nat) : Option (State × Nat × Nat) :=
  match (s.core core).freeHandle entry, s.placeRegion core (bits attr 12 2) size with
  | some h, some (base, i) => some (s.enterRegion core entry h (attrRegion attr base size i), h, base)
  | _, _ => none

/-! ### Freeing (R95) -/

/-- The cells of a region go, and a walk frees its records (R95). -/
def Core.dropCells (k : Core) (entry handle : Nat) : Core :=
  let lostEv := (k.evicts.filter fun e => decide (e.cell.entry = entry) && decide (e.cell.handle = handle)).length
  let k := if lostEv = 0 then k else k.modActor entry fun a => a.lowerRec lostEv
  { k with
    cells := k.cells.filter fun c => !(decide (c.entry = entry) && decide (c.handle = handle))
    evicts := k.evicts.filter fun e => !(decide (e.cell.entry = entry) && decide (e.cell.handle = handle))
    walks := if (k.actor entry).recCount = 0 then k.walks else k.walks ++ [{ entry := entry, kind := .handle handle }] }

/-- The space of a region returns to its memory. -/
def State.freeSpace (s : State) (core : Nat) (r : Region) : State :=
  match r.kind with
  | 0 => s
  | 1 => s.modCluster (clusterOf core) fun t => Tab.del t r.cidx
  | _ => s.modDie (dieOf core) fun d => { d with space := Tab.del d.space r.cidx }

/-- The space of freed regions returns once the operations accepted on their windows have landed (R294). -/
def State.settleFreeing (s : State) (core : Nat) : State :=
  let waits (k : Core) (x : Freeing) : Bool := k.landingsOn x.entry x.region
  let ready := (s.core core).freeing.filter fun x => !waits (s.core core) x
  ready.foldl (fun s x => s.freeSpace core x.region)
    (s.modCore core fun k => { k with freeing := k.freeing.filter (waits k) })

/-- The words of a region that an actor's handlers found there at their dispatch go with the region (R215, R247). -/
def Core.dropCode (k : Core) (entry handle : Nat) : Core :=
  { k with handlers := Tab.mapVals k.handlers fun _ h => if h.entry = entry then { h with code := Tab.del h.code handle } else h }

/-- Stores to a region that is freed need not be performed any more: nothing reads its bytes again (R95, R96). -/
def Core.dropStores (k : Core) (entry handle : Nat) : Core :=
  { k with outq := k.outq.filter fun e => match e.body with
      | .localStore x h .. => !(decide (x = entry) && decide (h = handle))
      | _ => true }

/-- Free a LIVE region (R95, R294): its windows end, its cells go, its space returns behind the landings that it has accepted.
-/
def State.freeRegion (s : State) (core entry handle : Nat) (r : Region) : State :=
  let s := s.modCore core fun k => ((k.revokeOf entry (some handle) false).dropCode entry handle).dropStores entry handle
  let s := s.modActor core entry fun a => { a with regions := Tab.del a.regions handle }
  let s := if r.tagged then s.modCore core fun k => k.dropCells entry handle else s
  (s.modCore core fun k => { k with freeing := k.freeing ++ [{ entry := entry, handle := handle, region := r }] }).settleFreeing core

/-- Some queued operation of the handler is on a region (R98, R294). -/
def State.regionBusy (s : State) (r : Region) : Bool :=
  s.here.interlocked s.self.name s.hd.serial { home := regionHome s.cur.core r, len := r.size }

/-! ### RALLOC, RFREE, GIVE (R293-R295) -/

/-- The value of a failed RALLOC (R293). -/
def rallocFail : Word := 0x000000FF00000000#64

/-- (DEDUCED, log 41.) -/
def execRalloc (a b c : Reg) (s : State) : Res :=
  s.guardRegs [a, b, c]
    (let attr := (s.reg c).toNat
     let size := (s.reg b).toNat
     if s.self.pool then s.fault .bounds
     else if attrBad attr || decide (size = 0) || decide (size % granule (bits attr 12 2) ≠ 0) then s.fault .bounds
     else s.landing (some a) 0#3 none fun i _ s =>
       match s.allocRegion s.cur.core s.hd.entry size attr with
       | none => ((s.countHere 0x054).result s.cur.core s.cur.rec_ s.hd.serial (i.getD 0) rallocFail).done
       | some (s, h, base) =>
         ((s.modSelf fun a => { a with regions := Tab.adjust a.regions h fun r => { r with usable := false } }).resultRegion
           s.cur.core s.cur.rec_ s.hd.serial (i.getD 0) (BitVec.ofNat 64 (h * 2 ^ 32 + base)) s.hd.entry h).done)

/-- (DEDUCED, log 18.) -/
def execRfree (b : Reg) (s : State) : Res :=
  s.guardRegs [b]
    (let h := (s.reg b).toNat
     match s.self.region? h with
     | none => s.fault .bounds
     | some r =>
       if 31 < h then s.fault .bounds
       else if r.given then
         ((s.modSelf fun a => { a with regions := Tab.del a.regions h }).modHere fun k => k.dropCode s.hd.entry h).done
       else if s.regionBusy r then .next s.stall
       else (s.freeRegion s.cur.core s.hd.entry h r).done)

/-- The transfer of a GIVE (R98, R99). -/
def State.transferOf (s : State) (dest : Name) (m : Msg) (h : Nat) (r : Region) (zero : Bool) : Transfer :=
  { dest := dest, notice := m, fromCore := s.cur.core, fromEntry := s.hd.entry, handle := h, giver := s.self.name,
    zeroCopy := zero, base := r.base, size := r.size, attr := BitVec.ofNat 14 r.attr, cidx := r.cidx, bytes := [] }

/-- (DEDUCED, log 41.) -/
def execGive (a b c : Reg) (s : State) : Res :=
  s.guardRegs [a, b, c]
    (match s.checkBlock c false false with
     | some f => s.fault f
     | none =>
       let dest := s.reg a
       let h := (s.reg b).toNat
       if s.self.pool then s.fault .bounds
       else if !s.destOk dest then s.fault .bounds
       else match s.self.region? h with
         | none => s.fault .bounds
         | some r =>
           if 31 < h then s.fault .bounds
           else if r.given then s.fault .given
           else if s.regionBusy r then .next s.stall
           else
             let core := s.cur.core
             let e := s.hd.entry
             let rel := widen .cl core (s.placeOf dest)
             let m := s.msgOf (s.block c) dest s.hd.ctx true
             let zero := decide (r.kind = 1) && !r.tagged && s.isLocal dest && decide (nameCore dest < 65568) &&
               decide (clusterOf (nameCore dest) = clusterOf core) && s.alive (nameCore dest) dest
             if zero then
               if s.sendBlocked then .next s.stall
               else
                 let t := s.transferOf dest m h r true
                 let s := (s.modCore core fun k => k.revokeOf e (some h) false).modActor core e fun a =>
                   { a with regions := Tab.put a.regions h { r with given := true } }
                 (s.sendPacket (.transfer t) (some rel) (s.placeOf dest)).done
             else if 2 ≤ s.here.teasel.length then .next s.stall
             else
               let t := s.transferOf dest m h r false
               let k := s.here
               let op : EngOp := { id := k.nextId, seq := k.seq, entry := e, name := s.self.name, rec_ := s.cur.rec_,
                                   serial := s.hd.serial, tenant := s.self.tenant, ctx := s.hd.ctx, slot := s.hd.slot,
                                   rel := some rel, fences := s.hd.fences, tfences := s.hd.tfences, pc := s.hd.pc,
                                   places := [s.placeOf dest], at_ := s.mod.timeNs,
                                   reads := [{ home := regionHome core r, len := r.size }], body := .transfer t }
               let s := (s.modCore core fun k => k.revokeOf e (some h) false).modActor core e fun a =>
                 { a with regions := Tab.put a.regions h { r with given := true } }
               let s := s.modCore core fun k => { k with teasel := k.teasel ++ [op] }
               ((s.bumpId core).bumpSeq core).done)

/-- A transfer frees its source's space (R99); the cells went when they were copied (R95). (DEDUCED, log 41.) -/
def State.freeSource (s : State) (t : Transfer) : State :=
  if t.zeroCopy || !s.isLocal t.giver then s else s.freeSpace t.fromCore t.source

/-- A transferred tile is discarded: the space of a zero-copy one returns (R99, R101). -/
def State.dropTile (s : State) (t : Transfer) : State :=
  if t.zeroCopy then s.modCluster (clusterOf t.fromCore) fun x => Tab.del x t.cidx else s

/-- A transfer to no live receiver (R66, R101). -/
def State.discardTransfer (s : State) (core : Nat) (t : Transfer) : State := (s.dropTile t).count core t.notice.tenant 0x037

/-- A given region reaches its receiver (R100, R101): it is entered LIVE at the lowest handle and the notice is queued, or
it is discarded. (DEDUCED, log 41.) -/
def State.receiveTransfer (s : State) (t : Transfer) : State :=
  let core := nameCore t.dest
  let e := nameSlot t.dest
  let discard (s : State) : State := s.dropTile t
  let notice (s : State) (v : Nat) : State := s.arrive core { t.notice with a0 := BitVec.ofNat 64 v }
  if !s.alive core t.dest then s.discardTransfer core t
  else
    let a := s.actor core e
    let fail (s : State) : State := notice ((discard s).count core t.notice.tenant 0x052) (0xFF * 2 ^ 32)
    if a.pool then fail s
    else if t.zeroCopy then
      match (s.core core).freeHandle e with
      | none => fail s
      | some h =>
        let ent : SpaceEnt := { base := t.base, size := t.size, owner := a.name }
        let s := s.modCluster (clusterOf core) fun x => Tab.put x t.cidx ent
        let s := s.modActor core e fun a => { a with regions := Tab.put a.regions h (attrRegion t.attr.toNat t.base t.size t.cidx) }
        notice s (h * 2 ^ 32 + t.base)
    else
      match s.allocRegion core e t.size (t.attr.toNat - t.attr.toNat / 0x800 % 2 * 0x800) with
      | none => fail s
      | some (s, h, base) =>
        let r := (Tab.get? (s.actor core e).regions h).getD default
        notice (s.writeBytes (regionHome core r) t.bytes) (h * 2 ^ 32 + base)

/-! ### Windows (R296, R297) -/

/-- A window key (R104). -/
def State.windowKey (s : State) (core i : Nat) (w : Window) (t : Tenant) : Word :=
  BitVec.ofNat 64 (s.endpoint core * 2 ^ 38 + i * 2 ^ 32 + w.gen.toNat * 65536 + t.toNat * 16)

/-- The BOUNDS conditions come before the WINDOW conditions where both hold: R108 and R296 give no order.
(DESIGN CHOICE, log 59.) -/
def execGrant (a b : Reg) (s : State) : Res :=
  s.guardRegs [a, b]
    (if s.self.pool then s.fault .bounds
     else match s.fetchOperand (s.reg b) 32 32 with
     | .fault f => s.fault f
     | .wait => .next s.stall
     | .bytes bs =>
       let grantee := BitVec.ofNat 64 (field bs 0 8)
       let off := field bs 8 4
       let len := field bs 12 4
       let handle := field bs 16 1
       let rights := field bs 17 1
       let gk := field bs 18 1
       let jc := field bs 19 1
       let cn := decide (bits rights 3 1 = 1)
       let at_ := decide (bits rights 2 1 = 1)
       let ww := decide (bits rights 1 1 = 1)
       let wd := decide (bits rights 0 1 = 1)
       let free := (List.range 64).find? fun i => !((Tab.get? s.here.windows i).getD {}).live
       if 16 ≤ rights ∨ field bs 20 12 ≠ 0 ∨ 31 < handle ∨ 2 < gk ∨ 63 < jc ∨
           (gk = 0 ∧ (nameBad grantee ∨ nameTenant grantee ≠ s.self.tenant)) ∨
           (cn ∧ !s.here.joinOf jc s.self.name) then s.fault .bounds
       else match free with
         | none => s.fault .bounds
         | some i =>
           match s.self.region? handle with
           | none => s.fault .window
           | some r =>
             if r.given ∨ !r.gr ∨ off % 64 ≠ 0 ∨ len % 64 ≠ 0 ∨ len = 0 ∨ r.size < off + len ∨ ((ww ∨ at_) ∧ !r.wr) ∨
                 (wd ∧ !r.rd) then s.fault .window
             else
               let old := (Tab.get? s.here.windows i).getD {}
               let w : Window := { grantee := grantee, off := off, len := len, gen := old.gen, jc := BitVec.ofNat 6 jc, gk := gk,
                                   owner := s.hd.entry, handle := handle, live := true, cn := cn, at_ := at_, ww := ww,
                                   wd := wd }
               (((s.touchOperand (s.reg b) 32).modHere fun k => { k with windows := Tab.put k.windows i w }).setReg a
                 (s.windowKey s.cur.core i w s.self.tenant)).done)

/-- The live window of SELF that a key names (R297). -/
def State.ownWindow (s : State) (key : Word) : Option (Nat × Window) :=
  match Tab.get? s.here.windows (keyWin key) with
  | none => none
  | some w =>
    if key.toNat / 2 ^ 38 = s.endpoint s.cur.core ∧ w.live ∧ w.owner = s.hd.entry ∧ w.gen = keyGen key ∧ key.toNat % 16 = 0
    then some (keyWin key, w) else none

def execRevoke (b : Reg) (s : State) : Res :=
  s.guardRegs [b]
    (match s.ownWindow (s.reg b) with
     | none => s.fault .window
     | some (i, w) => (s.modHere fun k => { k with windows := Tab.put k.windows i (w.end_ false) }).done)

def execPublish (withdraw : Bool) (b : Reg) (s : State) : Res :=
  s.guardRegs [b]
    (match s.ownWindow (s.reg b) with
     | none => s.fault .window
     | some (i, w) =>
       if withdraw then (s.modHere fun k => { k with windows := Tab.put k.windows i { w with pb := false } }).done
       else if w.gk ≠ 1 ∨ !w.wd ∨ w.off % 256 ≠ 0 ∨ w.len % 256 ≠ 0 then s.fault .window
       else (s.modHere fun k => { k with windows := Tab.put k.windows i { w with pb := true } }).done)

end Sys2Proof.Machine
end

