-- ==== Sys2Proof/Machine/Remote.lean ====
section
/-! DEFINITION. Remote stores, loads and atomics, the work distributors and the remote fence as they issue (14 R304, R305,
R309, R310). -/

namespace Sys2Proof.Machine

open Sys2Proof

/-- The low bits of a window key and the upper half of an offset are zero (R304). -/
def keyOk (key off : Word) : Bool := decide (key.toNat % 16 = 0) && decide (off.toNat < 2 ^ 32)

/-- The record of a remote operation of the current handler. -/
def State.remoteRec (s : State) (place : Option Nat) (module : Nat) (write read : Bool) (use : RemUse) : Remote :=
  { seq := 0, name := s.self.name, serial := s.hd.serial, place := place, module := module, write := write, read := read,
    use := use, entry := s.hd.entry, ctx := s.hd.ctx }

/-- A remote operation of the current handler on a window (R105, R291). -/
def State.remoteOp (s : State) (kind : RemKind) (key : Word) (off len : Nat) (data : List Byte) (operand expected : Word)
    (counted : Bool) : RemoteOp :=
  { kind := kind, key := key, off := off, len := len, data := data, operand := operand, expected := expected,
    counted := counted, sender := s.self.name, tenant := s.self.tenant, ctx := s.hd.ctx, group := none,
    core := s.gcore s.cur.core, rid := s.here.nextId }

/-- A core of a die, for the scope of its distributors. -/
def dieCore (d : Nat) : Nat := d / 4 * 64 * 256 + d % 4 * 64

/-! ### RST and RSTC (R304) -/

/-- A remote store of (n + 1) x 8 bytes. -/
def State.remoteStore (s : State) (n : BitVec 5) (a b c : Reg) (ord : MemOrd) (counted : Bool) : Res :=
  s.guardRegs [a, b, c]
    (let len := (n.toNat + 1) * 8
     match s.fetchOperand (s.reg b) len 8 with
     | .fault f => s.fault f
     | .wait => .next s.stall
     | .bytes bs =>
       let key := s.reg a
       if !keyOk key (s.reg c) then s.fault .bounds
       else if s.sendBlocked then .next s.stall
       else
         ((s.touchOperand (s.reg b) len).sendRemote (s.remoteRec (s.keyPlace key) (nameModule key) true false .none) (relOf ord)
           (.remote (s.remoteOp .store key (s.reg c).toNat len bs 0#64 0#64 counted))).done)

def execRst (n : BitVec 5) (a b c : Reg) (ord : MemOrd) (s : State) : Res := s.remoteStore n a b c ord false
def execRstc (n : BitVec 5) (a b c : Reg) (ord : MemOrd) (s : State) : Res := s.remoteStore n a b c ord true

/-! ### RLD and RATOM (R305) -/

def execRld (p : Pred) (a b c : Reg) (ord : MemOrd) (s : State) : Res :=
  s.guardRegs [a, b, c]
    (let key := s.reg b
     if !keyOk key (s.reg c) then s.fault .bounds
     else if s.sendBlocked then .next s.stall
     else s.landing (some a) p (acqOf ord) fun i j s =>
       (s.sendRemote (s.remoteRec (s.keyPlace key) (nameModule key) false true (.land s.cur.rec_ s.hd.serial i j)) none
         (.remote (s.remoteOp .load key (s.reg c).toNat 8 [] 0#64 0#64 false))).done)

/-- The kind of an RATOM. -/
def atomKind : AtomOp → RemKind
  | .add => .add
  | .swp => .swap
  | .cas => .cas

def execRatom (op : AtomOp) (p : Pred) (a b c : Reg) (ord : MemOrd) (s : State) : Res :=
  s.guardRegs [a, b, c]
    (let key := s.reg b
     if op = .cas ∧ s.hd.count ≤ a.toNat + 1 then s.fault .regbound
     else if !keyOk key (s.reg c) then s.fault .bounds
     else if s.sendBlocked then .next s.stall
     else
       let expected := if op = .cas then s.regN (a.toNat + 1) else 0#64
       s.landing (some a) p (acqOf ord) fun i j s =>
         (s.sendRemote (s.remoteRec (s.keyPlace key) (nameModule key) true true (.land s.cur.rec_ s.hd.serial i j))
           (relOf ord) (.remote (s.remoteOp (atomKind op) key (s.reg c).toNat 8 [] (s.reg a) expected false))).done)

/-! ### Work distributors (R308, R309) -/

/-- Reserved bits of a handle. -/
def handleBad (h : Word) : Bool := decide (bits h.toNat 48 2 ≠ 0) || decide (bits h.toNat 6 26 ≠ 0)

def execWqOpen (a b : Reg) (s : State) : Res :=
  s.guardRegs [a, b]
    (let v := (s.reg b).toNat
     if 2 ^ 32 ≤ v ∨ v % 65536 = 0 ∨ v / 65536 = 0 then s.fault .bounds
     else if s.sendBlocked then .next s.stall
     else s.landing (some a) 0#3 none fun i _ s =>
       (s.sendHere (.wqOpen s.cur.rec_ s.hd.serial (i.getD 0) (v % 65536) (v / 65536))).done)

/-- The place of a distributor's die. -/
def State.handlePlace (s : State) (h : Word) : Option Nat :=
  if nameModule h = s.mod.num.toNat then some (dieCore (bits h.toNat 50 4)) else none

def execWqQuery (a b : Reg) (s : State) : Res :=
  s.guardRegs [a, b]
    (if s.sendBlocked then .next s.stall
     else s.landing (some a) 0#3 none fun i _ s =>
       let h := s.reg b
       (s.sendRemote (s.remoteRec (s.handlePlace h) (nameModule h) false true (.wq s.cur.rec_ s.hd.serial (i.getD 0))) none
         (.wqQuery h s.self.tenant (s.gcore s.cur.core) s.here.nextId)).done)

def execWqClose (b : Reg) (s : State) : Res :=
  s.guardRegs [b]
    (let h := s.reg b
     if handleBad h then s.fault .bounds
     else if s.sendBlocked then .next s.stall
     else (s.sendRemote (s.remoteRec (s.handlePlace h) (nameModule h) false true .none) none
       (.wqClose h s.self.name (s.gcore s.cur.core) s.here.nextId)).done)

/-! ### FENCE.R (R310) -/

def scopeRank : Scope → Nat
  | .cl => 0 | .di => 1 | .mo => 2 | .pd => 3

/-- An engine operation has a window end within a scope. -/
def EngOp.reaches (o : EngOp) (sc : Scope) (core : Nat) : Bool :=
  (match o.body with
   | .copy _ d => decide (d.sk = 3 ∨ d.dk = 3)
   | .vec .xch _ _ _ _ => true
   | _ => false) && o.places.any (scopeHolds sc core ·)

/-- Remote operations of a handler below an issue number whose target lies within a scope, not yet completed, and not past their
limit (R194); the window ends of its copies count before and after they are sent. -/
def Core.remotesOpen (k : Core) (now core serial : Nat) (sc : Scope) (upto : Nat) : Bool :=
  let me (b seq at_ : Nat) : Bool := decide (b = serial) && decide (seq < upto) && stillCovers now at_
  k.remotes.any (fun r => me r.2.serial r.2.seq r.2.at_ && r.2.within sc core) ||
    (k.teasel ++ k.vec).any (fun o => me o.serial o.seq o.at_ && !o.landed && o.reaches sc core) ||
    k.outq.any fun e => me e.serial e.seq e.at_ && match e.body with
      | .wqOpen .. => scopeHolds sc core (some (dieCore (dieOf core)))
      | _ => false

def execFenceR (sc : Scope) (p : Pred) (s : State) : Res :=
  let s0 := s.fence sc
  if p = 0#3 then s0.done
  else s.landing none p none fun _ j s1 =>
    let s1 := s1.fence sc
    let k := s1.here
    let h := s1.hd
    let dead := h.deadOps.any fun d => decide (scopeRank d ≤ scopeRank sc)
    let idx := j.getD 0
    if k.remotesOpen s1.mod.timeNs s1.cur.core h.serial sc k.seq then
      let w : FenceWait := { rec_ := s1.cur.rec_, serial := h.serial, idx := idx, name := s1.self.name, scope := sc,
                             upto := k.seq, dead := dead }
      (s1.modHere fun k => { k with fenceWaits := k.fenceWaits ++ [w] }).done
    else (s1.result s1.cur.core s1.cur.rec_ h.serial idx (BitVec.ofNat 64 (!dead).toNat)).done

end Sys2Proof.Machine
end

