-- ==== Sys2Proof/Machine/Copy.lean ====
section
/-! DEFINITION. The descriptor forms as they issue (14 R298-R307): the descriptor, its checks, and the operation queued on
Teasel or, for MCST and PULL, sent to the switch. -/

namespace Sys2Proof.Machine

open Sys2Proof

/-- A descriptor from its 64 bytes (R298). -/
def readDesc (bs : List Byte) : CopyDesc :=
  { src := field bs 0 8, dst := field bs 8 8, len := field bs 16 4, sk := field bs 20 1, dk := field bs 21 1,
    msg := decide (bits (field bs 22 1) 0 1 = 1), ljc := decide (bits (field bs 22 1) 1 1 = 1),
    cnt := decide (bits (field bs 22 1) 2 1 = 1), lj := field bs 23 1, ns := field bs 24 4, fp := decide (field bs 28 1 = 1),
    ccw := BitVec.ofNat 64 (field bs 32 8), user := BitVec.ofNat 64 (field bs 40 8), aux := field bs 48 8, res := field bs 56 8 }

/-- The combinations of R299. -/
def descKinds (k : CopyKind) (d : CopyDesc) : Bool :=
  match k with
  | .cpy => decide (d.sk < 3) && decide (d.dk < 3) && !d.cnt
  | .cpye _ => decide (d.sk < 3) && decide (d.dk < 3) && !d.cnt && decide (d.len % 64 = 0)
  | .cpyc => (decide (d.sk < 3) && decide (d.dk = 3)) || (decide (d.sk = 3) && decide (d.dk < 3) && !d.cnt)
  | .deal => decide (d.sk = 0) && decide (d.dk = 3)
  | .gath => decide (d.sk = 3) && decide (d.dk = 0) && !d.cnt
  | .mcst => decide (d.sk = 0) && decide (d.dk = 4) && decide (8 ≤ d.len) && decide (d.len ≤ 256) && decide (d.len % 8 = 0)
  | .pull => decide (d.sk = 4) && decide (d.dk = 0) && !d.cnt && decide (d.len = 256) && decide (d.dst % 64 = 0)
  | .give => false

def CopyKind.sliced : CopyKind → Bool
  | .deal => true
  | .gath => true
  | _ => false

/-- An endpoint value has no reserved bit set for its kind (R298); slices take their keys from the list. -/
def endpointOk (sliced : Bool) (kind v : Nat) : Bool :=
  match kind with
  | 0 => decide (v < 2 ^ 32)
  | 1 => decide (bits v 5 27 = 0)
  | 2 => decide (v < 2 ^ 48)
  | 3 => if sliced then decide (v = 0) else decide (v % 16 = 0)
  | _ => decide (v < 65536)

/-- Step 1 of R300: reserved bits and bytes, and the completion's control word. (DEDUCED, log 19.) -/
def descReservedOk (k : CopyKind) (bs : List Byte) (d : CopyDesc) : Bool :=
  decide (field bs 22 1 < 8) && decide (d.lj < 64) && decide (field bs 29 3 = 0) &&
    (if k.sliced then decide (1 ≤ d.ns) && decide (d.ns ≤ 512) else decide (d.ns = 0)) &&
    (if k = .pull then decide (field bs 28 1 ≤ 1) && decide (d.aux % 256 = 0) else decide (field bs 28 1 = 0)) &&
    endpointOk k.sliced d.sk d.src && endpointOk k.sliced d.dk d.dst &&
    (k.sliced || (if 3 ≤ d.sk ∨ 3 ≤ d.dk then decide (d.aux < 2 ^ 32) else decide (d.aux = 0))) &&
    (decide (k = .mcst) || decide (d.res = 0)) &&
    (if d.msg then !cwReserved d.ccw false false else d.ccw == 0#64)

/-- Bytes of the source and destination extents (R302, R303). -/
def srcLen (k : CopyKind) (d : CopyDesc) : Nat :=
  match k with
  | .deal => d.len * d.ns
  | .cpye .decode => d.len / 64 * 100
  | _ => d.len
def dstLen (k : CopyKind) (d : CopyDesc) : Nat :=
  match k with
  | .gath => d.len * d.ns
  | .cpye .encE4M3 => d.len / 64 * 100
  | .cpye .encE5M2 => d.len / 64 * 100
  | _ => d.len

/-- An operand of a copy: nothing to check, or an extent with its home and, in a local region, its handle. -/
inductive Extent where
  | none
  | span (sp : Span) (region : Option (Nat × Region))
  | bad (c : FaultCode)

/-- Step 5 of R300 for one operand. -/
def State.extent (s : State) (kind v len : Nat) (need : Right) : Extent :=
  let c := s.cur.core
  match kind with
  | 0 =>
    if len = 0 then .none else
    match s.checkLocal c s.hd.entry v len need 1 with
    | .error f => .bad f
    | .ok x => .span { home := localHome c v, len := len } (some x)
  | 1 =>
    if len = 0 then .none else
    match s.checkDie c s.hd.entry (v % 32) (v / 2 ^ 32) len need with
    | .error f => .bad f
    | .ok r => .span { home := dieHome (dieOf c) (r.base + v / 2 ^ 32), len := len } none
  | 2 => if len = 0 then .none else .span { home := 2 ^ 50 + v, len := len } none
  | _ => .none

def Extent.span? : Extent → Option Span
  | .span sp _ => some sp
  | .none => Option.none
  | .bad _ => Option.none

/-- Spans of the interlock: local and die ranges, not HBM (R190). -/
def Extent.locked (e : Extent) : List Span := e.span?.toList.filter fun sp => decide (sp.home < 2 ^ 50)

/-- The slice list at `aux` (R298), none where an entry has a reserved bit set. -/
def readSlices : Nat → List Byte → Option (List (Word × Nat))
  | 0, _ => some []
  | n + 1, bs =>
    if field bs 0 1 % 16 ≠ 0 ∨ field bs 12 4 ≠ 0 then none
    else (readSlices n (bs.drop 16)).map fun t => (BitVec.ofNat 64 (field bs 0 8), field bs 8 4) :: t

/-- A completion: the local counter, then the message (R301); a secondary's comes to it as the copy of its primary's (R87).
(DEDUCED, log 24.) -/
def State.completeCopy (s : State) (core : Nat) (o : EngOp) (d : CopyDesc) (status : CopyStatus) (off a2 a3 : Nat) : State :=
  let s := if d.ljc then
    (if (s.core core).joinOf d.lj o.name then s.advanceJoin core d.lj o.name 1 else s.count core o.tenant 0x036) else s
  if d.msg ∧ !(s.actor core o.entry).isShadow o.name then
    s.arriveBuilt core { hwMsg o.name d.ccw o.ctx (BitVec.ofNat 64 (statusCode status + off * 2 ^ 32)) d.user (BitVec.ofNat 64 a2)
      (BitVec.ofNat 64 a3) with tenant := o.tenant }
  else s

/-- A ch0 completion waits at its engine while no entry is free (R40). (DEDUCED, log 19.) -/
def Core.canComplete (k : Core) (d : CopyDesc) : Bool := !d.msg || k.builtRoom d.ccw

/-- The operation brings a completion (R301). -/
def CopyDesc.completes (d : CopyDesc) : Bool := d.msg || d.ljc

/-- The completion of an operation that has ended may be taken: its message has room, and none of those that wait is before
it; the copy engine, with the aperture forms, is one source (R40). (DEDUCED, log 19.) -/
def Core.mayComplete (k : Core) (id : Nat) (d : CopyDesc) : Bool :=
  !d.completes || (k.canComplete d && k.waitDone.head?.all fun x => decide (x = id))

/-- The window bytes that a copy reaches. -/
def CopyDesc.spots (d : CopyDesc) : List Spot :=
  if d.sk ≠ 3 ∧ d.dk ≠ 3 then []
  else if d.slices.isEmpty then [{ key := BitVec.ofNat 64 (if d.dk = 3 then d.dst else d.src), off := d.aux, len := d.len }]
  else d.slices.map fun x => { key := x.1, off := x.2, len := d.len }

/-- The cores of the window ends of a copy. -/
def State.copyPlaces (s : State) (d : CopyDesc) : List (Option Nat) := d.spots.map fun x => s.keyPlace x.key

/-- The cores of this module that hold a live window of a tenant's group (R103, R200). -/
def State.groupCores (s : State) (t : Tenant) (g : Nat) : List Nat :=
  (s.cores.filter fun c => c.2.windows.any fun w => w.2.live && decide (w.2.gk = 1) &&
    w.2.grantee.setWidth 16 == BitVec.ofNat 16 g && (c.2.actor w.2.owner).tenant == t).map (·.1)

/-- Issue of a checked descriptor form: the operation, its extents, and the slice list; `ops` are what its group has read. -/
def State.issueCopy (s : State) (k : CopyKind) (d : CopyDesc) (rel : Option Scope) (ops : List (Word × Nat)) : Res :=
  let c := s.cur.core
  let src := s.extent d.sk d.src (srcLen k d) .rd
  let dst := s.extent d.dk d.dst (dstLen k d) .wr
  match src, dst with
  | .bad f, _ => s.fault f
  | _, .bad f => s.fault f
  | _, _ =>
    let overlap := match src.span?, dst.span? with | some a, some b => a.overlaps b | _, _ => false
    let busy := (src.locked ++ dst.locked).any (s.here.interlocked s.self.name s.hd.serial ·) ||
      (decide (k = .mcst) && s.readHeld d.src d.len)
    if overlap then s.fault .bounds
    else
      let q := decide (k = .mcst) || decide (k = .pull)
      let atOnce := decide (d.len = 0) && s.here.mayComplete s.here.nextId d
      if busy || (q && s.sendBlocked) then .next s.stall
      else if !q && !atOnce && decide (2 ≤ s.here.teasel.length) then .next s.stall
      else
        let reserve : Got := match dst with
          | .span _ (some (h, r)) => s.reserveView s.hdView h r d.dst (dstLen k d)
          | _ => if k = .mcst ∧ d.res ≠ 0 then
              match s.checkLocal c s.hd.entry d.res 64 .wr 64 with
              | .ok (h, r) => s.reserveView s.hdView h r d.res 64
              | .error _ => .ok s
            else .ok s
        s.got reserve fun s =>
          let kk := s.here
          let res : List Span := if k = .mcst ∧ d.res ≠ 0 then [{ home := localHome c d.res, len := 64 }] else []
          let op : EngOp := { id := kk.nextId, seq := kk.seq, entry := s.hd.entry, name := s.self.name, rec_ := s.cur.rec_,
                              serial := s.hd.serial, tenant := s.self.tenant, ctx := s.hd.ctx, slot := s.hd.slot,
                              rel := rel, fences := s.hd.fences, tfences := s.hd.tfences, pc := s.hd.pc,
                              places := s.copyPlaces d, at_ := s.mod.timeNs, reads := if k = .mcst then [] else src.locked,
                              writes := dst.locked ++ res, spots := d.spots, body := .copy k d }
          let s := s.touchOperands ops
          if d.len = 0 then
            if atOnce then (s.completeCopy c op d .ok 0 0 0).done
            else
              let ended : EngOp := { op with reads := [], writes := [], begun := true, sent := true }
              (((s.modHere fun k => { k with teasel := k.teasel ++ [ended], waitDone := k.waitDone ++ [op.id] }).bumpId c).bumpSeq c).done
          else if k = .mcst then
            let bs := match src with
              | .span _ (some (h, r)) => s.localRead s.hdView h r d.src d.len
              | _ => []
            let ro : RemoteOp := { s.remoteOp .store 0#64 d.aux d.len bs 0#64 0#64 d.cnt with group := some (BitVec.ofNat 16 d.dst) }
            let s := (s.touchLines s.hdView d.src d.len).modHere fun k => { k with
              apert := k.apert ++ [{ op with begun := true, sent := true }] }
            (s.sendRemote { s.remoteRec none s.mod.num.toNat true false (.copy kk.nextId 0) with
                desc := some d, members := s.groupCores s.self.tenant d.dst } rel
              (.multicast (BitVec.ofNat 16 d.dst) s.self.tenant ro)).done
          else if k = .pull then
            let s := s.modHere fun k => { k with apert := k.apert ++ [{ op with begun := true, sent := true }] }
            (s.sendRemote { s.remoteRec none s.mod.num.toNat false true (.copy kk.nextId 0) with
                desc := some d, members := s.groupCores s.self.tenant d.src } none
              (.pullReq (BitVec.ofNat 16 d.src) s.self.tenant d.aux d.fp (s.gcore c) kk.nextId)).done
          else
            (((s.modHere fun k => { k with teasel := k.teasel ++ [op] }).bumpId c).bumpSeq c).done

/-- A descriptor form (R298-R301). -/
def State.copyForm (s : State) (k : CopyKind) (b : Reg) (rel : Option Scope) : Res :=
  s.guardRegs [b]
    (match s.fetchOperand (s.reg b) 64 64 with
     | .fault f => s.fault f
     | .wait => .next s.stall
     | .bytes bs =>
       let d := readDesc bs
       if !descKinds k d then s.fault .bounds
       else if !descReservedOk k bs d then s.fault .bounds
       else if d.msg ∧ cwChan d.ccw = 0#2 ∧ !isSteward s.cur.core then s.fault .priv
       else if d.ljc ∧ !s.here.joinOf d.lj s.self.name then s.fault .bounds
       else if k.sliced then
         match s.fetchOperand (BitVec.ofNat 64 d.aux) (16 * d.ns) 16 with
         | .fault f => s.fault f
         | .wait => .next s.stall
         | .bytes l =>
           match readSlices d.ns l with
           | none => s.fault .bounds
           | some sl => s.issueCopy k { d with slices := sl } rel [(s.reg b, 64), (BitVec.ofNat 64 d.aux, 16 * d.ns)]
       else if k = .mcst ∧ d.res ≠ 0 then
         match s.checkLocal s.cur.core s.hd.entry d.res 64 .wr 64 with
           | .error f => s.fault f
           | .ok _ =>
             if s.lockedAt d.res 64 then .next s.stall
             else s.issueCopy k d rel [(s.reg b, 64)]
       else s.issueCopy k d rel [(s.reg b, 64)])

def execCpy (b : Reg) (s : State) : Res := s.copyForm .cpy b none
def execCpyc (b : Reg) (ord : MemOrd) (s : State) : Res := s.copyForm .cpyc b (relOf ord)
def execCpye (m : ExfMode) (b : Reg) (s : State) : Res := s.copyForm (.cpye m) b none
def execDeal (b : Reg) (ord : MemOrd) (s : State) : Res := s.copyForm .deal b (relOf ord)
def execGath (b : Reg) (s : State) : Res := s.copyForm .gath b none
def execMcst (b : Reg) (ord : MemOrd) (s : State) : Res := s.copyForm .mcst b (relOf ord)
def execPull (b : Reg) (s : State) : Res := s.copyForm .pull b none

end Sys2Proof.Machine
end

