-- ==== Sys2Proof/Machine/Dispatcher.lean ====
section
/-! DEFINITION. The dispatcher of a core (chapter 02): arrivals, the choice of the next handler, its start, pre-emption at
the end of a budget or slice, stealing, timers, the watchdog and reply deadlines (13 R269, R279, R281). -/

namespace Sys2Proof.Machine

open Sys2Proof

/-- An event that is not enabled changes nothing. (DESIGN CHOICE, log 46.) -/
def State.idle (s : State) : Res := .next s

/-- The core of a name takes packets, and so does that of the secondary, where it has one (R87, R134). -/
def State.taking (s : State) (core : Nat) (n : Name) : Bool :=
  s.awake core && match (s.actor core (nameSlot n)).role with
    | .primary c _ => s.awake c
    | _ => true

/-- Take the `n`-th packet in flight out. -/
def State.takePacket (s : State) (n : Nat) : State := { s with net := dropAt s.net n }

/-- No packet in flight before the `n`-th is of its flow (R192). -/
def State.flowFirst (s : State) (n : Nat) (p : Packet) : Bool :=
  match flowOf p with
  | none => true
  | some f => !(s.net.take n).any fun q => decide (flowOf q = some f)

/-! ### Arrivals (R41, R56, R58) -/

/-- A function's tenant: 0 for the PF and an unbound VF (R396). -/
def HostFn.tenant (f : HostFn) : Tenant := f.bound.getD 0#12

/-- The host-gateway name of a function (R396). (DEDUCED, log 14.) -/
def State.gwName (s : State) (fn : Nat) : Name :=
  BitVec.ofNat 64 (s.mod.num.toNat * 2 ^ 54 + fn * 2 ^ 46 + 0x10000 + (s.hostFn fn).tenant.toNat * 16 + 0xA)

/-- The function exists: the PF, or an enabled VF (R393, R396). -/
def State.fnExists (s : State) (fn : Nat) : Bool := decide (fn = 0) || (decide (fn ≤ 64) && (s.hostFn fn).enabled)

/-- A name of this module's gateway is one of a function that exists, with the tenant that it is bound to (R396). -/
def State.isGwName (s : State) (n : Name) : Bool :=
  let fn := bits n.toNat 46 8
  s.fnExists fn && n == s.gwName fn

/-- A 16-bit field of CNT advances; it saturates (R395). -/
def HostFn.bump (f : HostFn) (i : Nat) : HostFn :=
  if bits f.cnt (16 * i) 16 = 0xFFFF then f else { f with cnt := f.cnt + 2 ^ (16 * i) }

def HostFn.queueSize (f : HostFn) : Nat := 2 ^ bits f.hqctl.toNat 1 5

/-- Entries of the host queue that the messages in the gateway can still take: none while the queue is off or full, and all of
them while HQHEAD is no index of it (R402). -/
def HostFn.queueRoom (f : HostFn) : Nat :=
  if !f.hqctl.getLsbD 0 then 0
  else if f.hqhead.toNat < f.queueSize then (f.hqhead.toNat + f.queueSize - 1 - f.hqtail % f.queueSize) % f.queueSize
  else f.waiting.length + 1

/-- A message reaches the host gateway: it waits for its function, 64 of those that the queue has no room for with a reserve
for channel 0 (R402); under a name of no function or of another binding it is discarded (R396), and under a context id that is
never issued (R118). -/
def State.hostArrive (s : State) (m : Msg) : State :=
  let fn := bits m.dest.toNat 46 8
  if ctxBad m.ctx then s.count gateCore m.tenant 0x060
  else if !s.isGwName m.dest then s.count gateCore m.tenant 0x037
  else
    s.modHostFn fn fun f =>
      let full := (f.waiting.drop f.queueRoom).filter fun x => x.chan != 0#2
      if m.chan = 0#2 ∨ f.waiting.length < f.queueRoom ∨ full.length < 64 then { f with waiting := f.waiting ++ [m] }
      else f.bump 2

/-- A message arrives, or a router's copy of one at the core of a secondary that was asleep (R87). -/
def execMessageArrival (n : Nat) (s : State) : Res :=
  match s.net[n]? with
  | some (.msg m) =>
    let core := nameCore m.dest
    if !s.isLocal m.dest || !s.flowFirst n (.msg m) || (m.dest == s.fw.svcName && !ctxBad m.ctx) then s.idle
    else if core = hostPlace then .next ((s.takePacket n).hostArrive m)
    else if s.taking core m.dest ∧ !s.toPool core m then .next ((s.takePacket n).arrive core m)
    else s.idle
  | some (.copy core e m) =>
    if !s.awake core then s.idle
    else
      let s := s.takePacket n
      let a := s.actor core e
      .next (if a.state = .live ∧ a.name = m.dest then (s.replyMatch core e m).admitMsg core e m else s)
  | _ => s.idle

def execPoolArrival (n : Nat) (s : State) : Res :=
  match s.net[n]? with
  | some (.msg m) =>
    let core := nameCore m.dest
    if s.isLocal m.dest && s.flowFirst n (.msg m) && s.awake core && s.toPool core m then
      .next ((s.takePacket n).arrive core m)
    else s.idle
  | _ => s.idle

/-- An advance by name counts only on a counter OWNED or ARMED by that name (R284). -/
def State.advanceIn (s : State) (core : Nat) (owner : Name) (c n : Nat) : State :=
  if (s.core core).joinOf c owner then s.advanceJoin core c owner n else s.count core (nameTenant owner) 0x036

/-- An advance reaches its owner, and a replicated owner's secondary too (R87, R284). (DEDUCED, log 24 and 47.) -/
def execCounterAdvance (n : Nat) (s : State) : Res :=
  match s.net[n]? with
  | some (.advance owner c k sender) =>
    let core := nameCore owner
    if s.isLocal owner && decide (core = hostPlace) then .next ((s.takePacket n).count gateCore (nameTenant sender) 0x037)
    else if s.isLocal owner && s.taking core owner && s.flowFirst n (.advance owner c k sender) then
      let s := (s.takePacket n).advanceIn core owner c.toNat k
      match (s.actor core (nameSlot owner)).role with
      | .primary c' _ => .next (if (s.core c').joinOf c.toNat owner then s.advanceJoin c' c.toNat owner k else s)
      | _ => .next s
    else s.idle
  | _ => s.idle

/-! ### Candidates (R48-R51) -/

/-- What the dispatcher may choose. -/
inductive Cand where
  | queued (i : Nat)
  | pool (i : Nat)
  | joined (counter : Nat)
  | handler (rec : Nat)
  deriving DecidableEq, Repr

/-- A candidate with its actor, effective channel, age and rank of the mailbox's own order. -/
structure CandInfo where
  cand : Cand
  entry : Nat
  chan : Nat
  age : Nat
  deriving DecidableEq, Repr

/-- A handler header read at dispatch (R45, R46): address of the first instruction, REGS, TAGS, BUDGET. -/
structure Header where
  start : Nat
  regs : Nat
  tags : Nat
  budget : Nat
  deriving DecidableEq, Repr

inductive HeaderRead where
  | ok (h : Header)
  | empty
  | bad (addr : Nat)

/-- Bytes of a readable region of the actor, in the base view. -/
def State.readable (s : State) (core entry addr n : Nat) : Option (List Byte) :=
  match s.checkLocal core entry addr n .rd 1 with
  | .ok (h, r) => some (s.viewBytes (baseView core entry) h r addr n)
  | .error _ => none

/-- Whether the 8 bytes of a header pass R46. -/
def headerOk (v : Nat) : Bool :=
  decide (bits v 56 8 = 0x5A) && decide (bits v 16 40 = 0) && decide (bits v 10 4 = 0) && decide (bits v 6 2 = 0) &&
    decide (bits v 0 6 ≤ 32)

/-- Declared count: 0 is 8, others round up to a multiple of 8 (R46). -/
def declaredRegs (n : Nat) : Nat := if n = 0 then 8 else (n + 7) / 8 * 8

/-- The header of a handler index of an actor (R45-R47). An entry that is no multiple of 8 is no header: R45 asks for the
alignment, and neither R46 nor R222 names its lack as a cause. (DESIGN CHOICE, log 77; DEDUCED, log 40.) -/
def State.header (s : State) (core entry hidx : Nat) : HeaderRead :=
  let a := s.actor core entry
  match s.readable core entry (a.htab + 4 * hidx) 4 with
  | none => .bad (a.htab + 4 * hidx)
  | some t =>
    let h := leNat t
    if h = 0 then .empty
    else match s.readable core entry h 8 with
      | none => .bad h
      | some bs =>
        let v := leNat bs
        if h % 8 = 0 ∧ headerOk v then
          .ok { start := h + 8, regs := declaredRegs (bits v 0 6), tags := bits v 8 2, budget := bits v 14 2 }
        else .bad h

/-- Slots that FREE or reclaimable entries of the context map offer. -/
def Core.slotsLeft (k : Core) : Nat :=
  (255 - k.ctxMap.length) +
    (k.ctxMap.filter fun e => decide (e.2.state = .mapped) && decide (e.2.use = 0) && decide (k.pcells e.1 = 0)).length

/-- Whether a slot is one that a mapping may reclaim (R120). -/
def Core.reclaimable (k : Core) (slot : Nat) : Bool :=
  match Tab.get? k.ctxMap slot with
  | some e => decide (e.state = .mapped) && decide (e.use = 0) && decide (k.pcells slot = 0)
  | none => false

/-- The slots that a message's dispatch takes are to be had: one for its context, the one that it has where it is mapped, and
one for each fresh id (R51, R120, R131). -/
def Core.slotsOk (k : Core) (m : Msg) (tags : Nat) : Bool :=
  match k.slotOf m.ctx with
  | some i => decide (tags + (k.reclaimable i).toNat ≤ k.slotsLeft)
  | none => decide (tags + 1 ≤ k.slotsLeft)

/-- The fresh ids for which a message waits: a ch0 message waits for none (R51). -/
def waitTags (m : Msg) (tags : Nat) : Nat := if m.chan = 0#2 then 0 else tags

/-- The tag conditions of R51 on a message with a header that declares `tags`. -/
def Core.tagsOk (k : Core) (m : Msg) (tags : Nat) : Bool :=
  decide (waitTags m tags ≤ k.fresh.length) && k.slotsOk m (waitTags m tags)

def State.tagsOf (s : State) (core entry : Nat) (m : Msg) : Nat :=
  match s.header core entry m.hidx.toNat with
  | .ok h => h.tags
  | _ => 0

/-- An actor may take a new message (R48 conditions 1, 2 and 4). -/
def Core.actorReady (k : Core) (entry : Nat) : Bool :=
  let a := k.actor entry
  decide (a.state = .live) && k.admits a.tenant && (a.pool || !k.handlers.any fun h => decide (h.2.entry = entry))

/-- A queued message may be chosen now: tags and no recall under way (R51, R125). -/
def State.msgReady (s : State) (core entry : Nat) (m : Msg) (recalled : Option Bool) : Bool :=
  decide (recalled ≠ some false) && (s.core core).tagsOk m (s.tagsOf core entry m)

/-- The first message of an actor on a channel, by arrival. -/
def firstOn (q : List QMsg) (entry : Nat) (chan : BitVec 2) : Option (Nat × QMsg) :=
  (indexed q).find? fun x => decide (x.2.entry = entry) && x.2.msg.chan == chan

/-- The message of each channel that a tag-exhaustion stall of it would hold the others behind (R51): of the FIFO kind the
oldest, of the ordered kind the first-ranking. -/
def Core.heads (k : Core) (entry : Nat) : List (Nat × QMsg) :=
  let on (c : BitVec 2) : Option (Nat × QMsg) :=
    if mboxOrdered (k.actor entry).mbox then rankFirst k.dispCount entry ((indexed k.queue).filter fun x => x.2.msg.chan == c)
    else firstOn k.queue entry c
  (firstOn k.queue entry 0#2).toList ++ [1#2, 2#2, 3#2].filterMap on

/-- What a mailbox offers of the heads that no stall holds (R43, R48): of the FIFO kind each, of the ordered kind its ch0
message and its first-ranking entry. -/
def Core.offers (k : Core) (entry : Nat) (ready : List (Nat × QMsg)) : List (Nat × QMsg) :=
  if mboxOrdered (k.actor entry).mbox then
    (ready.filter fun x => x.2.msg.chan == 0#2) ++ (rankFirst k.dispCount entry ready).toList
  else ready

/-- The pool deque behind its tag-exhaustion stalls, each of which holds back the later messages of its channel and actor (R51):
the messages that stall, and those that do not and stand behind none that does, by their places. -/
def State.poolSplit (s : State) (core : Nat) : List (Nat × QMsg) → List (Nat × BitVec 2) → List (Nat × QMsg) × List (Nat × QMsg)
  | [], _ => ([], [])
  | x :: rest, held =>
    let key := (x.2.entry, x.2.msg.chan)
    if held.contains key then s.poolSplit core rest held
    else if s.msgReady core x.2.entry x.2.msg x.2.recalled then
      let r := s.poolSplit core rest held
      (r.1, x :: r.2)
    else
      let r := s.poolSplit core rest (key :: held)
      (x :: r.1, r.2)

/-- The fired messages of a core, by counter, with their messages (R58). -/
def Core.firedMsgs (k : Core) : List (Nat × JoinCtr × Msg) :=
  k.joins.filterMap fun j => match j.2.parked with
    | some m => if j.2.fired then some (j.1, j.2, m) else none
    | none => none

/-- A message in the tag-exhaustion stall: the actor and channel whose later messages it holds back, and its place in the
order of arrivals (R51). -/
structure Stalled where
  entry : Nat
  chan : BitVec 2
  ord : Nat
  deriving DecidableEq, Repr

/-- The stalls of the mailboxes and the deque, and those of the fired messages; a recall that runs is one of them (R51, R125).
-/
def State.queueStalls (s : State) (core : Nat) : List Stalled :=
  let k := s.core core
  let live := (k.actors.filter fun a => decide (a.2.state = .live)).map (·.1)
  let waits (x : Nat × QMsg) : Bool := !s.msgReady core x.2.entry x.2.msg x.2.recalled
  (((live.flatMap k.heads).filter waits) ++ (s.poolSplit core (indexed k.pool) []).1).map fun x =>
    { entry := x.2.entry, chan := x.2.msg.chan, ord := x.2.ord }
def State.joinStalls (s : State) (core : Nat) : List Stalled :=
  ((s.core core).firedMsgs.filter fun x => !s.msgReady core (nameSlot x.2.1.owner) x.2.2 x.2.1.recalled).map fun x =>
    { entry := nameSlot x.2.1.owner, chan := x.2.2.chan, ord := x.2.1.ord }

/-- An earlier stalled message of the actor and channel holds a message back (R51). -/
def heldBy (l : List Stalled) (entry : Nat) (chan : BitVec 2) (ord : Nat) : Bool :=
  l.any fun y => decide (y.entry = entry) && y.chan == chan && decide (y.ord < ord)

/-- The queue's candidates of one actor (R48). -/
def State.queueCands (s : State) (core entry : Nat) : List CandInfo :=
  let k := s.core core
  let stalls := s.joinStalls core
  if !k.actorReady entry then [] else
  (k.offers entry ((k.heads entry).filter fun x => s.msgReady core entry x.2.msg x.2.recalled &&
      !heldBy stalls entry x.2.msg.chan x.2.ord)).map fun x =>
    { cand := .queued x.1, entry := entry, chan := effChannel x.2.msg.chan.toNat x.2.age k.dispCount, age := x.2.age }

/-- The owner-end entry of the deque, where its actor may take it (R48, R56). -/
def State.poolCand (s : State) (core : Nat) : Option CandInfo :=
  let k := s.core core
  let stalls := s.joinStalls core
  match (s.poolSplit core (indexed k.pool) []).2.filter fun x => !heldBy stalls x.2.entry x.2.msg.chan x.2.ord with
  | [] => none
  | (i, q) :: _ =>
    if k.actorReady q.entry then
      some { cand := .pool i, entry := q.entry, chan := effChannel q.msg.chan.toNat q.age k.dispCount, age := q.age }
    else none

/-- The fired messages that may be dispatched (R48, R58). -/
def State.joinCands (s : State) (core : Nat) : List CandInfo :=
  let k := s.core core
  let stalls := s.queueStalls core ++ s.joinStalls core
  k.firedMsgs.filterMap fun x =>
    let e := nameSlot x.2.1.owner
    if k.actorReady e && s.msgReady core e x.2.2 x.2.1.recalled && !heldBy stalls e x.2.2.chan x.2.1.ord then
      some { cand := .joined x.1, entry := e, chan := effChannel x.2.2.chan.toNat x.2.1.age k.dispCount, age := x.2.1.age }
    else none

/-- All candidates of a core (R48), where a slot and a record are free. (DEDUCED, log 15.) -/
def State.candidates (s : State) (core : Nat) : List CandInfo :=
  let k := s.core core
  if k.freeSlot.isNone then [] else
  let recFree := (Tab.lowestFree k.handlers k.cfg.recs).isSome
  let entries := (k.actors.filter fun a => decide (a.2.state = .live)).map (·.1)
  let queued := if recFree then entries.flatMap (s.queueCands core) else []
  let pool := if recFree then (s.poolCand core).toList else []
  let joins := if recFree then s.joinCands core else []
  let handlers : List CandInfo := k.handlers.filterMap fun h =>
    let a := k.actor h.2.entry
    if h.2.status = .preempted ∧ a.state = .live ∧ k.admits a.tenant then
      some { cand := .handler h.1, entry := h.2.entry, chan := effChannel h.2.effChan h.2.age k.dispCount, age := h.2.age }
    else none
  queued ++ pool ++ joins ++ handlers

/-- The candidate with the least key. -/
def leastBy (f : CandInfo → Nat) : List CandInfo → Option CandInfo
  | [] => none
  | c :: t =>
    match leastBy f t with
    | none => some c
    | some d => if f d < f c then some d else some c

/-- The choice of R49: lowest effective channel, round-robin over entries from the one after the last, then the oldest. The
first entry of an ordered mailbox and a fired message of the same actor on that channel are chosen by age too: R49 names both
the oldest and the first-ranking. (DEDUCED, log 15; DESIGN CHOICE, log 64.) -/
def Core.choose (k : Core) (cs : List CandInfo) : Option CandInfo :=
  match leastBy (·.chan) cs with
  | none => none
  | some c =>
    let at_ := cs.filter fun x => decide (x.chan = c.chan)
    let from_ := (k.rr[c.chan]?.getD 63) + 1
    match leastBy (fun x => (x.entry + 64 - from_ % 64) % 64) at_ with
    | none => none
    | some e => leastBy (·.age) (at_.filter fun x => decide (x.entry = e.entry))

def State.choice (s : State) (core : Nat) : Option CandInfo := (s.core core).choose (s.candidates core)

/-- A message that its actor would take finds no slot for its context or its fresh ids (R51, R120). -/
def State.unmappable (s : State) (core entry : Nat) (m : Msg) : Bool :=
  (s.core core).actorReady entry && !(s.core core).slotsOk m (waitTags m (s.tagsOf core entry m))

/-- Messages whose mapping fails for the first time: by place in the queue, by place in the deque, and by join counter.
(DEDUCED, log 15.) -/
def State.newStalls (s : State) (core : Nat) : List Nat × List Nat × List Nat :=
  let k := s.core core
  if k.freeSlot.isNone || (Tab.lowestFree k.handlers k.cfg.recs).isNone then ([], [], [])
  else
    let live := (k.actors.filter fun a => decide (a.2.state = .live)).map (·.1)
    let joins := s.joinStalls core
    let fresh (x : Nat × QMsg) : Bool := !x.2.stalled && s.unmappable core x.2.entry x.2.msg &&
      !heldBy joins x.2.entry x.2.msg.chan x.2.ord
    (((live.flatMap k.heads).filter fresh).map (·.1), ((s.poolSplit core (indexed k.pool) []).1.filter fresh).map (·.1),
     (k.firedMsgs.filter fun x => !x.2.1.stalled && s.unmappable core (nameSlot x.2.1.owner) x.2.2 &&
        !heldBy (s.queueStalls core ++ joins) (nameSlot x.2.1.owner) x.2.2.chan x.2.1.ord).map (·.1))

/-- The tag-exhaustion stall of a message begins: its failed mapping advances CTX_STALL (R51, R120). (DEDUCED, log 15.) -/
def State.noteStalls (s : State) (core : Nat) : State :=
  let x := s.newStalls core
  let k := s.core core
  let ts := x.1.filterMap (fun i => k.queue[i]?.map (·.msg.tenant)) ++ x.2.1.filterMap (fun i => k.pool[i]?.map (·.msg.tenant)) ++
    x.2.2.filterMap fun j => (Tab.get? k.joins j).map fun c => nameTenant c.owner
  let mark (l : List Nat) (i : Nat) (q : QMsg) : QMsg := if l.contains i then { q with stalled := true } else q
  if ts.isEmpty then s
  else (s.countEach core 0x061 ts).modCore core fun k => { k with
    queue := k.queue.mapIdx (mark x.1)
    pool := k.pool.mapIdx (mark x.2.1)
    joins := Tab.mapVals k.joins fun i j => if x.2.2.contains i then { j with stalled := true } else j }

/-! ### Starting a handler (R45-R47, R51-R53) -/

/-- The message of a candidate, its recall state, and the core without it. -/
def Core.takeCand (k : Core) : Cand → Option (Msg × Option Bool × Core)
  | .queued i => k.queue[i]?.map fun q => (q.msg, q.recalled, { k with queue := dropAt k.queue i })
  | .pool i => k.pool[i]?.map fun q => (q.msg, q.recalled, { k with pool := dropAt k.pool i })
  | .joined c => match Tab.get? k.joins c with
    | none => none
    | some j => j.parked.map fun m =>
        ({ m with mflags := m.mflags ||| 0x04#8 }, j.recalled,
         { k with joins := Tab.put k.joins c { j with parked := none, fired := false, recalled := none, stalled := false } })
  | .handler _ => none

/-- Mark the recall of a candidate's records as running. -/
def Core.markRecall (k : Core) (c : Cand) (v : Option Bool) : Core :=
  match c with
  | .queued i => { k with queue := modifyAt k.queue i fun q => { q with recalled := v } }
  | .joined j => { k with joins := Tab.adjust k.joins j fun x => { x with recalled := v } }
  | _ => k

/-- Map and reserve fresh ids with their slots one by one, as many as go, and whether a mapping failed (R51, R120, R131). -/
def Core.reserveIds (k : Core) : Nat → Core × List (CtxId × Nat) × Bool
  | 0 => (k, [], false)
  | n + 1 =>
    match k.fresh with
    | [] => (k, [], false)
    | c :: t =>
      match ({ k with fresh := t }).mapCtx c with
      | none => (k, [], true)
      | some (k, i) =>
        let r := (k.addUse i).reserveIds n
        (r.1, (c, i) :: r.2.1, r.2.2)

/-- The registers at dispatch (R17). -/
def dispatchRegs (m : Msg) (stack : Nat) : Vector Word 32 :=
  Vector.ofFn fun i =>
    if i.val = 2 then BitVec.ofNat 64 stack else if i.val = 3 then m.sender else if i.val = 4 then m.a0
    else if i.val = 5 then m.a1 else if i.val = 6 then m.a2 else if i.val = 7 then m.a3 else 0#64

/-- What the EX regions of an actor hold at a dispatch, the waiting stores of its earlier handlers with it, as the new
handler, of the next serial, reads them in its context (R188, R215). (DEDUCED, log 20.) -/
def State.codeAt (s : State) (core entry : Nat) (ctx : CtxId) (slot : Nat) : Tab (List Byte) :=
  let a := s.actor core entry
  (a.regions.filter fun r => r.2.ex && !r.2.given && decide (r.2.kind < 2)).map fun r =>
    (r.1, s.readWithHeld a.name s.nextSerial { core := core, entry := entry, ctx := ctx, slot := slot } r.1 r.2 r.2.base r.2.size)

/-- The ranges of this core that a remote operation may reach: its window's, or, of a multicast, those of every live window of a
group. (DEDUCED, log 20.) -/
def State.remoteSpans (s : State) (core : Nat) (x : Spot) : List Span :=
  if x.wide then (s.core core).windows.filterMap fun w =>
    if w.2.live ∧ w.2.gk = 1 then (Tab.get? (s.actor core w.2.owner).regions w.2.handle).map fun r =>
      { home := regionHome core r + w.2.off, len := w.2.len } else none
  else (s.spotSpan x).toList

/-- What the operations and the remote stores of an actor's earlier handlers, still under way at a dispatch, write: its
fetches there come behind them (R188, R215). The handlers of a pool actor have no such order. -/
def State.lateCode (s : State) (core entry : Nat) : List Span :=
  let n := (s.actor core entry).name
  let k := s.core core
  if namePool n then []
  else (k.ops.filter fun o => o.name == n).flatMap (·.writes) ++
    (k.remotes.filter fun r => r.2.write && r.2.name == n).flatMap fun r => r.2.spot.toList.flatMap (s.remoteSpans core)

/-- The handler of a message at its dispatch (R17, R24, R26, R33, R52). -/
def newHandler (m : Msg) (a : Actor) (entry serial : Nat) (h : Header) (slotNo ctxSlot effChan now : Nat)
    (fresh : List (CtxId × Nat)) : Handler :=
  { serial := serial, entry := entry, status := .running slotNo, pc := h.start, npc := h.start,
    regs := dispatchRegs m a.stack, count := h.regs, msg := m, ctx := m.ctx, slot := ctxSlot, chan := m.chan,
    mflags := m.mflags ||| (if effChan ≠ m.chan.toNat then 0x02#8 else 0#8),
    replyName := if m.mflags.getLsbD 2 then a.name else m.sender, join := m.join, fresh := fresh, budget := h.budget,
    age := now, effChan := effChan }

/-- The record at a dispatch: what the handler has then, so that nothing is dirty relative to it (R14, R16, R17, R33). -/
def State.initRecord (s : State) (core rec : Nat) (h : Handler) : State :=
  (s.clearLines (recordHome core rec 0) recordEnd).writeItems core rec
    ((((List.finRange 32).filter fun i => h.regs[i] != 0#64).map fun i => (recordReg i.val, leBytes 8 h.regs[i].toNat)) ++
      [(recordCtl, h.ctlBytes ++ h.landBytes)])

/-- Start the handler of a chosen message (R52): slot, record, contexts, registers; its storage is freed. -/
def State.startHandler (s : State) (core : Nat) (c : CandInfo) (m : Msg) (k : Core) (h : Header) : State :=
  match k.freeSlot, Tab.lowestFree k.handlers k.cfg.recs, k.mapCtx m.ctx with
  | some slotNo, some rec, some (k, ctxSlot) =>
    let k := if m.ctx = 0#32 then k else k.addUse ctxSlot
    let r := k.reserveIds h.tags
    let k := r.1
    let a := k.actor c.entry
    let hd := { newHandler m a c.entry s.nextSerial h slotNo ctxSlot c.chan k.dispCount r.2.1 with
                code := s.codeAt core c.entry m.ctx ctxSlot, lateCode := s.lateCode core c.entry }
    let k := { k with handlers := Tab.put k.handlers rec hd, dispCount := k.dispCount + 1,
                      rr := k.rr.setIfInBounds c.chan c.entry, noCandSince := none }
    let s := ({ s.setCore core k with nextSerial := s.nextSerial + 1 }).initRecord core rec hd
    (if r.2.2 then s.count core a.tenant 0x061 else s).count core a.tenant 0x003
  | _, _, _ => s

/-- Dispatch a chosen new message: BADHIDX, a bad header, a recall, or the start of its handler (R46, R47, R125).
(DEDUCED, log 40.) -/
def State.dispatchMsg (s : State) (core : Nat) (c : CandInfo) : State :=
  match (s.core core).takeCand c.cand with
  | none => s
  | some (m, recalled, k) =>
    match s.header core c.entry m.hidx.toNat with
    | .empty => (s.setCore core k).count core m.tenant 0x034
    | .bad addr =>
      let t := (s.actor core c.entry).tenant
      (((s.setCore core k).count core t 0x020).count core t 0x02E).enterExiting core c.entry .fault 0x0E#8
        (BitVec.ofNat 64 addr) none
    | .ok h =>
      if m.ctx ≠ 0#32 ∧ (s.actor core c.entry).filterBit m.ctx ∧ recalled = none then
        (s.modCore core fun k =>
          { k.markRecall c.cand (some false) with
            recalls := k.recalls ++ [{ entry := c.entry, ctx := m.ctx, why := .dispatch }] }).count core m.tenant 0x062
      else s.startHandler core c m k h

def execDispatch (core : Nat) (s : State) : Res :=
  if !s.awake core then s.idle
  else match s.choice core with
    | none => s.idle
    | some c =>
      match c.cand with
      | .handler _ => s.idle
      | _ => .next (s.dispatchMsg core c)

def execResumption (core : Nat) (s : State) : Res :=
  match s.choice core, (s.core core).freeSlot with
  | some c, some slot =>
    match c.cand with
    | .handler rec =>
      let s := s.resume core rec slot
      .next (s.modCore core fun k => { k with rr := k.rr.setIfInBounds c.chan c.entry, noCandSince := none })
    | _ => s.idle
  | _, _ => s.idle

/-- The entry of an id on a handler's recall list is DONE. -/
def Handler.markDone (h : Handler) (c : CtxId) : Handler :=
  { h with recalls := h.recalls.map fun x => if x.1 = c then (c, true) else x }

/-- Every record of an id of an actor is in the pool: the handlers that asked for it by CTXPF find it done, in the slot or in
the record (R16, R259). -/
def State.recallDone (s : State) (core entry : Nat) (c : CtxId) : State :=
  ((s.core core).handlers.filter fun h => decide (h.2.entry = entry) && h.2.recalls.any (·.1 == c)).foldl
    (fun s h => s.modCtl core h.1 fun g => g.markDone c) s

/-- The recall of a dispatch goes on as far as cells are to be had (R125): when every record is in the pool, the messages that
waited for it may be chosen. (DEDUCED, log 15.) -/
def execDispatchRecallDone (core : Nat) (i : Nat) (s : State) : Res :=
  match (s.core core).recalls[i]? with
  | none => s.idle
  | some r =>
    if r.why ≠ .dispatch then s.idle
    else match s.performRecall core r.entry r.ctx fun _ => false with
      | .short s _ => .next s
      | .wait s => .next s
      | .done s =>
        .next ((s.recallDone core r.entry r.ctx).modCore core fun k => { k with
          recalls := dropAt k.recalls i
          queue := k.queue.map fun q =>
            if q.entry = r.entry ∧ q.msg.ctx = r.ctx ∧ q.recalled = some false then { q with recalled := some true } else q
          joins := Tab.mapVals k.joins fun _ j =>
            if j.recalled = some false ∧ nameSlot j.owner = r.entry ∧ (j.parked.map (·.ctx)) = some r.ctx then
              { j with recalled := some true } else j })

/-! ### Budgets and slices (R59-R61) -/

def execBudgetExhausted (core : Nat) (i : Nat) (s : State) : Res :=
  match Tab.get? (s.core core).handlers i with
  | none => s.idle
  | some h =>
    match budgetOf h.budget with
    | none => s.idle
    | some b => if b ≤ h.used then .next (s.preempt core i .budget) else s.idle

/-- The valid entry after the current one, in index order, round to the first (R59, R360). -/
def Core.nextSlice (k : Core) : Nat :=
  let valid := (List.range 8).filter fun i => match Tab.get? k.slices i with | some w => sliceValid w | none => false
  match valid.find? fun i => decide (k.sliceAt < i) with
  | some i => i
  | none => match valid with
    | i :: _ => i
    | [] => 0

/-- The slice of a core ends: its tenant's handlers are pre-empted, the writes of the table that came before this cycle apply,
the next entry runs (R59, R360, R364, R454). Under the open entry every moment is a boundary for the table's writes. -/
def execSliceEnd (core : Nat) (s : State) : Res :=
  let k := s.core core
  let due := match k.slice with
    | none => false
    | some w => !sliceOpen w && decide (k.sliceStart + 1000 * sliceLen w ≤ s.mod.timeNs)
  let ripe (w : Nat × Word × Nat) : Bool := decide (w.2.2 < s.now core)
  if !due && !(k.isOpen && k.sliceWrites.any ripe) then s.idle
  else
    let out := if due then (match k.slice with | some w => some (sliceTenant w) | none => none) else none
    let recs := k.handlers.filter fun h => match out with
      | some t => (k.actor h.2.entry).tenant == t && h.2.status.slot?.isSome
      | none => false
    let s := recs.foldl (fun s h => s.preempt core h.1 .slice) s
    let s := s.modCore core fun k =>
      let k := { k with slices := (k.sliceWrites.filter ripe).foldl (fun (t : Tab Word) (w : Nat × Word × Nat) => Tab.put t w.1 w.2.1) k.slices,
                        sliceWrites := k.sliceWrites.filter fun w => !ripe w }
      { k with sliceAt := k.nextSlice, sliceStart := s.mod.timeNs }
    .next s

/-! ### Stealing (R57) -/

/-- Whether two cores share a steal domain: cluster, die or module (R57). -/
def inDomain (dom a b : Nat) : Bool :=
  match dom with
  | 0 => decide (clusterOf a = clusterOf b)
  | 1 => decide (dieOf a = dieOf b)
  | _ => decide (a < 65536) && decide (b < 65536)

/-- The next victim in rotating order within the largest domain of the core's pool actors. -/
def Core.nextVictim (k : Core) (core : Nat) : Option Nat :=
  let doms := (k.actors.filter fun a => decide (a.2.state = .live) && a.2.pool).map (·.2.dom)
  match doms with
  | [] => none
  | d :: t =>
    let dom := t.foldl max d
    ((List.range 65536).map fun i => (k.lastVictim + 1 + i) % 65536).find? fun v => decide (v ≠ core) && inDomain dom core v

def execStealRequest (core : Nat) (i : Nat) (s : State) : Res :=
  let k := s.core core
  let idle := match k.noCandSince with | some c => decide (c + 16 ≤ s.now core) | none => false
  if k.stealing || !idle || k.freeSlot.isNone || (Tab.lowestFree k.handlers k.cfg.recs).isNone || (s.choice core).isSome ||
      !s.awake core then s.idle
  else if k.nextVictim core = some i then
    .next ((s.modCore core fun k => { k with lastVictim := i, stealing := true }).emit (.stealReq (s.gcore i) (s.gcore core)))
  else s.idle

def execStealRequestArrival (n : Nat) (s : State) : Res :=
  match s.net[n]? with
  | some (.stealReq v t) =>
    let victim := v % 0x20000
    let thief := t % 0x20000
    let s := s.takePacket n
    let k := s.core victim
    match k.pool.getLast? with
    | none => .next (s.emit (.stealReply t none 0))
    | some q =>
      let a := k.actor q.entry
      let b := s.actor thief q.entry
      if !k.asleep && decide (b.state = .live) && b.pool && b.tenant == a.tenant && inDomain a.dom victim thief then
        .next ((s.modCore victim fun k => { k with pool := k.pool.dropLast }).emit (.stealReply t (some q.msg) q.entry))
      else .next (s.emit (.stealReply t none 0))
  | _ => s.idle

/-- A stolen message enters the thief's deque at the owner end; where the thief's actor has died or its storage is full it is
discarded as an arrival would be: R57 says neither. (DESIGN CHOICE, log 63.) -/
def execStealReplyArrival (n : Nat) (s : State) : Res :=
  match s.net[n]? with
  | some (.stealReply t m e) =>
    let core := t % 0x20000
    if !s.awake core then s.idle else
    let s := (s.takePacket n).modCore core fun k => { k with stealing := false }
    match m with
    | none => .next s
    | some m =>
      let a := s.actor core e
      if a.state = .live ∧ a.pool then .next (s.poolPush core e { m with mflags := m.mflags ||| 0x08#8 } true)
      else .next (s.count core m.tenant 0x037)
  | _ => s.idle

/-! ### Timers, watchdog, deadlines (R269, R279, R281) -/

def execTimerExpiry (core : Nat) (i : Nat) (s : State) : Res :=
  let t := (s.core core).timer i
  match t.due with
  | none => s.idle
  | some d =>
    if d ≤ s.tickNs ∧ s.awake core then
      .next ((s.modCore core fun k => { k with timers := Tab.put k.timers i t.freed }).timerMsg core t.owner t.msg)
    else s.idle

def execWatchdogExpiry (core : Nat) (i : Nat) (s : State) : Res :=
  let a := s.actor core i
  if (a.state = .live ∨ s.outranks core i .unreachable) ∧ a.watch ≠ 0 ∧ a.watchLast + 1000 * a.watch ≤ s.tickNs then
    .next ((s.count core a.tenant 0x042).enterExiting core i .unreachable 0#8 0#64 none)
  else s.idle

/-- Of a replicated actor the primary sends the kill (R87). (DEDUCED, log 24 and 42.) -/
def execReplyDeadlineExpiry (core : Nat) (i : Nat) (s : State) : Res :=
  match Tab.get? (s.core core).waits i with
  | none => s.idle
  | some w =>
    if w.expiry ≤ s.tickNs then
      let a := s.actor core w.owner
      if a.isShadow a.name then .next (s.modCore core fun k => { k with waits := Tab.del k.waits i }) else
      let s := (s.modCore core fun k => { k with waits := Tab.del k.waits i }).count core (s.actor core w.owner).tenant 0x043
      if w.peer = 0#64 then .next (s.count core (s.actor core w.owner).tenant 0x037)
      else .next (s.transmit core (.kill w.peer .unreachable 0#8 (s.actor core w.owner).name) true)
    else s.idle

end Sys2Proof.Machine
end

