-- ==== Sys2Proof/Machine/Image.lean ====
section
/-! DEFINITION. Stored images and their loader (09 R220-R222): the checks, the placement of the regions, the copy, the
relocations, and the actor-table entry made from them (R84 steps 3 and 4, R33). -/

namespace Sys2Proof.Machine

open Sys2Proof

/-- A region descriptor of an image (R220). -/
structure ImgReg where
  size : Nat
  attr : Nat
  doff : Nat
  dlen : Nat
  deriving DecidableEq, Repr

/-- A relocation entry of an image (R220). -/
structure ImgRel where
  holder : Nat
  base : Nat
  off : Nat
  deriving DecidableEq, Repr

/-- Descriptors and relocation entries of an image. -/
def imgRegs (bs : List Byte) : List ImgReg :=
  (List.range (field bs 6 1)).map fun i =>
    { size := field bs (64 + 16 * i) 4, attr := field bs (68 + 16 * i) 2, doff := field bs (72 + 16 * i) 4,
      dlen := field bs (76 + 16 * i) 4 }

def imgRels (bs : List Byte) : List ImgRel :=
  let o := 64 + 16 * field bs 6 1
  (List.range (field bs 14 2)).map fun i =>
    { holder := field bs (o + 8 * i) 1, base := field bs (o + 8 * i + 1) 1, off := field bs (o + 8 * i + 4) 4 }

/-- A descriptor passes R222. -/
def ImgReg.ok (r : ImgReg) (ilen : Nat) : Bool :=
  !attrBad r.attr && decide (r.size ≠ 0) && decide (r.size % granule (bits r.attr 12 2) = 0) && decide (r.dlen ≤ r.size) &&
    decide (r.doff + r.dlen ≤ ilen)

/-- The checks of R222 that need no placement; `ilen` is the length given for the image. -/
def imageOk (bs : List Byte) (ilen : Nat) (pool : Bool) : Bool :=
  let nreg := field bs 6 1
  let nrel := field bs 14 2
  let hreg := field bs 12 1
  let sreg := field bs 13 1
  let hoff := field bs 16 4
  let regs := imgRegs bs
  let rel0 := 64 + 16 * nreg
  decide (64 ≤ ilen) && decide (field bs 0 4 = 0x4D49444F) && decide (field bs 4 2 = 1) && decide (field bs 7 1 = 0) &&
    decide (field bs 20 4 = 0) && decide (field bs 40 24 = 0) && decide (1 ≤ nreg) && decide (nreg ≤ 32) &&
    decide (field bs 8 4 = ilen) && decide (rel0 + 8 * nrel ≤ ilen) &&
    ((List.range nreg).all fun i => decide (field bs (70 + 16 * i) 2 = 0)) &&
    (regs.all fun r => r.ok ilen && !(pool && (decide (bits r.attr 1 1 = 1) || decide (bits r.attr 11 1 = 1)))) &&
    (match regs[hreg]? with
     | some r => decide (bits r.attr 12 2 ≠ 2) && decide (hoff % 256 = 0) && decide (hoff + 256 ≤ r.size) && decide (bits r.attr 0 1 = 1)
     | none => false) &&
    (decide (sreg = 0xFF) || (match regs[sreg]? with | some r => decide (bits r.attr 12 2 ≠ 2) | none => false)) &&
    ((List.range nrel).all fun i => decide (field bs (rel0 + 8 * i + 2) 2 = 0)) &&
    ((imgRels bs).all fun l => decide (l.base < nreg) && decide (l.off % 4 = 0) &&
      (match regs[l.holder]? with | some r => decide (l.off + 4 ≤ r.dlen) | none => false)) &&
    decide (field bs 24 8 < 2 ^ 48) && decide (field bs 24 8 % 0x10000 = 0) && decide (field bs 32 8 % 0x10000 = 0)

/-- What an actor is born with besides its image. -/
structure Birth where
  tenant : Tenant
  pool : Bool := false
  repl : Bool := false
  supv : Bool := false
  dom : Nat := 0
  supName : Name := 0#64
  restarts : BitVec 16 := 0#16
  deriving DecidableEq, Repr

/-- An actor's name (R8). -/
def State.mkName (s : State) (core entry : Nat) (inc : BitVec 16) (b : Birth) : Name :=
  BitVec.ofNat 64 (s.endpoint core * 2 ^ 38 + entry * 2 ^ 32 + inc.toNat * 65536 + b.tenant.toNat * 16 +
    (if isSteward core then 12 else b.pool.toNat * 8 + b.repl.toNat * 4) + b.supv.toNat * 2)

/-- What loading answers: the state, or the cause of failure. -/
inductive Load where
  | ok (s : State)
  | unreadable (s : State)
  | rejected
  | noSpace

/-- Place descriptors as handles `h` onward and copy their contents, none where one finds no place (R221 steps 1, 2). -/
def State.loadRegions (s : State) (core entry : Nat) (bs : List Byte) : Nat → List ImgReg → Option State
  | _, [] => some s
  | h, r :: rest =>
    match s.placeRegion core (bits r.attr 12 2) r.size with
    | none => none
    | some (base, i) =>
      let reg := attrRegion r.attr base r.size i
      let s := s.enterRegion core entry h reg
      (s.writeBytes (regionHome core reg) ((bs.drop r.doff).take r.dlen)).loadRegions core entry bs (h + 1) rest

/-- Apply relocation entries (R221 step 3). -/
def State.relocate (s : State) (core entry : Nat) : List ImgRel → State
  | [] => s
  | l :: rest =>
    match Tab.get? (s.actor core entry).regions l.holder, Tab.get? (s.actor core entry).regions l.base with
    | some r, some b =>
      let a := regionHome core r + l.off
      (s.writeBytes a (leBytes 4 ((leNat (s.readBytes a 4) + b.base) % 2 ^ 32))).relocate core entry rest
    | _, _ => s.relocate core entry rest

/-- Every non-empty handler-table entry names a good header in a region with RD and EX (R46, R222). -/
def State.headersOk (s : State) (core entry : Nat) : Bool :=
  let a := s.actor core entry
  (List.range 64).all fun i =>
    match s.header core entry i with
    | .empty => true
    | .bad _ => false
    | .ok h => match a.regionAt (h.start - 8) 8 with
      | some (_, r) => r.rd && r.ex
      | none => false

/-- The address of the first byte of a handle's region, 0 where there is none. -/
def Actor.baseOf (a : Actor) (h : Nat) : Nat := match Tab.get? a.regions h with | some r => r.base | none => 0

/-- Load an image into a FREE entry and make the entry LIVE with its next incarnation (R33, R84 steps 3 and 4, R221,
R222): the checks on the image's own bytes come first, then room, then the headers that the placed and relocated table
names. (DESIGN CHOICE, log 35.) -/
def State.loadImage (s : State) (core entry : Nat) (b : Birth) (name : Option Name) (va ilen : Nat) : Load :=
  let rd := s.hbmRead b.tenant va ilen
  let s := rd.1
  let bs := rd.2.2
  if rd.2.1 ≠ .ok then .unreadable s
  else if !imageOk bs ilen b.pool then .rejected
  else
    let inc := nextSkip0 (s.actor core entry).inc
    let n := s.mkName core entry inc b
    let a : Actor := { inc := inc, pool := b.pool, repl := b.repl, supv := b.supv, tenant := b.tenant, restarts := b.restarts,
                       name := name.getD n, supName := b.supName, dom := b.dom, ova := field bs 24 8, ovlen := field bs 32 8,
                       claimed := true }
    match (s.modActor core entry fun _ => a).loadRegions core entry bs 0 (imgRegs bs) with
    | none => .noSpace
    | some s =>
      let s := s.relocate core entry (imgRels bs)
      let s := s.modActor core entry fun a => { a with
        htab := a.baseOf (field bs 12 1) + field bs 16 4
        stack := if field bs 13 1 = 0xFF then 0 else a.baseOf (field bs 13 1) }
      if s.headersOk core entry then .ok (s.modActor core entry fun a => { a with state := .live, claimed := false })
      else .rejected

/-! ### Replicated actors (R86) -/

/-- The core at a place of a die and cluster (R11). -/
def coreAt (die cluster idx : Nat) : Nat :=
  (die / 4 * 64 + cluster / 16 * 4 + idx / 4) * 256 + (die % 4 * 64 + cluster % 16 * 4 + idx % 4)

/-- A core's number in its cluster (R11). -/
def coreIdx (core : Nat) : Nat := core / 256 % 4 * 4 + core % 256 % 4

/-- The core of a secondary: the next cluster of the die, the same number in it. -/
def twinCore (core : Nat) : Nat := coreAt (dieOf core) ((clusterOf core % 256 + 1) % 256) (coreIdx core)

/-- An entry is FREE and not claimed. -/
def Core.entryFree (k : Core) (e : Nat) : Bool := decide ((k.actor e).state = .free) && !(k.actor e).claimed

/-- The lowest FREE entry. -/
def Core.lowestEntry (k : Core) : Option Nat := (List.range 64).find? k.entryFree

/-- Load an image, and for a replicated actor its secondary beside it (R84, R86). (DEDUCED, log 19 and 40.) -/
def State.bear (s : State) (core entry : Nat) (b : Birth) (va ilen : Nat) : Load :=
  match s.loadImage core entry b none va ilen with
  | .ok s =>
    if !b.repl then .ok s
    else
      let c := twinCore core
      let k := s.core c
      match (if k.entryFree entry then some entry else k.lowestEntry) with
      | none => .noSpace
      | some e =>
        match s.loadImage c e b (some (s.actor core entry).name) va ilen with
        | .ok s =>
          .ok ((s.modActor core entry fun a => { a with role := .primary c e }).modActor c e fun a =>
            { a with role := .secondary core entry })
        | x => x
  | x => x

/-- INIT of a new actor (R38, R84 step 6). -/
def State.sendInit (s : State) (core entry : Nat) (a0 a1 a2 a3 : Word) : State :=
  let a := s.actor core entry
  s.arrive core { dest := a.name, hidx := 0#6, chan := 0#2, prio := 0#16, mflags := 0x10#8, ctx := 0#32, a0 := a0, a1 := a1,
                  a2 := a2, a3 := a3, sender := 0#64, tenant := a.tenant }

end Sys2Proof.Machine
end

