-- ==== Sys2Proof/Machine/Yarrow.lean ====
section
/-! DEFINITION. Deaths to their end and Yarrow (chapter 03): kills, signals, reclamation, resolution, the supervisor's
policy, restarts, spawns, links and monitors, and Campion's events. -/

namespace Sys2Proof.Machine

open Sys2Proof

/-! ### Signals (R72-R74) -/

/-- w1 of a signal (R73). -/
def signalWord (cls : DeathClass) (detail : BitVec 8) (restarts : BitVec 16) (down : Bool) (ref : BitVec 32) : Word :=
  BitVec.ofNat 64 (ref.toNat * 2 ^ 32 + restarts.toNat * 65536 + detail.toNat * 256 + down.toNat * 8 + cls.code)

/-- A class from its code (R73). -/
def classOf (n : Nat) : DeathClass :=
  match n with
  | 0 => .normal
  | 1 => .killed
  | 2 => .fault
  | 3 => .unreachable
  | 4 => .escalated
  | _ => .shutdown

/-- A signal reaches a holder (R74). -/
def State.react (s : State) (core entry : Nat) (dead : Name) (w1 w2 w3 : Word) : State :=
  let a := s.actor core entry
  let m : Msg := { dest := a.name, hidx := 1#6, chan := 0#2, prio := 0#16, mflags := 0x10#8, ctx := 0#32, a0 := dead, a1 := w1,
                   a2 := w2, a3 := w3, sender := 0#64, tenant := a.tenant }
  let cls := classOf (w1.toNat % 8)
  if w1.getLsbD 3 || a.trapx || a.supv then s.arrive core m
  else if cls = .normal then s
  else s.enterExiting core entry cls (w1.extractLsb' 8 8) 0#64 none

/-- The table entry of a holder that a signal names (R72). -/
def Core.signalEntry (k : Core) (slot : Nat) (dead : Name) (w1 : Word) : Option Nat :=
  if w1.getLsbD 3 then
    (k.monitors.find? fun e => decide (e.2.lslot = slot) && decide (e.2.kind = .watching) && e.2.ref == w1.extractLsb' 32 32).map (·.1)
  else (k.links.find? fun e => decide (e.2.lslot = slot) && e.2.peer == dead).map (·.1)

/-- Delete the entry of a relationship. -/
def Core.delEntry (k : Core) (mon : Bool) (i : Nat) : Core :=
  if mon then { k with monitors := Tab.del k.monitors i } else { k with links := Tab.del k.links i }

/-- The entry that a replicated holder's secondary keeps of the same relationship goes with its primary's (R87, R88).
(DEDUCED, log 24.) -/
def State.dropShadow (s : State) (core slot : Nat) (mon : Bool) (peer : Name) : State :=
  match (s.actor core slot).role with
  | .primary c e =>
    let k := s.core c
    match (if mon then k.monitors else k.links).find? fun x => decide (x.2.lslot = e) && x.2.peer == peer &&
        (!mon || decide (x.2.kind = .watching)) with
    | some (i, _) => s.modCore c fun k => k.delEntry mon i
    | none => s
  | _ => s

/-- A signal arrives at a live holder's core: its entry goes and it reacts; with no entry it is stale (R71, R72). -/
def State.signalIn (s : State) (core : Nat) (target dead : Name) (w1 w2 w3 : Word) : State :=
  let slot := nameSlot target
  let a := s.actor core slot
  let late := !w1.getLsbD 3 && !a.trapx && !a.supv && s.mortal core target (classOf (w1.toNat % 8))
  if !s.alive core target && !late then s.count core (nameTenant target) 0x037
  else match (s.core core).signalEntry slot dead w1 with
    | none => s.count core (nameTenant target) 0x047
    | some i =>
      ((s.modCore core fun k => k.delEntry (w1.getLsbD 3) i).dropShadow core slot (w1.getLsbD 3) dead).react core slot dead w1 w2 w3

def execExitSignalArrival (n : Nat) (s : State) : Res :=
  match s.net[n]? with
  | some (.signal target dead w1 w2 w3 _ _) =>
    let core := nameCore target
    let behind := (s.net.take n).any fun p => match p with
      | .msg m => m.dest == target
      | _ => false
    if s.isLocal target && decide (core = hostPlace) && (behind || s.fw.rootPending.any (·.sender == target)) then s.idle
    else if s.isLocal target && decide (core = hostPlace) then
      let m : Msg := { dest := target, hidx := 1#6, chan := 0#2, prio := 0#16, mflags := 0x10#8, ctx := 0#32, a0 := dead, a1 := w1,
                       a2 := w2, a3 := w3, sender := 0#64, tenant := nameTenant target }
      .next (((s.takePacket n).hostArrive m).modFw fun f => { f with monitors := f.monitors.filter fun g => g.root != dead })
    else if s.isLocal target && s.taking core target then .next ((s.takePacket n).signalIn core target dead w1 w2 w3)
    else s.idle
  | _ => s.idle

/-- A kill comes behind what was sent to its target before it to undo a link (R84 step 5). (DEDUCED, log 40.) -/
def State.behindUnlink (s : State) (n : Nat) (t : Name) : Bool :=
  (s.net.take n).any fun p => match p with
    | .unlink _ _ q _ => q == t
    | _ => false

def execKillArrival (n : Nat) (s : State) : Res :=
  match s.net[n]? with
  | some (.kill t cls detail sender) =>
    let core := nameCore t
    if s.isLocal t && decide (core = hostPlace) then .next ((s.takePacket n).count gateCore (nameTenant sender) 0x037)
    else if !(s.isLocal t && s.taking core t) || s.behindUnlink n t then s.idle
    else
      let s := s.takePacket n
      if s.mortal core t cls then .next (s.enterExiting core (nameSlot t) cls detail 0#64 none)
      else .next (s.count core (nameTenant sender) 0x037)
  | _ => s.idle

/-! ### Resolution (R69 steps 4 to 6, R75, R76) -/

/-- A table entry still is the one that was held for a death. -/
def HeldEnt.same (x : HeldEnt) (e : LinkEnt) : Bool :=
  e.peer == x.ent.peer && e.ref == x.ent.ref && decide (e.lslot = x.ent.lslot) && decide (e.kind = x.ent.kind)

/-- The table entry that was held for a death, where it is there still. -/
def Core.heldEntry (k : Core) (x : HeldEnt) : Option LinkEnt :=
  (Tab.get? (if x.mon then k.monitors else k.links) x.idx).filter x.same

/-- w1 of the signal of an entry (R73). -/
def Resolving.w1 (r : Resolving) (restarts : BitVec 16) (x : HeldEnt) : Word :=
  signalWord r.death.cls r.death.detail restarts x.mon (if x.mon then x.ent.ref else 0#32)

/-- One signal of a lost peer's death reaches its holder: a dead holder discards it, unless it died in this very cycle of a
cause that ranks behind (R66), and one whose entry has gone meanwhile finds it stale (R71, R72, R76, R89). -/
def State.lostSignal (s : State) (core : Nat) (r : Resolving) (w3 : Word) (restarts : BitVec 16) (x : HeldEnt) : State :=
  let e := x.ent.lslot
  let a := s.actor core e
  let late := !x.mon && !a.trapx && !a.supv && s.mortal core x.holder r.death.cls
  if !s.alive core x.holder && !late then s.count core (nameTenant x.holder) 0x037
  else match (s.core core).heldEntry x with
    | none => s.count core (nameTenant x.holder) 0x047
    | some _ =>
      let s := (s.modCore core fun k => k.delEntry x.mon x.idx).dropShadow core e x.mon r.name
      (s.count core (s.actor core e).tenant 0x044).react core e r.name (r.w1 restarts x) r.death.w2 w3

/-- One signal of an actor of this core sets out, and its held entry is free (R69 step 6, R72). -/
def State.ownSignal (s : State) (core : Nat) (r : Resolving) (w3 : Word) (restarts : BitVec 16) (x : HeldEnt) : State :=
  match (s.core core).heldEntry x with
  | none => s
  | some e =>
    let s := s.modCore core fun k => k.delEntry x.mon x.idx
    if e.kind = .watching then s
    else s.transmit core (.signal e.peer r.name (r.w1 restarts x) r.death.w2 w3 (if x.mon then .watched else .link) e.ref) true

/-- Send the signals of a resolved death and free the held entries (R69 step 6); for a lost peer, signal the local
holders (R76). -/
def State.sendSignals (s : State) (core : Nat) (r : Resolving) (w3 : Word) (restarts : BitVec 16) : State :=
  r.links.foldl (fun s x => if r.lost then s.lostSignal core r w3 restarts x else s.ownSignal core r w3 restarts x) s

/-- Some operation of an actor that reclamation waits for: begun engine operations, waiting stores (R69 step 4, R264). -/
def Core.opsLeft (k : Core) (entry : Nat) (n : Name) : Bool :=
  (k.teasel ++ k.vec ++ k.matq ++ k.sumq).any (fun o => decide (o.entry = entry) && o.name == n) ||
    k.outq.any (fun e => e.name == n && match e.body with | .localStore x .. => decide (x = entry) | _ => false)

/-- Walks that still free records of an entry (R69 step 3). -/
def Core.walksLeft (k : Core) (entry : Nat) : Bool := k.walks.any fun w => decide (w.entry = entry)

/-- LSLOT of an entry held under a dead name: no local actor's; a steward reads it as 0. R69 and R70 give it none.
(DESIGN CHOICE, log 57.) -/
def noLslot : Nat := 64

/-- Detach the link and monitor entries of an actor (R69 step 5): they stay in their tables under no local actor. -/
def Core.detach (k : Core) (entry : Nat) (name : Name) : Core × List HeldEnt :=
  let held (mon : Bool) (t : Tab LinkEnt) : List HeldEnt := (t.filter fun e => decide (e.2.lslot = entry)).map fun e =>
    { mon := mon, idx := e.1, ent := { e.2 with lslot := noLslot }, holder := name }
  let off (t : Tab LinkEnt) : Tab LinkEnt := Tab.mapVals t fun _ e => if e.lslot = entry then { e with lslot := noLslot } else e
  ({ k with links := off k.links, monitors := off k.monitors }, held false k.links ++ held true k.monitors)

/-- The entries that a secondary's core keeps for it go with it: its primary's core sends the signals (R88). -/
def Core.dropEntries (k : Core) (entry : Nat) : Core :=
  { k with links := k.links.filter fun e => decide (e.2.lslot ≠ entry), monitors := k.monitors.filter fun e => decide (e.2.lslot ≠ entry) }

/-- The regions of an actor return (R69 step 4). -/
def State.returnRegions (s : State) (core entry : Nat) : State :=
  (s.actor core entry).regions.foldl (fun s e =>
    if e.2.given then s
    else s.freeSpace core e.2) s

/-- Steps 4 to 6 of R69, the last up to the resolution request. (DEDUCED, log 18.) -/
def execRegionsReturned (core : Nat) (i : Nat) (s : State) : Res :=
  let k := s.core core
  let a := k.actor i
  match a.death with
  | none => s.idle
  | some d =>
    if a.state ≠ .exiting || k.opsLeft i a.name || k.walksLeft i || k.heldLandings.any (fun x => decide (x.entry = i)) then s.idle
    else
      let s := s.returnRegions core i
      let s := s.modCore core fun k => { k with cells := k.cells.filter fun c => decide (c.entry ≠ i)
                                                evicts := k.evicts.filter fun e => decide (e.cell.entry ≠ i)
                                                campion := k.campion.filter fun c => c.ok || decide (c.entry ≠ i)
                                                hashes := k.hashes.filter fun h => decide (h.1 ≠ i) }
      let s := s.modActor core i fun a => { a with state := .free, regions := [], recCount := 0, filter := 0#256, death := none,
                                                   role := .none }
      match a.role with
      | .secondary _ _ => .next (s.modCore core fun k => k.dropEntries i)
      | _ =>
        let x := (s.core core).detach i a.name
        let s := s.setCore core x.1
        let r : Resolving := { name := a.name, sup := a.supName, death := d, restarts := a.restarts, links := x.2,
                               asked := s.mod.timeNs }
        if a.supName = 0#64 then .next (s.sendSignals core r 0#64 a.restarts)
        else
          let s := s.modCore core fun k => { k with resolving := k.resolving ++ [r] }
          .next (s.transmit core (.resReq a.supName a.name d.cls a.restarts (s.gcore core)) true)

/-- An answer ends every resolution of the dead name at a core. -/
def State.resolved (s : State) (core : Nat) (dead : Name) (w3 : Word) (restarts : BitVec 16) : State :=
  let mine := (s.core core).resolving.filter fun r => r.name == dead
  let s := s.modCore core fun k => { k with resolving := k.resolving.filter fun r => r.name != dead }
  mine.foldl (fun s r => s.sendSignals core r w3 restarts) s

def execResolutionAnswer (n : Nat) (s : State) : Res :=
  match s.net[n]? with
  | some (.resAns g dead w3 restarts) =>
    match s.ownCore g with
    | none => s.idle
    | some core => if s.awake core then .next ((s.takePacket n).resolved core dead w3 restarts) else s.idle
  | _ => s.idle

def execResolveTmo (core : Nat) (i : Nat) (s : State) : Res :=
  match (s.core core).resolving[i]? with
  | none => s.idle
  | some r =>
    if r.asked + 1000000 ≤ s.mod.timeNs then
      let s := s.modCore core fun k => { k with resolving := dropAt k.resolving i }
      .next ((s.count core (nameTenant r.name) 0x048).sendSignals core r 0#64 r.restarts)
    else s.idle

/-! ### Child tables (R78-R83) -/

/-- A child entry (R78). -/
structure Child where
  name : Name
  image : Nat
  place : Nat
  ilen : Nat
  rclass : Nat
  cflags : Nat
  rcnt : BitVec 16
  deriving DecidableEq, Repr

/-- The table address of a supervisor, and its header. -/
def State.supTable (s : State) (core entry : Nat) : Option (Nat × List Byte) :=
  (s.actor core entry).sup.map fun t => (t, s.peek (baseView core entry) t 192)

/-- Child `i` of a table. -/
def State.child (s : State) (core entry t i : Nat) : Child :=
  let bs := s.peek (baseView core entry) (t + 192 + 32 * i) 32
  { name := BitVec.ofNat 64 (field bs 0 8), image := field bs 8 8, place := field bs 16 8, ilen := field bs 24 4,
    rclass := field bs 28 1, cflags := field bs 29 1, rcnt := BitVec.ofNat 16 (field bs 30 2) }

/-- A child entry's fields are valid (R79, R82 detail 0x02). -/
def Child.ok (c : Child) : Bool :=
  decide (c.image < 2 ^ 48) && decide (c.place < 2 ^ 26) && decide (c.rclass ≤ 2) && decide (c.cflags < 8) &&
    !(decide (bits c.cflags 2 1 = 1) && decide (bits c.cflags 0 2 ≠ 0))

/-- Number of child entries; of a table whose NCHILD is invalid, every place that a table may have. (DEDUCED, log 40.) -/
def headChildren (bs : List Byte) : Nat := if nchildOk bs then field bs 2 1 else 64

/-- The table passes the checks of R79. -/
def State.tableOk (s : State) (core entry t : Nat) (bs : List Byte) : Bool :=
  tableFieldsOk bs && (List.range (headChildren bs)).all fun i => (s.child core entry t i).ok

/-- Yarrow writes bytes of a registered table, at an offset of it (R78), and of the table of a replicated supervisor's secondary
(R87). (DEDUCED, log 24.) -/
def State.writeTable (s : State) (core entry off : Nat) (bs : List Byte) : State :=
  let at_ (s : State) (c e : Nat) : State := match (s.actor c e).sup with
    | some t => s.pokeBase c e (t + off) bs
    | none => s
  match (s.actor core entry).role with
  | .primary c e => at_ (at_ s core entry) c e
  | _ => at_ s core entry

/-- Write NAME, or RCNT, of a child (R78). -/
def State.writeName (s : State) (core entry i : Nat) (n : Name) : State :=
  s.writeTable core entry (192 + 32 * i) (leBytes 8 n.toNat)
def State.writeRcnt (s : State) (core entry i : Nat) (r : BitVec 16) : State :=
  s.writeTable core entry (192 + 32 * i + 30) (leBytes 2 r.toNat)

/-- Whether a death calls for a restart (R79). -/
def callsRestart (rclass : Nat) (cls : DeathClass) : Bool :=
  match rclass with
  | 0 => true
  | 1 => decide (cls ≠ .normal ∧ cls ≠ .shutdown)
  | _ => false

/-- A supervisor dies ESCALATED (R66, R81, R82). -/
def State.escalate (s : State) (core entry : Nat) (detail : BitVec 8) : State :=
  if !s.mortal core (s.actor core entry).name .escalated then s
  else (s.count core (s.actor core entry).tenant 0x045).enterExiting core entry .escalated detail 0#64 none

/-- Answer one request, and remember the answer (R75). -/
def State.answer (s : State) (core : Nat) (a : Ask) (w3 : Word) (restarts : BitVec 16) : State :=
  (s.transmit core (.resAns a.core a.dead w3 restarts) true).modCore core fun k => { k with
    answered := (k.answered.filter fun x => x.1 != a.dead) ++ [(a.dead, w3, restarts)] }

/-- Recorded restart times of a ring (R78). -/
def ringTimes (bs : List Byte) : List Nat := (List.range (min 16 (field bs 3 1))).map fun j => field bs (16 + 8 * j) 8

/-- The ring place a new time takes: the next free one, else the oldest. (DEDUCED, log 40.) -/
def ringPlace (bs : List Byte) : Nat :=
  let ts := ringTimes bs
  if ts.length < 16 then ts.length
  else
    let oldest := ts.foldl min (ts.headD 0)
    (ts.findIdx? (· == oldest)).getD 0

/-- The rate limit of R81: the state with the time recorded, none where it is exceeded. -/
def State.rateLimit (s : State) (core entry : Nat) (bs : List Byte) : Option State :=
  let now := s.mod.timeNs / 1000
  let recent := ((ringTimes bs).filter fun r => decide (now < r + field bs 4 4)).length
  if recent < field bs 1 1 then
    let s := s.writeTable core entry (16 + 8 * ringPlace bs) (leBytes 8 now)
    some (s.writeTable core entry 3 (leBytes 1 (min 16 (min 16 (field bs 3 1) + 1))))
  else none

/-- A restart event of child `idx` (R80): the policy stops the others it names, then the children to restart are listed. None is
restarted before all that it stopped are gone. -/
def State.startEvent (s : State) (core entry t : Nat) (bs : List Byte) (idx : Nat) : State :=
  let sup := (s.actor core entry).name
  let policy := field bs 0 1
  let all := List.range (headChildren bs)
  let ch (i : Nat) : Child := s.child core entry t i
  let inReach (i : Nat) : Bool := match policy with
    | 0 => false
    | 1 => true
    | _ => decide (idx < i)
  let stopped := all.filter fun i => decide (i ≠ idx) && inReach i && (ch i).name != 0#64
  let restart := all.filter fun i => decide (i = idx) ||
    (inReach i && (decide ((ch i).rclass = 0) || (decide ((ch i).rclass = 1) && (ch i).name != 0#64)))
  let dead := (restart.map fun i => (i, (ch i).name)).filter fun x => x.2 != 0#64
  let asked (n : Name) : Bool := (s.core core).asks.any fun a => a.dead == n
  let ev : Event := { supEntry := entry, supName := sup, todo := restart, dead := dead,
                      waits := (dead.map (·.2) ++ stopped.map fun i => (ch i).name).eraseDups.filter fun n => !asked n }
  let s := stopped.foldl (fun s i => s.transmit core (.kill (ch i).name .shutdown 0#8 sup) true) s
  let s := (stopped.filter fun i => !restart.contains i).foldl (fun s i => s.writeName core entry i 0#64) s
  s.modCore core fun k => { k with events := k.events ++ [ev] }

/-- A resolution request tells that the dead child's entry is FREE (R69 step 5, R84 step 1). -/
def Core.noteGone (k : Core) (dead : Name) : Core :=
  { k with events := k.events.map fun v => { v with waits := v.waits.filter fun n => n != dead } }

/-- Yarrow decides on a death (R75, R79 to R81), or keeps the request while an event runs. (DEDUCED, log 40.) -/
def State.decideDeath (s : State) (core : Nat) (a : Ask) : State :=
  let e := nameSlot a.sup
  let s := s.modCore core fun k => k.noteGone a.dead
  let pend (s : State) : State := s.modCore core fun k => { k with asks := k.asks ++ [a] }
  let k := s.core core
  match k.answered.find? fun x => x.1 == a.dead with
  | some x => s.answer core a x.2.1 x.2.2
  | none =>
    if !s.alive core a.sup then s.answer core a 0#64 a.restarts
    else match s.supTable core e with
      | none => s.answer core a 0#64 a.restarts
      | some (t, bs) =>
        if k.events.any (fun v => v.supName == a.sup && v.dead.any fun d => d.2 == a.dead) then pend s
        else match (List.range (headChildren bs)).find? fun i => (s.child core e t i).name == a.dead with
          | none => s.answer core a 0#64 a.restarts
          | some idx =>
            if !s.tableOk core e t bs then (pend s).escalate core e 0x02#8
            else if !callsRestart (s.child core e t idx).rclass a.cls then
              (s.writeName core e idx 0#64).answer core a 0#64 a.restarts
            else if k.events.any (fun v => v.supName == a.sup) then pend s
            else match s.rateLimit core e bs with
              | none => (pend s).escalate core e 0x00#8
              | some s => (pend s).startEvent core e t bs idx

def execResolutionRequest (n : Nat) (s : State) : Res :=
  match s.net[n]? with
  | some (.resReq sup dead cls restarts g) =>
    let core := nameCore sup
    if core = hostPlace ∧ s.isLocal sup then .next ((s.takePacket n).transmit gateCore (.resAns g dead 0#64 restarts) true)
    else if s.isLocal sup && s.awake core then
      .next ((s.takePacket n).decideDeath core { sup := sup, dead := dead, cls := cls, restarts := restarts, core := g })
    else s.idle
  | _ => s.idle

/-! ### Starts (R84, R274, R288) -/

/-- The RSTART of the secondary that answers to a primary's (R87), by its core and place. (DEDUCED, log 24.) -/
def State.twinStart (s : State) (core : Nat) (st : Start) : Option (Nat × Nat × Start) :=
  match st.n, (s.actor core st.supEntry).role with
  | some n, .primary c _ =>
    let l := (s.core c).starts
    (l.findIdx? fun x => x.supName == st.supName && decide (x.n = some n)).bind fun i => l[i]?.map fun x => (c, i, x)
  | _, _ => none

/-- An RSTART ends: its value lands, at a replicated supervisor's secondary too (R87, R288). -/
def State.landStart (s : State) (core : Nat) (st : Start) (v : Word) : State :=
  let land (s : State) (c : Nat) (x : Start) : State := match x.why with
    | .rstart rec serial idx => s.result c rec serial idx v
    | _ => s
  match s.twinStart core st with
  | some (c, i, x) => land ((land s core st).modCore c fun k => { k with starts := dropAt k.starts i }) c x
  | none => land s core st

/-- A started child that cannot be completed: escalation for a restart (R82), 0 landed for an RSTART (R288). -/
def State.startFailed (s : State) (core : Nat) (st : Start) (detail : BitVec 8) : State :=
  match st.why with
  | .restart _ => s.escalate core st.supEntry detail
  | .rstart .. => (s.count core (nameTenant st.supName) 0x04A).landStart core st 0#64
  | .spawn r => (s.count core r.tenant 0x049).transmit core (.spawnName r.fromCore r.id 0#64 detail r.sup.isSome r.tenant) true

/-- What a child's entry asks of the Yarrow that bears it. -/
def State.childReq (s : State) (core entry : Nat) (c : Child) (place : Nat) (dead : Name) : SpawnReq :=
  let a := s.actor core entry
  let k := s.core core
  { fromCore := s.gcore core, id := k.nextId, spawner := a.name, spawnerSup := a.supName, spawnerRestarts := a.restarts,
    tenant := a.tenant, image := BitVec.ofNat 48 c.image, ilen := BitVec.ofNat 32 c.ilen, place := BitVec.ofNat 26 place,
    dom := if bits c.cflags 2 1 = 1 then 1 else 0, repl := decide (bits c.cflags 0 1 = 1), supv := decide (bits c.cflags 1 1 = 1),
    pool := decide (bits c.cflags 2 1 = 1), link := true, a3 := 0#64,
    sup := some (if dead = 0#64 then c.rcnt else if c.rcnt = 0xFFFF#16 then c.rcnt else c.rcnt + 1#16, dead) }

/-- Place a child and start the copy of its image (R84 steps 1 and 2); the old entry is FREE. An RSTART of a replicated
supervisor finds NAME in use when Yarrow takes it up, that of another when it issues; of two that find it 0, both start a
child and the later NAME stands: R288 tells none of this. (DESIGN CHOICE, log 70.) -/
def State.placeChild (s : State) (core : Nat) (st : Start) : State :=
  match s.supTable core st.supEntry with
  | none => s.startFailed core st 0x02#8
  | some (t, _) =>
    let c := s.child core st.supEntry t st.child
    if st.dead = 0#64 ∧ c.name ≠ 0#64 ∧ st.n.isSome then s.landStart core st c.name
    else if !c.ok then s.startFailed core st 0x02#8
    else
      let old := st.dead != 0#64 && !s.isLost (nameModule st.dead)
      let place := if old then st.dead.toNat / 2 ^ 38 else c.place
      let req := s.childReq core st.supEntry c place st.dead
      let s := s.bumpId core
      if s.isLost (place / 65536) then s.startFailed core st 0x01#8
      else if place / 65536 = s.mod.num.toNat then
        let cc := if old then nameCore st.dead else epCore place
        let k := s.core cc
        match (if old then (if k.entryFree (nameSlot st.dead) then some (nameSlot st.dead) else none) else k.lowestEntry) with
        | none => s.startFailed core st 0x01#8
        | some e =>
          (s.modActor cc e fun a => { a with claimed := true }).modCore core fun k => { k with
            starts := k.starts ++ [{ st with core := some cc, entry := e, loading := true, req := req }] }
      else
        (s.modCore core fun k => { k with starts := k.starts ++ [{ st with loading := true, req := req }] }).transmit core
          (.spawn req) true

/-- The old entry of a dead child whose resolution request has not come is FREE as far as its supervisor's Yarrow can tell: its
module is lost, or on this module the entry itself is FREE or another's (R84 step 1). (DEDUCED, log 40.) -/
def State.oldFree (s : State) (dead : Name) : Bool :=
  s.isLost (nameModule dead) ||
    (s.isLocal dead && (let a := s.actor (nameCore dead) (nameSlot dead); decide (a.state = .free) || a.name != dead))

/-- A start that Yarrow may take up: not an RSTART of a secondary, whose primary's Yarrow performs it, nor one of a primary
whose secondary has not come to it yet (R87). (DEDUCED, log 24.) -/
def State.startReady (s : State) (core : Nat) (st : Start) : Bool :=
  !st.loading && match st.n, (s.actor core st.supEntry).role with
    | some _, .primary _ _ => (s.twinStart core st).isSome
    | some _, .secondary _ _ => false
    | _, _ => true

/-- A start of its supervisor's event is under way. -/
def Core.eventStarting (k : Core) (sup : Name) : Bool :=
  k.starts.any fun x => x.supName == sup && match x.why with | .restart _ => true | _ => false

/-- An event with no child left ends: its remaining requests and those that waited for it are decided (R80, R85). -/
def State.endEvent (s : State) (core : Nat) (ev : Event) : State :=
  let mine := (s.core core).asks.filter fun a => a.sup == ev.supName
  let s := s.modCore core fun k => { k with
    events := k.events.filter fun v => v.supName != ev.supName
    asks := k.asks.filter fun a => a.sup != ev.supName }
  mine.foldl (fun s a => s.decideDeath core a) s

def execYarrowRestartStart (core : Nat) (i : Nat) (s : State) : Res :=
  let k := s.core core
  if i < k.starts.length then
    match k.starts[i]? with
    | none => s.idle
    | some st =>
      if s.startReady core st then .next ((s.modCore core fun k => { k with starts := dropAt k.starts i }).placeChild core st)
      else s.idle
  else
    match k.events[i - k.starts.length]? with
    | none => s.idle
    | some ev =>
      if k.eventStarting ev.supName then s.idle
      else match ev.todo with
        | [] => .next (s.endEvent core ev)
        | c :: rest =>
          if !ev.waits.all s.oldFree then s.idle
          else
            let dead := ((ev.dead.find? fun d => decide (d.1 = c)).map (·.2)).getD 0#64
            let s := s.modCore core fun k => { k with events := modifyAt k.events (i - k.starts.length) fun v => { v with todo := rest, waits := [] } }
            .next (s.placeChild core { why := .restart dead, supEntry := ev.supEntry, supName := ev.supName, child := c, dead := dead })

/-- A link-table entry of a live actor. -/
def State.addLink (s : State) (core entry : Nat) (peer psup : Name) (prst : BitVec 16) : State :=
  match (s.core core).linkFree with
  | none => s
  | some i => s.modCore core fun k => { k with
      links := Tab.put k.links i { psup := psup, peer := peer, prst := prst, kind := .link, lslot := entry } }

/-- INIT of an actor of another module, sent to it as a message of hardware (R38, R84 step 6). -/
def State.initFar (s : State) (core : Nat) (n a0 a1 a2 : Word) : State :=
  s.transmit core (.msg { dest := n, hidx := 0#6, chan := 0#2, prio := 0#16, mflags := 0x10#8, ctx := 0#32, a0 := a0, a1 := a1,
                          a2 := a2, a3 := 0#64, sender := 0#64, tenant := nameTenant n }) true

/-- Step 5 of R84 at the supervisor's core, and steps 6 and 7: the link, RCNT, NAME, INIT and the answers, to the requests
that have come and to those still to come (R75). `own` is the child's core and entry where it is of this module. -/
def State.adopt (s : State) (core : Nat) (st : Start) (name : Name) (own : Option (Nat × Nat)) : State :=
  let e := st.supEntry
  match s.supTable core e with
  | none => s
  | some _ =>
    let rc := match st.req.sup with | some x => x.1 | none => 0#16
    let a := s.actor core e
    let s := s.addLink core e name a.name rc
    let s := if st.dead = 0#64 then s else s.writeRcnt core e st.child rc
    let s := s.writeName core e st.child name
    let s := s.count core a.tenant 0x04B
    let s := match own with
      | some (c, ce) => (s.modActor c ce fun x => { x with restarts := rc }).sendInit c ce a.name (rc.setWidth 64) st.dead 0#64
      | none => s.initFar core name a.name (rc.setWidth 64) st.dead
    match st.why with
    | .rstart .. => s.landStart core st name
    | _ =>
      if st.dead = 0#64 then s
      else
        let mine := (s.core core).asks.filter fun x => x.dead == st.dead
        let s := s.modCore core fun k => { k with
          asks := k.asks.filter fun x => x.dead != st.dead
          answered := (k.answered.filter fun x => x.1 != st.dead) ++ [(st.dead, name, rc)] }
        mine.foldl (fun s x => s.answer core x name rc) s

/-- The birth of a start. -/
def Start.birth (st : Start) (supName : Name) : Birth :=
  { tenant := st.req.tenant, pool := st.req.pool, repl := st.req.repl, supv := st.req.supv, dom := st.req.dom, supName := supName }

/-- A child of a supervisor of this core is loaded (R84 steps 3 to 7). -/
def State.childLoaded (s : State) (core : Nat) (st : Start) (c : Nat) : State :=
  let unclaim (s : State) : State := s.modActor c st.entry fun a => { a with claimed := false }
  match s.bear c st.entry (st.birth st.supName) st.req.image.toNat st.req.ilen.toNat with
  | .noSpace => (unclaim s).startFailed core st 0x01#8
  | .rejected => (unclaim s).startFailed core st 0x02#8
  | .unreadable s => (unclaim s).startFailed core st 0x02#8
  | .ok s =>
    let n := (s.actor c st.entry).name
    let room := if c = core then decide ((s.core core).links.length + 2 ≤ 256)
      else (s.core c).linkFree.isSome && (s.core core).linkFree.isSome
    if !room then (s.enterExiting c st.entry .shutdown 0#8 0#64 none).startFailed core st 0x03#8
    else
      let sup := s.actor core st.supEntry
      (s.addLink c st.entry st.supName sup.supName sup.restarts).adopt core st n (some (c, st.entry))

/-- The birth of an actor that another core asks for: a child of another module's supervisor carries its RCNT (R84). -/
def SpawnReq.birth (r : SpawnReq) : Birth :=
  { tenant := r.tenant, pool := r.pool, repl := r.repl, supv := r.supv, dom := r.dom,
    supName := if r.sup.isSome then r.spawner else 0#64,
    restarts := match r.sup with | some x => x.1 | none => 0#16 }

/-- A spawned actor is loaded at PLACE (R274), or the load fails. The spawner's core has its name since the first answer, so
that the link is in both tables before INIT; a child of another module gets INIT from its supervisor's Yarrow (R84 step 6),
and is killed where its own core has no link entry for it (R84 step 5). -/
def State.spawnLoaded (s : State) (core : Nat) (st : Start) (r : SpawnReq) : State :=
  let fail (s : State) (detail : BitVec 8) : State :=
    (s.modActor core st.entry fun a => { a with claimed := false }).startFailed core st detail
  let full := r.link && (s.core core).linkFree.isNone
  if full && r.sup.isNone then fail s 0x03#8
  else
    match s.bear core st.entry r.birth r.image.toNat r.ilen.toNat with
    | .noSpace => fail s 0x01#8
    | .rejected => fail s 0x02#8
    | .unreadable s => fail s 0x02#8
    | .ok s =>
      if full then (s.enterExiting core st.entry .shutdown 0#8 0#64 none).startFailed core st 0x03#8
      else
        let n := (s.actor core st.entry).name
        let s := if r.link then s.addLink core st.entry r.spawner r.spawnerSup r.spawnerRestarts else s
        let s := if r.sup.isSome then s else s.sendInit core st.entry r.spawner 0#64 0#64 r.a3
        s.transmit core (.spawnName r.fromCore r.id n 0#8 r.sup.isSome r.tenant) true

/-- The first answer of a linked spawn is still on its way over the mesh. -/
def State.ackUnderWay (s : State) (r : SpawnReq) : Bool :=
  r.link && s.net.any fun p => match p with
    | .spawnAck g id _ _ => decide (g = r.fromCore) && decide (id = r.id)
    | _ => false

/-- (DEDUCED, log 40.) -/
def execYarrowImageLoaded (core : Nat) (i : Nat) (s : State) : Res :=
  match (s.core core).starts[i]? with
  | none => s.idle
  | some st =>
    match st.core with
    | none => s.idle
    | some c =>
      if !st.loading then s.idle
      else
        let s' := s.modCore core fun k => { k with starts := dropAt k.starts i }
        match st.why with
        | .spawn r => if s.ackUnderWay r then s.idle else .next (s'.spawnLoaded core st r)
        | _ => .next (s'.childLoaded core st c)

/-- The entry for a spawned actor: the lowest FREE one, and for a child that comes back to its old core its old one (R84 step 2,
R274). -/
def State.spawnEntry (s : State) (core : Nat) (r : SpawnReq) : Option Nat :=
  let k := s.core core
  match r.sup with
  | some (_, dead) =>
    if dead ≠ 0#64 ∧ s.isLocal dead ∧ nameCore dead = core then
      if k.entryFree (nameSlot dead) then some (nameSlot dead) else none
    else k.lowestEntry
  | none => k.lowestEntry

def execSpawnRequestArrival (n : Nat) (s : State) : Res :=
  match s.net[n]? with
  | some (.spawn r) =>
    let core := epCore r.place.toNat
    if r.place.toNat / 65536 ≠ s.mod.num.toNat || !s.awake core then s.idle
    else
      let s := s.takePacket n
      match s.spawnEntry core r with
      | none => .next ((s.count core r.tenant 0x049).transmit core (.spawnAck r.fromCore r.id 0#64 r.tenant) true)
      | some e =>
        let st : Start := { why := .spawn r, core := some core, entry := e, loading := true, req := r }
        let s := s.modCore core fun k => { (k.modActor e fun a => { a with claimed := true }) with starts := k.starts ++ [st] }
        .next (s.transmit core (.spawnAck r.fromCore r.id (s.mkName core e (nextSkip0 (s.actor core e).inc) r.birth) r.tenant) true)
  | _ => s.idle

/-- The spawn of the secondary that answers to a primary's (R87), by its core and number. (DEDUCED, log 24.) -/
def State.twinOpen (s : State) (core : Nat) (o : OpenSpawn) : Option (Nat × Nat × OpenSpawn) :=
  match o.n, (s.actor core (nameSlot o.spawner)).role with
  | some n, .primary c _ =>
    ((s.core c).opens.find? fun x => x.2.spawner == o.spawner && decide (x.2.n = some n)).map fun x => (c, x.1, x.2)
  | _, _ => none

/-- The first answer of a spawn names its link entry (R274). -/
def State.ackSpawn (s : State) (core id : Nat) (o : OpenSpawn) (name : Name) : State :=
  s.modCore core fun k => { k with
    opens := Tab.put k.opens id { o with acked := true }
    links := match o.linkIdx with
      | some l => Tab.adjust k.links l fun e => { e with peer := name }
      | none => k.links }

/-- An open spawn ends with a value (R274): the value lands, and its link entry is named or freed. -/
def State.endOpen (s : State) (core id : Nat) (o : OpenSpawn) (v : Word) : State :=
  let s := s.modCore core fun k =>
    let k := { k with opens := Tab.del k.opens id }
    match o.linkIdx with
    | none => k
    | some l => if v = 0#64 then { k with links := Tab.del k.links l }
      else { k with links := Tab.adjust k.links l fun e => { e with peer := v } }
  s.result core o.rec_ o.serial o.idx v

/-- An open spawn ends, for both halves of a replicated spawner (R87, R274). -/
def State.endSpawn (s : State) (core id : Nat) (o : OpenSpawn) (v : Word) : State :=
  match s.twinOpen core o with
  | some (c, i, x) => (s.endOpen core id o v).endOpen c i x v
  | none => s.endOpen core id o v

/-- A spawned actor whose spawner has given up or died is killed (R274). -/
def State.orphan (s : State) (core : Nat) (name : Name) : State :=
  if name = 0#64 then s
  else (s.transmit core (.kill name .killed 0#8 name) true).count core (nameTenant name) 0x04C

/-- The answer about a child that another module bears reaches its supervisor's Yarrow, with the detail of R82 where it
failed, or where its module has been declared lost meanwhile (R84 step 5); one of an abandoned event is killed as its
supervisor's death kills the others (R83, R85). -/
def State.farChild (s : State) (core id : Nat) (name : Name) (detail : BitVec 8) : State :=
  match (s.core core).starts.findIdx? fun x => x.core.isNone && x.loading && decide (x.req.id = id) with
  | none => if name = 0#64 then s else s.transmit core (.kill name .shutdown 0#8 name) true
  | some i =>
    match (s.core core).starts[i]? with
    | none => s
    | some st =>
      let s := s.modCore core fun k => { k with starts := dropAt k.starts i }
      if name = 0#64 then s.startFailed core st detail
      else if s.isLost (nameModule name) then s.startFailed core st 0x01#8
      else if (s.core core).linkFree.isNone then
        ((s.transmit core (.unlink false st.supName name 0#32) true).transmit core (.kill name .shutdown 0#8 st.supName)
          true).startFailed core st 0x03#8
      else s.adopt core st name none

def execSpawnAckArrival (n : Nat) (s : State) : Res :=
  match s.net[n]? with
  | some (.spawnAck g id name _) =>
    match s.ownCore g with
    | none => s.idle
    | some core =>
      if !s.awake core then s.idle
      else
        let s := s.takePacket n
        match Tab.get? (s.core core).opens id with
        | some o =>
          if name = 0#64 then .next (s.endSpawn core id o 0#64)
          else match s.twinOpen core o with
            | some (c, i, x) => .next ((s.ackSpawn core id o name).ackSpawn c i x name)
            | none => .next (s.ackSpawn core id o name)
        | none => if name = 0#64 then .next (s.farChild core id 0#64 0x01#8) else .next s
  | _ => s.idle

def execSpawnNameArrival (n : Nat) (s : State) : Res :=
  match s.net[n]? with
  | some (.spawnName g id name detail child _) =>
    match s.ownCore g with
    | none => s.idle
    | some core =>
      if !s.awake core then s.idle
      else
        let s := s.takePacket n
        match Tab.get? (s.core core).opens id with
        | some o => .next (s.endSpawn core id o name)
        | none => .next (if child then s.farChild core id name detail else s.orphan core name)
  | _ => s.idle

/-! ### Links and monitors at the far end (R71) -/

/-- A request to a gateway name is refused; a name of no function, or of one bound otherwise now, is a dead peer's (R66, R71,
R396). -/
def execLinkRequestArrival (n : Nat) (s : State) : Res :=
  match s.net[n]? with
  | some (.linkReq mon req peer ref sup rst t) =>
    let core := nameCore peer
    if !s.flowFirst n (.linkReq mon req peer ref sup rst t) then s.idle
    else if s.isLocal peer && decide (core = hostPlace) then
      .next (((s.takePacket n).count gateCore t (if s.isGwName peer then 0x046 else 0x037)).transmit gateCore
        (.linkAns mon req peer ref false 0#64 0#16) true)
    else if !(s.isLocal peer && s.awake core) then s.idle
    else
      let s := s.takePacket n
      let k := s.core core
      let e := nameSlot peer
      let answer (s : State) (ok : Bool) : Res :=
        let a := s.actor core e
        .next (s.transmit core (.linkAns mon req peer ref ok (if ok then a.supName else 0#64) (if ok then a.restarts else 0#16)) true)
      if !s.alive core peer then answer (s.count core t 0x037) false
      else if !mon && k.links.any (fun x => decide (x.2.lslot = e) && x.2.peer == req) then answer s true
      else match (if mon then k.monFree else k.linkFree) with
        | none => answer (s.count core t 0x046) false
        | some i =>
          let ent : LinkEnt := { psup := sup, peer := req, ref := ref, prst := rst, kind := if mon then .watched else .link, lslot := e }
          answer (s.modCore core fun k =>
            if mon then { k with monitors := Tab.put k.monitors i ent } else { k with links := Tab.put k.links i ent }) true
  | _ => s.idle

def execLinkAnswerArrival (n : Nat) (s : State) : Res :=
  match s.net[n]? with
  | some (.linkAns mon req peer ref entered sup rst) =>
    let core := nameCore req
    if !(s.isLocal req && s.awake core) then s.idle
    else
      let s := s.takePacket n
      let e := nameSlot req
      let w1 := signalWord .unreachable 0#8 0#16 mon (if mon then ref else 0#32)
      if entered then
        if !s.alive core req then .next s
        else match (s.core core).signalEntry e peer w1 with
          | none => .next s
          | some i =>
            let fill (x : LinkEnt) : LinkEnt := { x with psup := sup, prst := rst }
            .next (s.modCore core fun k => if mon then { k with monitors := Tab.adjust k.monitors i fill }
              else { k with links := Tab.adjust k.links i fill })
      else .next (s.signalIn core req peer w1 0#64 0#64)
  | _ => s.idle

def execUnlinkArrival (n : Nat) (s : State) : Res :=
  match s.net[n]? with
  | some (.unlink mon holder peer ref) =>
    let core := nameCore peer
    if !(s.isLocal peer && s.awake core && s.flowFirst n (.unlink mon holder peer ref)) then s.idle
    else
      let s := s.takePacket n
      if !s.alive core peer then .next s
      else
        let e := nameSlot peer
        let hit (x : LinkEnt) : Bool := decide (x.lslot = e) && x.peer == holder && (!mon || (x.ref == ref && decide (x.kind = .watched)))
        .next (s.modCore core fun k =>
          if mon then { k with monitors := k.monitors.filter fun x => !hit x.2 }
          else { k with links := k.links.filter fun x => !hit x.2 })
  | _ => s.idle

/-! ### Campion (R87) -/

/-- The hashes of a secondary come in the order of issue (R87). -/
def execReplicaHashArrival (n : Nat) (s : State) : Res :=
  match s.net[n]? with
  | some (.hash p i h) =>
    let core := nameCore p
    let first := !(s.net.take n).any fun q => match q with
      | .hash r _ _ => r == p
      | _ => false
    if !(s.isLocal p && s.awake core && first) then s.idle
    else
      let s := s.takePacket n
      if !s.mortal core p .fault then .next s
      else
        let e := nameSlot p
        .next ((s.modCore core fun k => { k with hashes := k.hashes ++ [(e, i, h)] }).campionMeet core e i)
  | _ => s.idle

/-- A message for which no hash has come within 100 us (R87). -/
def execCampionTimeout (core : Nat) (i : Nat) (s : State) : Res :=
  match (s.core core).campion[i]? with
  | none => s.idle
  | some c =>
    if !c.ok && decide (c.since + 100000 ≤ s.mod.timeNs) && s.mortal core (s.actor core c.entry).name .fault then
      .next ((s.modCore core fun k => { k with campion := dropAt k.campion i }).diverge core c.entry 0x041 c.pc)
    else s.idle

/-! ### Overflow walks (R69 step 3, R95, R132) -/

/-- The records that a walk reads. -/
def Actor.walkArea (a : Actor) (w : Walk) : List Nat :=
  match w.kind with
  | .context c => if a.ovlen < 128 then [] else probeOffsets a.ovlen c
  | _ => (List.range (a.ovlen / 128)).map (128 * ·)

/-- The records a walk frees, read from the area. -/
def State.walkOffsets (s : State) (core : Nat) (w : Walk) : List Nat :=
  let a := s.actor core w.entry
  (a.walkArea w).filter fun o =>
    match s.hbmPeek a.tenant (a.ova + o + 64) 8 with
    | none => false
    | some bs =>
      let id := field bs 0 4
      decide (id ≠ 0) && match w.kind with
        | .context c => decide (id = c.toNat)
        | .handle h => decide (bits (field bs 4 4) 16 5 = h)
        | .all => true

/-- The walk over a dead actor's area comes behind the reading of a region that it gave away (R102). -/
def execOverflowWalkEnd (core : Nat) (i : Nat) (s : State) : Res :=
  match (s.core core).walks[i]? with
  | none => s.idle
  | some w =>
    if w.kind = .all ∧ (s.core core).teasel.any (fun o => decide (o.entry = w.entry) && match o.body with | .transfer _ => true | _ => false) then
      s.idle else
    let s' := (s.walkOffsets core w).foldl (fun s o => s.freeRecord core w.entry o)
      (s.probeArea (s.actor core w.entry) ((s.actor core w.entry).walkArea w))
    .next (s'.modCore core fun k => { k with walks := dropAt k.walks i })

end Sys2Proof.Machine
end

