-- ==== Sys2Proof/Machine/Landings.lean ====
section
/-! DEFINITION. Remote operations where they arrive and where their answers return (04 R105-R110, 05 R130, 08 R193-R196, 14
R301-R310, 27 R433, R434), the landing buffer's results (R22), work distributors, and given regions. -/

namespace Sys2Proof.Machine

open Sys2Proof

/-! ### Completions at the issuer (R194, R301, R310) -/

/-- The smallest scope seen from a core that holds a place. -/
def scopeOfPlace (core : Nat) (place : Option Nat) : Scope := widen .cl core place

/-- The smallest scopes that hold a target of a remote operation. -/
def Remote.scopes (r : Remote) (core : Nat) : List Scope :=
  scopeOfPlace core r.place :: r.members.map fun p => scopeOfPlace core (some p)

/-- A remote operation has ended DEAD: its handler learns of it, and so does every waiting FENCE.R that covers it (R310). -/
def Core.noteDead (k : Core) (core : Nat) (r : Remote) : Core :=
  { k with
    handlers := Tab.mapVals k.handlers fun _ h =>
      if h.serial = r.serial then { h with deadOps := h.deadOps ++ r.scopes core } else h
    fenceWaits := k.fenceWaits.map fun w =>
      if w.serial = r.serial ∧ r.seq < w.upto ∧ r.within w.scope core then { w with dead := true } else w }

/-- Remote fences that wait for nothing more land 1, or 0 after a DEAD operation (R310). -/
def State.settleFences (s : State) (core : Nat) : State :=
  let k := s.core core
  let waits (w : FenceWait) : Bool := k.remotesOpen s.mod.timeNs core w.serial w.scope w.upto
  let s := s.modCore core fun k => { k with fenceWaits := k.fenceWaits.filter waits }
  (k.fenceWaits.filter fun w => !waits w).foldl
    (fun s w => s.result core w.rec_ w.serial w.idx (BitVec.ofNat 64 (!w.dead).toNat)) s

/-- A copy's status takes the status of its lowest failing line (R110). -/
def EngOp.fail (o : EngOp) (off : Nat) (st : CopyStatus) : EngOp :=
  if st = .ok then o
  else if o.status = .ok ∨ off < o.failOff then { o with status := st, failOff := off } else o

/-- Change the operation with a number, wherever it is queued. -/
def Core.modOp (k : Core) (id : Nat) (f : EngOp → EngOp) : Core :=
  let g (l : List EngOp) : List EngOp := l.map fun o => if o.id = id then f o else o
  { k with teasel := g k.teasel, vec := g k.vec, apert := g k.apert }

/-- The operation leaves the copy engine. -/
def Core.dropCopy (k : Core) (id : Nat) : Core :=
  let keep (l : List EngOp) : List EngOp := l.filter fun o => decide (o.id ≠ id)
  { k with teasel := keep k.teasel, apert := keep k.apert, waitDone := k.waitDone.filter fun x => decide (x ≠ id) }

/-- An operation of the copy engine ends with its completion, and fences that waited for it may land (R301, R310): `o` bears
its status, the offset of its failing line, and in `pieces` and `a3` the last two words of its message. -/
def State.finishCopy (s : State) (core : Nat) (o : EngOp) (d : CopyDesc) : State :=
  (((s.modCore core fun k => k.dropCopy o.id).settleCells core).completeCopy core o d o.status o.failOff o.pieces o.a3).settleFences core

/-- Everything that an operation of the copy engine moves has been performed or has failed: the operation ends, or keeps its
place while its completion waits (R40). -/
def State.endCopy (s : State) (core : Nat) (o : EngOp) (d : CopyDesc) : State :=
  if (s.core core).mayComplete o.id d then s.finishCopy core o d
  else
    let o : EngOp := { o with sent := true, begun := true, reads := [], writes := [], extra := [] }
    ((s.modCore core fun k => { k.modOp o.id fun _ => o with
      waitDone := if k.waitDone.contains o.id then k.waitDone else k.waitDone ++ [o.id] }).settleCells core).settleFences core

/-- An MCST or PULL ends (R306, R307). -/
def State.endAperture (s : State) (core id : Nat) (status : CopyStatus) (a2 a3 : Nat) : State :=
  match (s.core core).apert.find? fun o => decide (o.id = id) with
  | none => s
  | some o =>
    match o.body with
    | .copy _ d => s.endCopy core { o with status := status, failOff := 0, pieces := a2, a3 := a3 } d
    | _ => s

/-- The value that lands for a load or an atomic: what it read, 0 after a rejection or DEAD (R97, R305). -/
def landValue (status : CopyStatus) (data : List Byte) : Word :=
  if status = CopyStatus.ok ∨ status = CopyStatus.ecc then BitVec.ofNat 64 (leNat data) else 0#64

/-- A remote operation completes with a status and data (R194, R305); the index of a query that ends DEAD is 0 (R55). -/
def State.completeOne (s : State) (core rid : Nat) (status : CopyStatus) (data : List Byte) : State :=
  match Tab.get? (s.core core).remotes rid with
  | none => s
  | some r =>
    let s := s.modCore core fun k => { k with remotes := Tab.del k.remotes rid }
    let s := if status = CopyStatus.dead then s.modCore core fun k => k.noteDead core r else s
    let s := match r.use with
      | .none => s
      | .land rec serial idx pidx =>
        let s := match idx with
          | some i => s.result core rec serial i (landValue status data)
          | none => s
        match pidx with
        | some j => s.result core rec serial j (BitVec.ofNat 64 (decide (status = CopyStatus.ok)).toNat)
        | none => s
      | .copy id off =>
        if r.desc.isSome then s.endAperture core id status 0 0
        else s.modCore core fun k => k.modOp id fun o =>
          let o := { o with waiting := o.waiting.filter fun x => decide (x ≠ rid) }
          if status = CopyStatus.ok then { o with extra := o.extra ++ [(off, data)] } else o.fail off status
      | .wq rec serial idx => s.result core rec serial idx (landValue status data)
    s.settleFences core

/-- The answer of one flit of a remote operation: the last ends it, with the status of the first that failed (R113, R425). -/
def State.answerOne (s : State) (core rid : Nat) (status : CopyStatus) (data : List Byte) : State :=
  match Tab.get? (s.core core).remotes rid with
  | none => s
  | some r =>
    let st := if r.st = .ok then status else r.st
    if 1 < r.parts then s.modCore core fun k => { k with remotes := Tab.put k.remotes rid { r with parts := r.parts - 1, st := st } }
    else s.completeOne core rid st data

/-- The operation of the secondary that answers to a primary's (R86, R87). (DEDUCED, log 24.) -/
def State.twinRemote (s : State) (core rid : Nat) : Option (Nat × Nat) :=
  match Tab.get? (s.core core).remotes rid with
  | none => none
  | some r =>
    match r.n, (s.actor core r.entry).role with
    | some n, .primary c e => ((s.core c).remotes.find? fun x => decide (x.2.entry = e) && decide (x.2.n = some n)).map fun x => (c, x.1)
    | _, _ => none

/-- A remote operation completes; what a primary's answer brings, its secondary receives too (R87). -/
def State.completeRemote (s : State) (core rid : Nat) (status : CopyStatus) (data : List Byte) : State :=
  match s.twinRemote core rid with
  | some (c, r) => (s.completeOne core rid status data).completeOne c r status data
  | none => s.completeOne core rid status data
def State.answerRemote (s : State) (core rid : Nat) (status : CopyStatus) (data : List Byte) : State :=
  match s.twinRemote core rid with
  | some (c, r) => (s.answerOne core rid status data).answerOne c r status data
  | none => s.answerOne core rid status data


def execRemoteResponseArrival (n : Nat) (s : State) : Res :=
  match s.net[n]? with
  | some (.response g rid _ status data) =>
    match s.ownCore g with
    | none => s.idle
    | some core =>
      if s.awake core then .next ((s.takePacket n).answerRemote core rid status data) else s.idle
  | _ => s.idle

/-- A spawn request of a secondary is answered as its primary's is (R87). -/
def State.openExpired (s : State) (core : Nat) (o : OpenSpawn) : Bool :=
  !o.acked && decide (o.since + waitLimit ≤ s.mod.timeNs) && !(s.actor core (nameSlot o.spawner)).isShadow o.spawner

def execRemoteTimeout (core : Nat) (i : Nat) (s : State) : Res :=
  match Tab.get? (s.core core).remotes i with
  | some r =>
    match r.left with
    | some t => if t + waitLimit ≤ s.mod.timeNs then .next (s.completeRemote core i .dead []) else s.idle
    | none => s.idle
  | none =>
    match Tab.get? (s.core core).opens i with
    | some o => if s.openExpired core o then .next (s.endSpawn core i o 0#64) else s.idle
    | none => s.idle

/-- A handler's landing entry takes a result (R22). -/
def Handler.takeResult (h : Handler) (r : Result) (now : Nat) : Handler :=
  if h.serial = r.serial then { h with landing := Tab.adjust h.landing r.idx fun l => { l with value := some r.value, at_ := now } }
  else h

/-- A result lands, in its handler's slot or record (R16, R22); the region of an RALLOC is usable from then on (R293). -/
def execResultArrival (core : Nat) (i : Nat) (s : State) : Res :=
  match (s.core core).results[i]? with
  | none => s.idle
  | some r =>
    let s := s.modCore core fun k => { k with results := dropAt k.results i }
    let s := match r.region with
      | some (e, h) => s.modActor core e fun a => { a with regions := Tab.adjust a.regions h fun g => { g with usable := true } }
      | none => s
    let now := s.now core
    match Tab.get? (s.core core).handlers r.rec_ with
    | some h => if h.serial = r.serial then .next (s.modCtl core r.rec_ fun h => h.takeResult r now) else .next s
    | none => .next s

/-- An earlier waiting store of the program keeps a later one behind it where they share a byte, or a line of a tagged region:
the line's cell takes what the base line holds when it is made (R121, R186, R252). -/
def storeBehind (core : Nat) (before : List OutEnt) (e : OutEnt) : Bool :=
  (e.body.storeSpan core).any fun sp => before.any fun b =>
    sameProgram (namePool e.name) e.name b.name e.serial b.serial && (b.body.storeSpan core).any sp.overlaps

/-- A store leaves the store buffer: it is performed in its context (R135, R196, R204, R252), in the region that it was
checked for, once the records of its lines are in the pool and its cell is to be had; the cells of an actor that has died
meanwhile are gone (R69). Whether it is performed, and the state. -/
def State.performStore (s : State) (core : Nat) (n : Name) (b : OutBody) : Bool × State :=
  match b with
  | .localStore entry h r ctx slot addr bs =>
    let a := s.actor core entry
    if r.tagged && ctx != 0#32 && !(decide (a.state = .live) && a.name == n) && !(s.core core).transferring entry h then (true, s)
    else match (s.core core).slotFor ctx slot with
      | none => (false, s)
      | some (k, slot) =>
        let x := (s.setCore core k).viewIn core entry ctx (b.storeSpan core).toList
        if !x.1 then (false, x.2)
        else match x.2.storeView { core := core, entry := entry, ctx := ctx, slot := slot } h r addr bs with
          | .ok t => (true, t)
          | .noCell => (false, x.2)
          | .full t => (false, t)
  | _ => (true, s)

/-- The oldest entry of the outbound queue that nothing holds leaves it; a fence that waited for it lands (R310). -/
def execOutboundRelease (core : Nat) (i : Nat) (s : State) : Res :=
  let k := s.core core
  match k.outq[i]? with
  | none => s.idle
  | some e =>
    let before := k.outq.take i
    let drop (s : State) : State := s.modCore core fun k => { k with outq := dropAt k.outq i }
    if !s.mayLeave core before e || storeBehind core before e then s.idle
    else match e.body.storeSpan core with
      | none => .next ((((drop s).leave core e).campionFlow core).settleFences core)
      | some sp =>
        if s.remoteMeets core e.name e.serial e.seq sp then s.idle
        else
          let x := s.performStore core e.name e.body
          .next (if x.1 then (drop x.2).settleCells core else x.2)

/-! ### The checks of R105 -/

/-- What the checks of an arriving operation answer. -/
inductive WinCheck where
  | ok (w : Window)
  | reject
  | dead

/-- Step 1 of R105: the window of a key. -/
def State.winStep1 (s : State) (core : Nat) (key : Word) : WinCheck :=
  match Tab.get? (s.core core).windows (keyWin key) with
  | none => .reject
  | some w =>
    if w.live && w.gen == keyGen key && keyTenant key == (s.actor core w.owner).tenant then .ok w
    else if w.dd then .dead else .reject

/-- The window of an operation's kind (R105 step 3). -/
def Window.allows (w : Window) : RemKind → Bool
  | .store => w.ww
  | .load => w.wd
  | .pull => w.wd
  | .add => w.at_
  | .swap => w.at_
  | .cas => w.at_

def RemKind.isAtomic : RemKind → Bool
  | .add => true
  | .swap => true
  | .cas => true
  | _ => false

/-- The checks of R105 in order. -/
def State.checkWindow (s : State) (core : Nat) (op : RemoteOp) : WinCheck :=
  match s.winStep1 core op.key with
  | .reject => .reject
  | .dead => .dead
  | .ok w =>
    let sender := match w.gk with
      | 0 => op.sender == w.grantee
      | 1 => (match op.group with | some g => g == w.grantee.setWidth 16 | none => false)
      | _ => op.tenant == (s.actor core w.owner).tenant
    let ext : Nat := match op.whole with
      | some x => x.off + x.len
      | none => op.off + op.len
    if sender && w.allows op.kind && decide (ext ≤ w.len) && !(op.kind.isAtomic && decide (op.off % 8 ≠ 0))
    then .ok w else .reject

/-! ### Landing (R106, R107, R130) -/

/-- The answer of an operation at its target. -/
def State.answerOp (s : State) (core : Nat) (op : RemoteOp) (member : Option Nat) (status : CopyStatus) (data : List Byte) : State :=
  match member with
  | some m => s.transmit core (.mcastAck (op.group.getD 0#16) op.tenant m status op.core op.rid) true
  | none => s.transmit core (.response op.core op.rid op.tenant status data) true

/-- A rejection (R105). -/
def State.rejectOp (s : State) (core : Nat) (op : RemoteOp) (member : Option Nat) (src : Nat) (status : CopyStatus) : State :=
  (s.count core op.tenant src).answerOp core op member status []

/-- New value of the dword of an atomic, none where it writes nothing (R305). -/
def RemoteOp.newValue (op : RemoteOp) (m : Word) : Option Word :=
  match op.kind with
  | .add => some (m + op.operand)
  | .swap => some op.operand
  | .cas => if m = op.expected then some op.operand else none
  | _ => none

/-- Read and write the bytes of a region, on the die or in a view. -/
def State.regionRead (s : State) (v : View) (h : Nat) (r : Region) (addr n : Nat) : List Byte :=
  if r.kind = 2 then s.readBytes (dieHome (dieOf v.core) addr) n else s.viewBytes v h r addr n
def State.regionWrite (s : State) (v : View) (h : Nat) (r : Region) (addr : Nat) (bs : List Byte) : Got :=
  if r.kind = 2 then .ok (s.writeBytes (dieHome (dieOf v.core) addr) bs) else s.storeView v h r addr bs

/-- Bytes of a region are read from a line with a word whose error cannot be corrected (R97, R109). -/
def State.regionEcc (s : State) (v : View) (h : Nat) (r : Region) (addr n : Nat) : Bool :=
  if r.kind = 2 then s.eccBad (dieHome (dieOf v.core) addr) n
  else (pieces addr n).any fun p =>
    (!r.tagged || v.ctx == 0#32 || s.isBare v h r p.1) && s.eccBad (localHome v.core p.1) p.2

/-- The cells that a read of a region finds are the most recently used (R124). -/
def State.touchRegion (s : State) (v : View) (h : Nat) (r : Region) (addr n : Nat) : State :=
  if r.tagged && v.ctx != 0#32 then (pieces addr n).foldl (fun s p => s.touchRead v h r p.1) s else s

/-- The region as an accepted operation finds it (R98, R108): as it was, while its owner has it or a transfer is still to read
it; without its cells once it is freed (R95, R294). (DEDUCED, log 18.) -/
def State.landRegion (s : State) (core : Nat) (x : HeldLanding) : Region :=
  let a := s.actor core x.entry
  if (s.core core).transferring x.entry x.handle || (decide (a.state = .live) && (Tab.get? a.regions x.handle).isSome) then x.region
  else { x.region with tagged := false }

/-- What the landing of an accepted operation comes to: it has been performed or rejected, and answered, or it waits for the
eviction buffer with the cells it has (R130). -/
inductive Landed where
  | done (s : State)
  | wait (s : State)

/-- Perform an accepted operation and answer it. Its context is mapped for it, and the cells of all its lines are there before
it writes the first; a rejected one changes nothing (R130). (DEDUCED, log 18.) -/
def State.land (s : State) (core : Nat) (x : HeldLanding) : Landed :=
  let op := x.op
  let r := s.landRegion core x
  match (s.core core).mapCtx op.ctx with
  | none => .done ((s.count core op.tenant 0x061).rejectOp core op x.member 0x064 .window)
  | some (k, slot) =>
    let t := s.setCore core k
    let v : View := { core := core, entry := x.entry, ctx := op.ctx, slot := slot }
    let write (bs : List Byte) (st : CopyStatus) (back : List Byte) (counted : Bool) : Landed :=
      match (t.reserveView v x.handle r x.addr bs.length).bind fun t => t.regionWrite v x.handle r x.addr bs with
      | .full u => .wait u
      | .noCell => .done (s.rejectOp core op x.member 0x064 .window)
      | .ok u =>
        let u := match x.jc with
          | some jc => if counted then u.advanceJoin core jc.toNat (s.actor core x.entry).name op.len else u
          | none => u
        .done (u.answerOp core op x.member st back)
    let st : CopyStatus := if t.regionEcc v x.handle r x.addr op.len then .ecc else .ok
    if op.kind = .store then write op.data .ok [] op.counted
    else
      let old := t.regionRead v x.handle r x.addr op.len
      let t' := t.touchRegion v x.handle r x.addr op.len
      if op.kind.isAtomic then
        match op.newValue (BitVec.ofNat 64 (leNat old)) with
        | some n => write (leBytes 8 n.toNat) st old false
        | none => .done (t'.answerOp core op x.member st old)
      else .done (t'.answerOp core op x.member st old)

/-- Whether the owner's records of the id must be recalled before the operation may land (R130). -/
def State.needsRecall (s : State) (core entry handle : Nat) (r : Region) (op : RemoteOp) (addr : Nat) : Bool :=
  r.tagged && op.ctx != 0#32 && (s.actor core entry).filterBit op.ctx &&
    (pieces addr op.len).any fun p =>
      let line := (p.1 - r.base) / 64
      let k := s.core core
      !(k.cells.any fun c => c.matchesId entry handle line op.ctx && decide (k.slotOf op.ctx = some c.slot)) &&
        !(k.evicts.any fun e => e.cell.matchesId entry handle line op.ctx)

/-- The record is of a line of the held landing. -/
def recordNeeded (x : HeldLanding) (r : Record) : Bool :=
  decide (r.2.2.1 = x.handle) && (pieces x.addr x.op.len).any fun p => decide ((p.1 - x.region.base) / 64 = r.2.2.2)

/-- The recall of an id for a landing runs. -/
def Core.landingRecall (k : Core) (entry : Nat) (c : CtxId) : Option Nat :=
  k.recalls.findIdx? fun r => decide (r.entry = entry) && r.ctx == c && decide (r.why = .landing)

/-- A held landing starts the recall of its id, whatever other recall of the id runs (R130). -/
def State.startLandingRecall (s : State) (core : Nat) (x : HeldLanding) : State :=
  if ((s.core core).landingRecall x.entry x.op.ctx).isSome then s
  else (s.count core x.op.tenant 0x062).modCore core fun k => { k with
    recalls := k.recalls ++ [{ entry := x.entry, ctx := x.op.ctx, why := .landing }] }

/-- An earlier landing on the region is held, or a summary operation that has begun reads or writes the bytes: the landing
comes behind it (R130, R182, R186). -/
def Core.landsBehind (k : Core) (core : Nat) (before : List HeldLanding) (x : HeldLanding) : Bool :=
  let home := if x.region.kind = 2 then dieHome (dieOf core) x.addr else localHome core x.addr
  before.any (fun y => decide (y.entry = x.entry) && y.region.same x.region) ||
    k.sumq.any fun o => o.begun && (o.reads ++ o.writes).any fun sp => sp.overlaps { home := home, len := x.op.len }

/-- A landing is kept at its owner's core (R130). -/
def State.holdLanding (s : State) (core : Nat) (x : HeldLanding) : State :=
  s.modCore core fun k => { k with heldLandings := k.heldLandings ++ [x] }

/-- An accepted operation lands, or is held for the recall of its id, behind earlier ones, or for the eviction buffer (R130). -/
def State.landOrHold (s : State) (core : Nat) (x : HeldLanding) : State :=
  if s.needsRecall core x.entry x.handle (s.landRegion core x) x.op x.addr then (s.startLandingRecall core x).holdLanding core x
  else if (s.core core).landsBehind core (s.core core).heldLandings x then s.holdLanding core x
  else match s.land core x with
    | .done t => t.settleCells core
    | .wait t => t.holdLanding core x

/-- The checks of R105 on an operation, and what it lands as: or the counter that its rejection advances, with its status. -/
def State.accept (s : State) (core : Nat) (op : RemoteOp) (member : Option Nat) : Except (Nat × CopyStatus) HeldLanding :=
  match s.checkWindow core op with
  | .dead => .error (0x037, .dead)
  | .reject => .error (0x053, .window)
  | .ok w =>
    match Tab.get? (s.actor core w.owner).regions w.handle with
    | none => .error (0x053, .window)
    | some r => .ok { op := op, entry := w.owner, handle := w.handle, region := r, addr := r.base + w.off + op.off,
                      jc := if w.cn then some w.jc else none, member := member }

/-- A flit of an operation of several comes in: the checks were made once, on the whole, when its first flit came (R105, R108,
R113). (DEDUCED, log 18.) -/
def State.flitIn (s : State) (core : Nat) (y : OpenOp) (op : RemoteOp) : State :=
  let mine (z : OpenOp) : Bool := decide (z.core = y.core) && decide (z.id = y.id)
  let less (z : OpenOp) : OpenOp := if mine z then { z with left := z.left - op.len } else z
  let s := s.modCore core fun k => { k with openOps := (k.openOps.map less).filter fun z => decide (z.left ≠ 0) }
  match y.into with
  | none => s.answerOp core op none y.status []
  | some x => s.landOrHold core { x with op := op, addr := x.addr + op.off - x.op.off }

/-- An operation arrives at its window (R105, R113, R130). (DEDUCED, log 18.) -/
def State.remoteIn (s : State) (core : Nat) (op : RemoteOp) (member : Option Nat) : State :=
  match op.whole with
  | none =>
    match s.accept core op member with
    | .error (src, st) => s.rejectOp core op member src st
    | .ok x => s.landOrHold core x
  | some w =>
    match (s.core core).openOps.find? fun y => decide (y.core = op.core) && decide (y.id = w.id) with
    | some y => s.flitIn core y op
    | none =>
      let y : OpenOp := { core := op.core, id := w.id, left := w.len, since := s.mod.timeNs }
      let enter (s : State) (y : OpenOp) : State :=
        (s.modCore core fun k => { k with openOps := k.openOps ++ [y] }).flitIn core y op
      match s.accept core op member with
      | .error (src, st) => enter (s.count core op.tenant src) { y with status := st }
      | .ok x => enter s { y with into := some x }

/-- The core of a window key of this module. -/
def State.keyCore (s : State) (key : Word) : Option Nat := s.keyPlace key

/-- Remote operations of one sender that reach the same bytes land in the order in which they were sent (R186).
(DEDUCED, log 53.) -/
def execRemoteOpArrival (n : Nat) (s : State) : Res :=
  match s.net[n]? with
  | some (.remote op) =>
    match s.keyCore op.key with
    | some core =>
      if s.awake core && !s.remoteBehind (s.net.take n) (.remote op) then .next ((s.takePacket n).remoteIn core op none)
      else s.idle
    | none => s.idle
  | some (.combined ops) =>
    match ops with
    | [] => .next (s.takePacket n)
    | o :: rest => match s.keyCore o.key with
      | some core =>
        if s.awake core && !s.remoteBehind (s.net.take n) (.combined (o :: rest)) then
          .next (ops.foldl (fun s op => s.remoteIn core op none) (s.takePacket n))
        else s.idle
      | none => s.idle
  | _ => s.idle

/-- A held landing is performed once the recall of its id has ended and the eviction buffer takes what must leave (R130);
without a cell for it, or for a record of its lines, it is rejected. (DEDUCED, log 18.) -/
def execHeldLandingRelease (core : Nat) (i : Nat) (s : State) : Res :=
  let k := s.core core
  match k.heldLandings[i]? with
  | none => s.idle
  | some x =>
    let drop (s : State) : State := s.modCore core fun k => { k with heldLandings := dropAt k.heldLandings i }
    let finish (s : State) : Res := .next (((drop s).unreserve core).settleFreeing core)
    let land (s : State) : Res := match s.land core x with
      | .done t => .next (((drop t).settleCells core).settleFreeing core)
      | .wait t => .next t
    if k.landsBehind core (k.heldLandings.take i) x then s.idle
    else match k.landingRecall x.entry x.op.ctx with
      | some j =>
        let ended (s : State) : State := s.modCore core fun k => { k with recalls := dropAt k.recalls j }
        match s.performRecall core x.entry x.op.ctx (recordNeeded x) with
        | .wait t => .next t
        | .done t => land (ended (t.recallDone core x.entry x.op.ctx))
        | .short t _ =>
          if (t.records core x.entry x.op.ctx).any (recordNeeded x) then finish ((ended t).rejectOp core x.op x.member 0x064 .window)
          else land (ended t)
      | none =>
        if s.needsRecall core x.entry x.handle (s.landRegion core x) x.op x.addr then .next (s.startLandingRecall core x) else land s

/-! ### Multicast members and pull reads (R433, R434) -/

def execMulticastArrival (n : Nat) (s : State) : Res :=
  match s.net[n]? with
  | some (.mcastMember m op) =>
    match s.keyCore op.key with
    | some core =>
      if s.awake core && !s.remoteBehind (s.net.take n) (.mcastMember m op) then .next ((s.takePacket n).remoteIn core op (some m))
      else s.idle
    | none => s.idle
  | _ => s.idle

/-- A tenant is confidential (R411). -/
def State.confidential (s : State) (t : Tenant) : Bool :=
  match Tab.get? s.fw.tenants t.toNat with
  | some r => r.confidential
  | none => false

/-- A pull read at a member's window (R434): one that fails steps 1 or 4 of R105 is rejected and counted as R105 has it; one
that finds PB or WD clear is answered WINDOW, and counts nowhere. The status of every failure is WINDOW (R434). (DEDUCED, log
61.) -/
def execPullReadArrival (n : Nat) (s : State) : Res :=
  match s.net[n]? with
  | some (.pullRead g m key off t c rid) =>
    match s.keyCore key with
    | none => s.idle
    | some core =>
      if !s.awake core then s.idle
      else
        let s := s.takePacket n
        let reply (st : CopyStatus) (bs : List Byte) : Res :=
          .next (s.transmit core (.pullReply g t m st bs (!s.confidential t) c rid) true)
        let fail (src : Nat) : Res := .next ((s.count core t src).transmit core (.pullReply g t m .window [] (!s.confidential t) c rid) true)
        match s.winStep1 core key with
        | .dead => fail 0x037
        | .reject => fail 0x053
        | .ok w =>
          if w.len < off + 256 then fail 0x053
          else if w.pb ∧ w.wd then
            match Tab.get? (s.actor core w.owner).regions w.handle with
            | some r =>
              let v := baseView core w.owner
              let addr := r.base + w.off + off
              if s.regionEcc v w.handle r addr 256 then reply .ecc [] else reply .ok (s.regionRead v w.handle r addr 256)
            | none => fail 0x053
          else reply .window []
  | _ => s.idle

/-- The status of an MCST from its merged acknowledgement (R306): a switch that holds no such group answers DEAD with no
member (R432), which R306's "OK when no member failed" would turn into OK; the answer's own STATUS is followed there. (DESIGN
CHOICE, log 69.) -/
def mcstStatus (status : CopyStatus) (members failed : Nat) (allWindow : Bool) : CopyStatus :=
  if status = .dead ∧ members = 0 then .dead else if failed = 0 then .ok else if allWindow then .window else .dead

/-- The remote operation of an aperture form is answered: its operation ends with a status and the last two words of its message
(R306, R307). -/
def State.apertureOne (s : State) (core rid : Nat) (status : CopyStatus) (a2 a3 : Nat) : State :=
  match Tab.get? (s.core core).remotes rid with
  | none => s
  | some r =>
    let s := s.modCore core fun k => { k with remotes := Tab.del k.remotes rid }
    let s := if status = .dead then s.modCore core fun k => k.noteDead core r else s
    (s.endAperture core rid status a2 a3).settleFences core

def State.apertureDone (s : State) (core rid : Nat) (status : CopyStatus) (a2 a3 : Nat) : State :=
  match s.twinRemote core rid with
  | some (c, r) => (s.apertureOne core rid status a2 a3).apertureOne c r status a2 a3
  | none => s.apertureOne core rid status a2 a3

/-- The view of an operation's issuer at its issue (R135). -/
def EngOp.view (o : EngOp) (core : Nat) : View := { core := core, entry := o.entry, ctx := o.ctx, slot := o.slot }

/-- An operation finds its context's slot, its own or a fresh mapping, and the records of what it reads and writes in the pool
(R125, R132, R135, R203): whether it may go on, the state, and the operation in its slot. -/
def State.opView (s : State) (core : Nat) (o : EngOp) (sps : List Span) : Bool × State × EngOp :=
  match (s.core core).slotFor o.ctx o.slot with
  | none => (false, s, o)
  | some (k, slot) =>
    let x := (s.setCore core k).viewIn core o.entry o.ctx sps
    (x.1, x.2, { o with slot := slot })

/-- Earlier fences let the operation move (R196). -/
def Core.fencesMet (k : Core) (now core : Nat) (o : EngOp) : Bool :=
  o.fences.all fun f => !k.writePending now core o.name o.serial f.1 (min f.2 o.seq) &&
    !k.readPending now core o.name o.serial f.1 (min f.2 o.seq)

/-- The issuer of an operation still lives under its name. -/
def State.issuerLives (s : State) (core : Nat) (o : EngOp) : Bool := decide ((s.actor core o.entry).state = .live) && (s.actor core o.entry).name == o.name

/-- An earlier store of the operation's program that waits in the store buffer, or an earlier remote write of it that has not
been performed, reaches one of the ranges: the operation comes behind it (R186, R190). -/
def State.opHeld (s : State) (core : Nat) (o : EngOp) (sps : List Span) : Bool :=
  sps.any fun sp => (s.core core).storeHeld core o.name o.serial o.seq sp || s.remoteMeets core o.name o.serial o.seq sp

/-- Write what an aperture form brings its issuer, while that lives and still waits for it: whether it is written, and the
state. -/
def State.apertureWrite (s : State) (core rid : Nat) (addr : CopyDesc → Nat) (bs : List Byte) : Bool × State :=
  match (s.core core).apert.find? fun o => decide (o.id = rid) with
  | some o => match o.body with
    | .copy _ d =>
      let sp : Span := { home := localHome core (addr d), len := bs.length }
      if addr d = 0 ∨ !s.issuerLives core o ∨ (Tab.get? (s.core core).remotes rid).isNone then (true, s)
      else if s.opHeld core o [sp] then (false, s)
      else
        let x := s.opView core o [sp]
        if !x.1 then (false, x.2.1)
        else match x.2.1.poke (x.2.2.view core) (addr d) bs with
          | .ok t => (true, t)
          | .noCell => (false, x.2.1)
          | .full _ => (false, x.2.1)
    | _ => (true, s)
  | none => (true, s)

/-- The same for both halves of a replicated issuer (R87). -/
def State.apertureWrites (s : State) (core rid : Nat) (addr : CopyDesc → Nat) (bs : List Byte) : Bool × State :=
  let x := s.apertureWrite core rid addr bs
  match s.twinRemote core rid with
  | some (c, r) => if x.1 then x.2.apertureWrite c r addr bs else x
  | none => x

/-- The merged acknowledgement of an MCST: its bitmap is written at RES and the operation completes, with the STATUS of a switch
that holds no such group where that is not OK (R306, R432, R433). (DESIGN CHOICE, log 69.) -/
def execMergedAckArrival (n : Nat) (s : State) : Res :=
  match s.net[n]? with
  | some (.mergedAck g rid status bitmap members failed allWindow) =>
    match s.ownCore g with
    | none => s.idle
    | some core =>
      if !s.awake core then s.idle
      else
        let x := s.apertureWrites core rid (·.res) (leBytes 64 bitmap.toNat)
        if !x.1 then .next x.2
        else .next ((x.2.takePacket n).apertureDone core rid (mcstStatus status members failed allWindow) members failed)
  | _ => s.idle

def execReducedLineArrival (n : Nat) (s : State) : Res :=
  match s.net[n]? with
  | some (.reduced g rid status line contributors members) =>
    match s.ownCore g with
    | none => s.idle
    | some core =>
      if !s.awake core then s.idle
      else
        let x := if status = .ok then s.apertureWrites core rid (·.dst) line else (true, s)
        if !x.1 then .next x.2
        else .next ((x.2.takePacket n).apertureDone core rid status contributors members)
  | _ => s.idle

/-! ### Given regions (R100) -/

/-- A transfer arrives; its source is freed behind it, whatever became of it (R99, R101). -/
def execTransferComplete (n : Nat) (s : State) : Res :=
  match s.net[n]? with
  | some (.transfer t) =>
    let core := nameCore t.dest
    let done (s : State) : Res := .next ((s.takePacket n).freeSource t)
    if s.isLocal t.dest && decide (core = hostPlace) then done (s.discardTransfer gateCore t)
    else if s.isLocal t.dest && s.taking core t.dest && s.flowFirst n (.transfer t) then done (s.receiveTransfer t) else s.idle
  | _ => s.idle

/-! ### Work distributors (R309) -/

/-- The distributor a handle names on a die, where it is in use under its generation. -/
def Die.distOf (d : Die) (h : Word) : Option Distributor :=
  match Tab.get? d.dists (bits h.toNat 0 6) with
  | some x => if x.busy ∧ x.gen = h.extractLsb' 32 16 ∧ !handleBad h then some x else none
  | none => none

/-- The landed index (R309). -/
def Distributor.index (d : Distributor) : Word :=
  BitVec.ofNat 64 (d.next + d.next % d.x * 2 ^ 32 + d.next / d.x * 2 ^ 48)

/-- A close of the distributor that a handle names is on its way there. -/
def State.closing (s : State) (h : Word) : Bool :=
  s.net.any fun p => match p with
    | .wqClose x _ _ _ => x == h
    | _ => false

/-- A close that meets a query comes first (R311). -/
def execWqQueryArrival (n : Nat) (s : State) : Res :=
  match s.net[n]? with
  | some (.wqQuery h t g rid) =>
    if nameModule h ≠ s.mod.num.toNat ∨ s.closing h then s.idle
    else
      let s := s.takePacket n
      let die := bits h.toNat 50 4
      let reply (s : State) (v : Word) : Res := .next (s.transmit (dieCore die) (.response g rid t .ok (leBytes 8 v.toNat)) true)
      match (s.die die).distOf h with
      | none => reply (s.count (dieCore die) t 0x056) (BitVec.allOnes 64)
      | some d =>
        if d.tenant ≠ t then reply (s.count (dieCore die) t 0x056) (BitVec.allOnes 64)
        else if d.x * d.y ≤ d.next then reply s (BitVec.allOnes 64)
        else reply (s.modDie die fun x => { x with dists := Tab.put x.dists (bits h.toNat 0 6) { d with next := d.next + 1 } }) d.index
  | _ => s.idle

/-- The close is answered so that the remote fence of its handler covers it (R310); the issuer learns nothing else. -/
def execWqCloseArrival (n : Nat) (s : State) : Res :=
  match s.net[n]? with
  | some (.wqClose h owner g rid) =>
    if nameModule h ≠ s.mod.num.toNat then s.idle
    else
      let s := s.takePacket n
      let die := bits h.toNat 50 4
      let reply (s : State) : Res := .next (s.transmit (dieCore die) (.response g rid (nameTenant owner) .ok []) true)
      match (s.die die).distOf h with
      | none => reply (s.count (dieCore die) (nameTenant owner) 0x056)
      | some d =>
        if d.owner = owner then
          reply (s.modDie die fun x => { x with dists := Tab.put x.dists (bits h.toNat 0 6) { d with busy := false, gen := nextSkip0 d.gen } })
        else reply (s.count (dieCore die) (nameTenant owner) 0x056)
  | _ => s.idle

end Sys2Proof.Machine
end

