-- ==== Sys2Proof/Machine/Vetch.lean ====
section
/-! DEFINITION. What happens to contexts behind the programs: write-backs and prefetch fills (05 R126, R128), retire,
shoot-down and module-loss waves (R132, 08 R204, R205, 03 R76, 27 R435), sleep and waking (R133, R134), and the tag allocators
(26 R417, R418). -/

namespace Sys2Proof.Machine

open Sys2Proof

/-! ### Write-backs and fills (R126, R128) -/

/-- A record of an overflow area (R126). -/
def recordBytes (c : Cell) : List Byte :=
  (c.data ++ List.replicate 64 0#8).take 64 ++ leBytes 4 c.ctx.toNat ++ leBytes 4 (c.handle * 65536 + c.line % 65536) ++
    List.replicate 56 0#8

def execWriteBackComplete (core : Nat) (i : Nat) (s : State) : Res :=
  match (s.core core).evicts[i]? with
  | none => s.idle
  | some e =>
    let a := s.actor core e.cell.entry
    let (s, st, _) := s.hbmWrite a.tenant (a.ova + e.off) (recordBytes e.cell)
    let s := s.modCore core fun k => { k with evicts := dropAt k.evicts i }
    if st = CopyStatus.ok then .next s
    else .next ((s.modActor core e.cell.entry fun a => { a with recCount := a.recCount - 1 }).count core a.tenant 0x067)

/-- Records of a prefetch in their order, those that find a free cell first: what lands, and what is dropped because an
eviction of this cycle has freed the cell it would claim (R128). -/
def Core.fills (k : Core) (now : Nat) (l : List Record) : List Record × List Record :=
  let free := k.poolSize - k.cells.length
  let n := if k.evictedAt = some now then k.evictedN else 0
  (l.take free ++ (l.drop free).drop n, (l.drop free).take n)

/-- A CTXPF's fills land; those that find no cell, or whose cell an eviction of this same cycle has freed, are dropped and
stay in their records: the recall is then DONE only after another CTXPF (R128, R259). -/
def execPrefetchFill (core : Nat) (i : Nat) (s : State) : Res :=
  match (s.core core).recalls[i]? with
  | none => s.idle
  | some r =>
    match r.why with
    | .prefetch _ =>
      let k := s.core core
      let x := k.fills (s.now core) ((s.records core r.entry r.ctx).filter fun e => !r.dropped.contains e.1)
      let s := s.countN core (s.actor core r.entry).tenant 0x063 x.2.length
      let gone := r.dropped ++ x.2.map (·.1)
      let stop (s : State) : State := s.modCore core fun k => { k with recalls := dropAt k.recalls i }
      let mine (s : State) : State := s.modCore core fun x => { x with
        evictedAt := k.evictedAt, evictedN := k.evictedN, recalls := modifyAt x.recalls i fun y => { y with dropped := gone } }
      match s.recallList core r.entry r.ctx x.1 with
      | .wait s => .next (mine s)
      | .short s 0 => .next (mine s)
      | .short s (n + 1) => .next (stop (mine (s.countN core (s.actor core r.entry).tenant 0x063 (n + 1))))
      | .done s => .next (if gone.isEmpty then (stop (mine s)).recallDone core r.entry r.ctx else stop (mine s))
    | _ => s.idle

/-! ### Tag allocators (R417, R418) -/

/-- A bit of a bitmap kept as words. -/
def bitAt (t : Tab Word) (n : Nat) : Bool := ((Tab.get? t (n / 64)).getD 0#64).getLsbD (n % 64)
def setBitAt (t : Tab Word) (n : Nat) : Tab Word :=
  Tab.put t (n / 64) ((Tab.get? t (n / 64)).getD 0#64 ||| (1#64 <<< (n % 64)))

/-- Search upward from a serial, wrapping at 2^18, for `want` serials that may be issued (R418). -/
def Die.search (d : Die) : Nat → Nat → Nat → List Nat
  | 0, _, _ => []
  | _ + 1, _, 0 => []
  | f + 1, n, want + 1 =>
    if n = 0 ∨ bitAt d.tagIssued n ∨ bitAt d.tagWithheld n then d.search f ((n + 1) % 0x40000) (want + 1)
    else n :: d.search f ((n + 1) % 0x40000) want

def Die.tagNext (d : Die) : Nat := d.tagCtrl.toNat % 0x40000
def Die.tagOn (d : Die) : Bool := d.tagCtrl.getLsbD 18

/-- Mark serials issued; NEXT becomes one above the last. -/
def Die.issueTags (d : Die) (l : List Nat) : Die :=
  match l.getLast? with
  | none => d
  | some n => { d with tagIssued := l.foldl setBitAt d.tagIssued,
                       tagCtrl := BitVec.ofNat 64 ((n + 1) % 0x40000) ||| (d.tagCtrl &&& 0x40000#64) }

/-- A serial of a die as an id of this module (R129). -/
def State.idOf (s : State) (die n : Nat) : CtxId := BitVec.ofNat 32 (s.mod.num.toNat * 0x400000 + die * 0x40000 + n)

/-- Give a core up to `want` serials: how many were found. Its range holds 64 at most (R129). -/
def State.giveTags (s : State) (die core want : Nat) : State × Nat :=
  let found := (s.die die).search 0x40000 (s.die die).tagNext want
  (((s.modDie die fun d => d.issueTags found).modCore core fun k =>
      { k with fresh := k.fresh ++ found.map (s.idOf die), refill := want - found.length }).trimFresh core, found.length)

/-- Serve the open requests of a die again (R418). -/
def State.serveTags (s : State) (die : Nat) : List (Nat × Nat) → State
  | [] => s
  | (core, want) :: t =>
    let r := s.giveTags die core want
    let s := r.1.modDie die fun d => { d with tagWaiting := (d.tagWaiting.map fun x =>
      if x.1 = core then (x.1, want - r.2) else x).filter fun x => decide (x.2 ≠ 0) }
    s.serveTags die t

/-- ISSUED bits are cleared and the die's open requests served, whether or not EN lets new ones be opened (R418). -/
def State.clearIds (s : State) (ids : List CtxId) : State :=
  let own := ids.filter fun c => decide (c.toNat / 0x400000 = s.mod.num.toNat)
  let dies := (List.range 16).filter fun d => own.any fun c => decide (c.toNat % 0x400000 / 0x40000 = d)
  let s := own.foldl (fun s c => s.modDie (c.toNat % 0x400000 / 0x40000) fun d => d.retireId c) s
  dies.foldl (fun s d => s.serveTags d (s.die d).tagWaiting) s

/-- A retire wave of this module is complete and an id of the die still to be counted as retired: that comes before a search
of the same moment (R422). -/
def State.clearDue (s : State) (die : Nat) : Bool :=
  s.waves.any fun w => w.2.todo.isEmpty && w.2.awaits.isEmpty && !w.2.cleared && w.2.origin.isNone && match w.2.kind with
    | .retire c => decide (c.toNat / 0x400000 = s.mod.num.toNat) && decide (c.toNat % 0x400000 / 0x40000 = die)
    | _ => false

/-- The allocator answers a core whose range fell below 16 ids and that has no request open (R418). -/
def execTagRefill (core : Nat) (s : State) : Res :=
  let d := dieOf core
  if !s.awake core || s.clearDue d || decide (16 ≤ (s.core core).fresh.length) || !(s.die d).tagOn || decide ((s.core core).refill ≠ 0) then s.idle
  else
    let r := s.giveTags d core 32
    if r.2 = 32 then .next r.1
    else .next ((r.1.countDie d 0x100).modDie d fun x => { x with tagWaiting := x.tagWaiting ++ [(core, 32 - r.2)] })

/-! ### Waves (R132, R204, R205, R362) -/

/-- The operation code of a wave (R362). -/
def WaveKind.code : WaveKind → Nat
  | .shootdown .. => 0
  | .retire _ => 1
  | .moduleLoss _ => 2

/-- The host gateway hears of its roots on a lost module (R76, R401). -/
def State.gateLoss (s : State) (m : Nat) : State :=
  (s.fw.monitors.filter fun g => decide (nameModule g.root = m)).foldl (fun s g =>
    s.emit (.signal (s.gwName g.vf) g.root (signalWord .unreachable 0#8 0#16 true g.ref) 0#64 0#64 .watching g.ref)) s

/-- The completion message of a wave, and the answer of firmware that waited for it (R362, R400). The router of a sleeping
core holds the message, which wakes it (R134). (DEDUCED, log 29.) -/
def State.endWave (s : State) (wave : Nat) (w : Wave) : State :=
  let s := { s with waves := Tab.del s.waves wave }
  let s := match w.steward with
    | none => s
    | some (core, name, operand, cw, ctx) =>
      let m := hwMsg name cw ctx (BitVec.ofNat 64 w.kind.code) operand (BitVec.ofNat 64 w.took) (BitVec.ofNat 64 w.skipped)
      let s := s.modCore core fun k => { k with wavesOpen := k.wavesOpen - 1 }
      if s.awake core then s.arriveBuilt core m else s.emit (.msg m)
  let s := match w.kind with
    | .moduleLoss m => (s.modFw fun f => { f with declared := f.declared ++ [m] }).gateLoss m
    | _ => s
  match w.service with
  | none => s
  | some m => s.transmit gateCore (.msg m) true


/-- The completion message of a wave, if it has one, finds room (R40). -/
def State.waveRoom (s : State) (w : Wave) : Bool :=
  match w.steward with
  | some x => (s.core x.1).builtRoom x.2.2.2.1
  | none => true

/-- One wave was complete before another: in an earlier cycle, or in the same one with the lower number. -/
def Wave.before (w x : Wave) (n m : Nat) : Bool :=
  match w.met, x.met with
  | some a, some b => decide (a < b) || decide (a = b ∧ n < m)
  | _, _ => false

/-- The wave is met, and its completion message finds room and comes behind those of the same steward core that were complete
before and wait for room (R40). (DEDUCED, log 29.) -/
def State.waveEnds (s : State) (wave : Nat) (w : Wave) : Bool :=
  w.met.isSome && s.waveRoom w && (w.steward.isNone || !s.waves.any fun x => x.2.before w x.1 wave && !s.waveRoom x.2 &&
    decide (x.2.steward.map (·.1) = w.steward.map (·.1)))

/-- The ids that have records in the areas of a core's actors (R133). (DEDUCED, log 30.) -/
def State.recordIds (s : State) (core : Nat) : List CtxId :=
  ((s.core core).actors.flatMap fun a =>
    if a.2.recCount = 0 then []
    else (List.range (a.2.ovlen / 128)).filterMap fun i => match s.recordId a.2 (128 * i) with
      | some n => if n = 0 then none else some (BitVec.ofNat 32 n)
      | none => none).eraseDups

/-- A sleeping core starts its waking: its context map is flushed, and the ids to ask about are collected (R133, R134). -/
def State.wakeCore (s : State) (core : Nat) : State :=
  let ids := s.recordIds core
  s.modCore core fun k => { k with asleep := false, waking := true, ctxMap := [], idleSince := none, wakeAsk := ids, wakeSent := [] }

/-- A wave meets a place: a sleeping core is skipped. -/
def State.waveAt (s : State) (wave place : Nat) (take : State → State) : Res :=
  if place < coreCount && (s.core place).asleep then .next (s.waveTook wave place true)
  else if place < coreCount && (s.core place).waking then s.idle
  else .next ((take s).waveTook wave place false)

def execRetireWaveArrival (wave : Nat) (place : Nat) (s : State) : Res :=
  match Tab.get? s.waves wave with
  | none => s.idle
  | some w =>
    if !w.todo.contains place then s.idle
    else match w.kind with
      | .retire c => s.waveAt wave place fun s => s.takeRetire place c
      | _ => s.idle

/-- The home allocator of an id counts it as retired, in this module or in another (R204, R418). -/
def State.retireAt (s : State) (c : CtxId) : State :=
  let m := c.toNat / 0x400000
  if m = s.mod.num.toNat then s.clearIds [c] else if s.isLost m then s else s.gateOut gateCore (.retired m c)

/-- Another module has taken a retire wave of this one (R204). -/
def Wave.heard (w : Wave) (by_ took skipped : Nat) : Wave :=
  { w.without by_ with took := w.took + took, skipped := w.skipped + skipped }

/-- The wave is complete in the module: a wave from another module is answered; one of this module that every other has answered
counts its id as retired (R132, R204). -/
def execRetireWaveComplete (wave : Nat) (s : State) : Res :=
  match Tab.get? s.waves wave with
  | none => s.idle
  | some w =>
    match w.kind with
    | .retire c =>
      if !w.todo.isEmpty || !w.awaits.isEmpty || w.cleared then s.idle
      else match w.origin with
      | some (m, n) =>
        let s := { s with waves := Tab.del s.waves wave }
        .next (if s.isLost m then s else s.gateOut gateCore (.waveDone m n s.mod.num.toNat w.took w.skipped))
      | none =>
        let s := s.retireAt c
        if w.steward.isSome then .next { s with waves := Tab.put s.waves wave (Wave.stamp { w with cleared := true } s.mod.cycle) }
        else .next (s.endWave wave w)
    | _ => s.idle

/-- A memory gateway forgets the leaves a shoot-down names; a core has only hints (R205). -/
def State.takeShootdown (s : State) (place : Nat) (t : Tenant) (page : Nat) (all : Bool) : State :=
  if coreCount ≤ place then
    s.modMgate (place - gatePlace 0) fun g => { g with tlb := g.tlb.filter fun e => !e.shot t page all }
  else s

def execShootdownArrival (wave : Nat) (place : Nat) (s : State) : Res :=
  match Tab.get? s.waves wave with
  | none => s.idle
  | some w =>
    if !w.todo.contains place then s.idle
    else match w.kind with
      | .shootdown t page all => s.waveAt wave place fun s => s.takeShootdown place t page all
      | _ => s.idle

def execShootdownComplete (wave : Nat) (s : State) : Res :=
  match Tab.get? s.waves wave with
  | none => s.idle
  | some w =>
    match w.kind with
    | .shootdown .. => if s.waveEnds wave w then .next (s.endWave wave w) else s.idle
    | _ => s.idle

/-- A core completes with DEAD what it has outstanding on a lost module (R435). -/
def State.failRemotes (s : State) (core m : Nat) : State :=
  let rids := ((s.core core).remotes.filter fun r => decide (r.2.module = m)).map (·.1)
  let s := s.modCore core fun k => { k with outq := k.outq.filter fun e => match e.body with
    | .remote rid _ => !rids.contains rid
    | _ => true }
  let s := rids.foldl (fun s r => s.completeRemote core r .dead []) s
  let opens := (s.core core).opens.filter fun o => decide (o.2.module = m)
  let s := opens.foldl (fun s o => s.endSpawn core o.1 o.2 0#64) s
  let far := (s.core core).starts.filter fun x => x.core.isNone && x.loading && decide (x.req.place.toNat / 65536 = m)
  far.foldl (fun s x => (s.modCore core fun k => { k with starts := k.starts.filter fun y => y != x }).startFailed core x 0x01#8) s

/-- A core signals its own actors about their peers on a lost module (R76); what a secondary's core keeps for it goes with its
primary's (R88). -/
def State.signalLoss (s : State) (core m : Nat) : State :=
  let s := s.modCore core fun k => { k with
    monitors := k.monitors.filter fun e => !(decide (e.2.kind = .watched) && decide (nameModule e.2.peer = m)) }
  let mine (mon : Bool) (t : Tab LinkEnt) : List HeldEnt := (t.filter fun e =>
      e.2.peer != 0#64 && decide (nameModule e.2.peer = m) && decide (e.2.lslot < 64)).map fun e =>
    { mon := mon, idx := e.1, ent := e.2, holder := (s.actor core e.2.lslot).name }
  let ents := (mine false (s.core core).links ++ mine true (s.core core).monitors).filter fun x =>
    !(s.actor core x.ent.lslot).isShadow x.holder
  ents.foldl (fun s x =>
    let e := x.ent
    let r : Resolving := { name := e.peer, sup := e.psup, death := { cls := .unreachable, detail := 0#8, w2 := 0#64 },
                           restarts := e.prst, links := [x], asked := s.mod.timeNs, lost := true }
    if e.psup = 0#64 ∨ nameModule e.psup = m then s.sendSignals core r 0#64 e.prst
    else
      let s := s.modCore core fun k => { k with resolving := k.resolving ++ [r] }
      s.transmit core (.resReq e.psup e.peer .unreachable e.prst (s.gcore core)) true) s

/-- A core has something to do for a module that is lost: a relationship with an actor there, or an operation or a start that
it waits for (R76, R435). -/
def Core.lossStake (k : Core) (m : Nat) : Bool :=
  k.links.any (fun e => e.2.peer != 0#64 && decide (nameModule e.2.peer = m)) ||
    k.monitors.any (fun e => e.2.peer != 0#64 && decide (nameModule e.2.peer = m)) ||
    k.remotes.any (fun r => decide (r.2.module = m)) || k.opens.any (fun o => decide (o.2.module = m)) ||
    k.starts.any fun x => x.core.isNone && decide (x.req.place.toNat / 65536 = m)

/-- A loss wave arrives. Each surviving core applies it, and sleep changes nothing that a program sees: a sleeping core that
it concerns is woken for it, the others are skipped (R76, R134, R435). (DEDUCED, log 30.) -/
def execModuleLossWaveArrival (wave : Nat) (place : Nat) (s : State) : Res :=
  match Tab.get? s.waves wave with
  | none => s.idle
  | some w =>
    if !w.todo.contains place then s.idle
    else match w.kind with
      | .moduleLoss m =>
        if (s.core place).asleep && (s.core place).lossStake m then .next (s.wakeCore place)
        else s.waveAt wave place fun s => (s.failRemotes place m).signalLoss place m
      | _ => s.idle

/-- The completion message of a retire or module-loss wave (R40, R362). -/
def execWaveCompleteMessage (wave : Nat) (s : State) : Res :=
  match Tab.get? s.waves wave with
  | none => s.idle
  | some w =>
    if s.waveEnds wave w then .next (s.endWave wave w) else s.idle

/-! ### Sleep (R133, R134) -/

/-- What keeps a core awake besides its cells (R134). -/
def Core.noWork (k : Core) : Bool :=
  k.handlers.isEmpty && k.queue.isEmpty && k.pool.isEmpty && !k.joins.any (·.2.parked.isSome) &&
    k.teasel.isEmpty && k.vec.isEmpty && k.matq.isEmpty && k.sumq.isEmpty && k.apert.isEmpty && k.outq.isEmpty &&
    !k.opens.any (fun o => !o.2.acked) && !k.timers.any (·.2.due.isSome) && k.waits.isEmpty &&
    !k.actors.any (fun a => decide (a.2.state ≠ .free) && decide (a.2.watch ≠ 0))

/-- Every condition of R134, the eviction of every pool cell with them. -/
def Core.idle (k : Core) : Bool := k.noWork && k.cells.isEmpty

/-- A core with no work evicts its cells; once it has been idle for its period and they are written back, it sleeps, and its
unused ids return to the allocator (R133, R134, R418). (DEDUCED, log 30.) -/
def execCoreSleep (core : Nat) (s : State) : Res :=
  let k := s.core core
  let long := match k.idleSince with
    | some t => decide (t + 1000 * k.cfg.sleept ≤ s.mod.timeNs)
    | none => false
  if !s.awake core || !k.noWork || decide (k.cfg.sleept = 0) then s.idle
  else if !k.cells.isEmpty then
    match s.victim core with
    | some (i, c) => if k.evicts.length < 32 then .next (s.evict core i c) else s.idle
    | none => s.idle
  else if !long || !k.evicts.isEmpty then s.idle
  else
    let s := s.modCore core fun k => { k with asleep := true, fresh := [], refill := 0 }
    let s := s.modDie (dieOf core) fun d => { d with tagWaiting := d.tagWaiting.filter fun x => decide (x.1 ≠ core) }
    .next (s.clearIds k.fresh)

/-- The actor that a packet is for. -/
def Packet.target : Packet → Option Name
  | .msg m => some m.dest
  | .kill t _ _ _ => some t
  | .signal t _ _ _ _ _ _ => some t
  | .linkReq _ _ p _ _ _ _ => some p
  | .linkAns _ r _ _ _ _ _ => some r
  | .unlink _ _ p _ => some p
  | .advance o _ _ _ => some o
  | .resReq n _ _ _ _ => some n
  | .hash n _ _ => some n
  | .transfer t => some t.dest
  | .prmt t _ => some t
  | _ => none

/-- The cores of this module that a packet is for, where a packet wakes cores (R134); what is for a primary is for its secondary
too (R87). -/
def State.packetCores (s : State) (p : Packet) : List Nat :=
  match p.target with
  | some n =>
    if s.isLocal n && nameCore n != hostPlace then
      let a := s.actor (nameCore n) (nameSlot n)
      nameCore n :: (match a.role with | .primary c _ => if a.name == n then [c] else [] | _ => [])
    else []
  | none =>
    (match p with
    | .spawn r => if r.place.toNat / 65536 = s.mod.num.toNat then some (epCore r.place.toNat) else none
    | .spawnAck c .. => s.ownCore c
    | .spawnName c .. => s.ownCore c
    | .resAns c _ _ _ => s.ownCore c
    | .remote o => s.keyPlace o.key
    | .combined os => match os with
      | o :: _ => s.keyPlace o.key
      | [] => none
    | .response c .. => s.ownCore c
    | .mcastMember _ o => s.keyPlace o.key
    | .mergedAck c .. => s.ownCore c
    | .pullRead _ _ k .. => s.keyPlace k
    | .reduced c .. => s.ownCore c
    | .steward a => s.ownCore a.target
    | .stealReply c _ _ => s.ownCore c
    | .copy c _ _ => some c
    | _ => none).toList

/-- A packet for a sleeping core starts its waking (R134). -/
def execCoreWake (core : Nat) (s : State) : Res :=
  if !(s.core core).asleep || !s.net.any (fun p => (s.packetCores p).contains core) then s.idle
  else .next (s.wakeCore core)

/-- Free every record of an id in the areas of a core's actors. -/
def State.freeRecordsOf (s : State) (core : Nat) (c : CtxId) : State :=
  (s.core core).actors.foldl (fun s a =>
    if a.2.recCount = 0 then s
    else (s.walkOffsets core { entry := a.1, kind := .context c }).foldl (fun s o => s.freeRecord core a.1 o) s) s

/-- The ISSUED bit of an id of this module (R418). -/
def State.issuedBit (s : State) (c : CtxId) : Bool :=
  bitAt (s.die (c.toNat % 0x400000 / 0x40000)).tagIssued (c.toNat % 0x40000)

/-- A waking core has its answer about an id; the records of a retired one are freed (R133). -/
def State.wakeAnswer (s : State) (core : Nat) (c : CtxId) (live : Bool) : State :=
  let s := s.modCore core fun k => { k with wakeAsk := k.wakeAsk.filter fun x => x != c, wakeSent := k.wakeSent.filter fun x => x != c }
  if live then s else s.freeRecordsOf core c

/-- The answer about an id that has come from another module for a core, by its number in the net. -/
def State.wakeAnsAt (s : State) (core : Nat) (c : CtxId) : Option (Nat × Bool) :=
  (indexed s.net).findSome? fun p => match p.2 with
    | .wakeAns g x b => if s.ownCore g = some core ∧ x = c then some (p.1, b) else none
    | _ => none

/-- The waking query about an id: the home allocator answers from its ISSUED bit. Another module's is asked over the fabric
and its answer taken when it comes; an id whose home module is lost is retired (R133, R418). (DEDUCED, log 30.) -/
def execWakingQuery (core : Nat) (id : BitVec 32) (s : State) : Res :=
  let k := s.core core
  let m := id.toNat / 0x400000
  if !k.waking || !(k.wakeAsk.contains id || k.wakeSent.contains id) then s.idle
  else if m = s.mod.num.toNat then .next (s.wakeAnswer core id (s.issuedBit id))
  else if s.isLost m then .next (s.wakeAnswer core id false)
  else if k.wakeAsk.contains id then
    .next ((s.modCore core fun k => { k with wakeAsk := k.wakeAsk.filter fun x => x != id, wakeSent := k.wakeSent ++ [id] }).gateOut core
      (.wakeQuery m (s.gcore core) id))
  else match s.wakeAnsAt core id with
    | some (n, b) => .next ((s.takePacket n).wakeAnswer core id b)
    | none => s.idle

/-- Waking ends: a fresh-id range is asked for, and the held packets may be taken (R134). -/
def execWakeComplete (core : Nat) (s : State) : Res :=
  if !(s.core core).waking || !(s.core core).wakeAsk.isEmpty || !(s.core core).wakeSent.isEmpty then s.idle
  else (s.modCore core fun k => { k with waking := false }) |> execTagRefill core

end Sys2Proof.Machine
end

