-- ==== Sys2Proof/Machine/Steward.lean ====
section
/-! DEFINITION. Steward accesses where they are performed (18 R359, R360, 26 R413, R417, R419, 27 R430, R431) and requests of
pre-emption (R363). -/

namespace Sys2Proof.Machine

open Sys2Proof

/-! ### The words of the tables -/

/-- The words of a region-table entry (R91). -/
def regionWord (a : Actor) (handle h : Nat) : Word :=
  match Tab.get? a.regions handle with
  | none => 0#64
  | some r =>
    if h = 0 then BitVec.ofNat 64 (r.cidx * 2 ^ 56 + (if r.given then 2 else 1) * 2 ^ 14 + r.attr)
    else BitVec.ofNat 64 (r.base * 2 ^ 32 + r.size)

/-- The words of a link- or monitor-table entry (R70). -/
def linkWord (t : Tab LinkEnt) (i w : Nat) : Word :=
  match Tab.get? t i with
  | none => 0#64
  | some e =>
    if w = 0 then BitVec.ofNat 64 (e.ref.toNat * 2 ^ 32 + e.prst.toNat * 2 ^ 16 +
      (match e.kind with | .link => 1 | .watching => 2 | .watched => 3) * 256 + e.lslot % 64)
    else if w = 1 then e.peer else e.psup

/-- The words of a window-table entry (R103). -/
def windowWord (t : Tab Window) (i w : Nat) : Word :=
  match Tab.get? t i with
  | none => 0#64
  | some x =>
    if w = 0 then BitVec.ofNat 64 (x.gen.toNat * 2 ^ 48 + x.jc.toNat * 2 ^ 42 + x.gk * 2 ^ 40 + x.owner * 2 ^ 34 + x.handle * 2 ^ 29 +
      x.dd.toNat * 256 + x.live.toNat * 128 + x.pb.toNat * 16 + x.cn.toNat * 8 + x.at_.toNat * 4 + x.ww.toNat * 2 + x.wd.toNat)
    else if w = 1 then BitVec.ofNat 64 (x.off * 2 ^ 32 + x.len) else x.grantee

/-- A core-configuration word (R360). -/
def CoreCfg.word (c : CoreCfg) (i : Nat) : Word :=
  match i with
  | 0 => BitVec.ofNat 64 c.recs
  | 1 => BitVec.ofNat 64 c.spill
  | 2 => BitVec.ofNat 64 c.cpool
  | 3 => c.service
  | 4 => c.dbg.setWidth 64
  | _ => BitVec.ofNat 64 c.sleept

/-- A word of a die's tag allocator (R417). -/
def Die.tagWord (d : Die) (i : Nat) : Word :=
  if i = 0 then d.tagCtrl
  else if i = 1 then BitVec.ofNat 64 (d.tagIssued.foldl (fun n e => n + ((List.range 64).filter fun b => e.2.getLsbD b).length) 0)
  else if i < 4098 then (Tab.get? d.tagIssued (i - 2)).getD 0#64
  else (Tab.get? d.tagWithheld (i - 4098)).getD 0#64

def State.group (s : State) (e : Nat) : Group := (Tab.get? s.groups e).getD {}
def State.modGroup (s : State) (e : Nat) (f : Group → Group) : State := { s with groups := Tab.put s.groups e (f (s.group e)) }

/-- A word of the group table (R430). -/
def Group.word (g : Group) (w : Nat) : Word := if w = 0 then g.header else g.keys.getD (w - 1) 0#64

/-- What a steward's read answers. -/
def State.tableRead (s : State) (core tbl idx : Nat) : Word :=
  let k := s.core core
  match tbl with
  | 0x01 => (k.actor (idx / 4)).word (idx % 4)
  | 0x02 => regionWord (k.actor (idx / 64)) (idx % 64 / 2) (idx % 2)
  | 0x03 => linkWord k.links (idx / 3) (idx % 3)
  | 0x04 => linkWord k.monitors (idx / 3) (idx % 3)
  | 0x05 => windowWord k.windows (idx / 3) (idx % 3)
  | 0x06 => k.ctxWord idx
  | 0x07 => (Tab.get? k.slices idx).getD 0#64
  | 0x08 => k.cfg.word idx
  | 0x09 => (s.die (dieOf core)).tagWord idx
  | 0x0A => (Tab.get? ((Tab.get? s.members (idx / 2048)).getD {}).words (idx % 2048)).getD 0#64
  | 0x0B => (s.group (idx / 1024)).word (idx % 1024)
  | _ => (Tab.get? (s.mgate (idx % 16)).roots (idx / 16)).getD 0#64

/-! ### Writes -/

/-- A slice-table word is within its limits (R360). -/
def sliceOk (v : Word) : Bool :=
  decide (v.toNat < 2 ^ 28) && (!sliceValid v || sliceOpen v || (decide (10 ≤ sliceLen v) && decide (sliceLen v ≤ 10000)))

def State.writeSlice (s : State) (core i : Nat) (v : Word) : Option State :=
  if sliceOk v then some (s.modCore core fun k => { k with sliceWrites := k.sliceWrites ++ [(i, v, s.now core)] }) else none

/-- The areas of a configuration fit (R360). -/
def CoreCfg.fits (c : CoreCfg) : Bool := decide (c.recs * 5 + c.spill * 4 + c.cpool * 16 ≤ 224)

/-- The sizes may change: no actor of a tenant other than 0 is LIVE on the core (R360). -/
def Core.quiet (k : Core) : Bool := !k.actors.any fun a => decide (a.2.state = .live) && a.2.tenant != 0#12

def State.writeCfg (s : State) (core i : Nat) (v : Word) : Option State :=
  let k := s.core core
  let n := v.toNat
  let size (ok : Bool) (c : CoreCfg) : Option State :=
    if ok && k.quiet && c.fits then some (s.setCore core { k with cfg := c }) else none
  let set (ok : Bool) (c : CoreCfg) : Option State := if ok then some (s.setCore core { k with cfg := c }) else none
  match i with
  | 0 => size (decide (8 ≤ n) && decide (n ≤ 24)) { k.cfg with recs := n }
  | 1 => size (decide (8 ≤ n) && decide (n ≤ 64)) { k.cfg with spill := n }
  | 2 => size (decide (1 ≤ n) && decide (n ≤ 12)) { k.cfg with cpool := n }
  | 3 => set (v == 0#64 || (nameTenant v == 0#12 && !nameBad v)) { k.cfg with service := v }
  | 4 => set (decide (n < 2 ^ 13)) { k.cfg with dbg := v.setWidth 13 }
  | _ => set (decide (n = 0) || (decide (10 ≤ n) && decide (n ≤ 65535))) { k.cfg with sleept := n }

def State.writeTag (s : State) (core i : Nat) (v : Word) : Option State :=
  if i = 0 then
    if v.toNat < 2 ^ 19 then some (s.modDie (dieOf core) fun d => { d with tagCtrl := v }) else none
  else if 4098 ≤ i then some (s.modDie (dieOf core) fun d => { d with tagWithheld := Tab.put d.tagWithheld (i - 4098) v })
  else none

def State.writeRoot (s : State) (i : Nat) (v : Word) : Option State :=
  if bits v.toNat 36 28 ≠ 0 ∨ bits v.toNat 1 7 ≠ 0 ∨ bits v.toNat 8 9 ≠ 0 then none
  else some (s.modMgate (i % 16) fun g => { g with roots := Tab.put g.roots (i / 16) v })

/-- The header of a membership record with its reserved bits, which read as zero (R5, R419). -/
def headerKept (v : Word) : Word := v &&& 0xFFFFFFFF013FFFFF#64

/-- A membership word; the words above the last member's name do not exist (R419). (DEDUCED, log 36.) -/
def State.writeMember (s : State) (i : Nat) (v : Word) : Option State :=
  if 1041 ≤ i % 2048 then none
  else
    let m : Membership := (Tab.get? s.members (i / 2048)).getD {}
    some { s with members := Tab.put s.members (i / 2048) { m with words := Tab.put m.words (i % 2048) (if i % 2048 = 0 then headerKept v else v) } }

/-! ### Group tables (R430, R431) -/

def headerValid (w : Word) : Bool := w.getLsbD 31
def headerGroup (w : Word) : Nat := bits w.toNat 36 12
def headerTenant (w : Word) : Tenant := w.setWidth 12
def headerMembers (w : Word) : Nat := bits w.toNat 21 9 + 1

/-- A window key is acceptable in a group of a tenant (R431). -/
def groupKeyOk (t : Tenant) (k : Word) : Bool := k != 0#64 && decide (k.toNat % 16 = 0) && keyTenant k == t

/-- A header may be written (R431). -/
def State.headerOk (s : State) (e : Nat) (v : Word) : Bool :=
  decide (bits v.toNat 48 16 = 0) && decide (bits v.toNat 32 4 = 0) && decide (bits v.toNat 12 9 = 0) &&
    (!headerValid v ||
      (!s.groups.any (fun g => decide (g.1 ≠ e) && headerValid g.2.header && headerTenant g.2.header == headerTenant v &&
          decide (headerGroup g.2.header = headerGroup v)) &&
        (List.range (headerMembers v)).all fun i => groupKeyOk (headerTenant v) ((s.group e).keys.getD i 0#64)))

/-- Whether an entry waits for switches. -/
def Group.busy (g : Group) : Bool := g.installing || g.withdrawing

/-- The ports behind which a switch is. -/
def State.switchPorts (s : State) : List Nat := (List.range 24).filter fun p => (s.port p).up && (s.port p).isSwitch

/-- A management flit leaves by a port, as tenant 0's (R425, R426). (DEDUCED, log 18.) -/
def State.manageVia (s : State) (port m : Nat) (x : Mgmt) : State :=
  match s.sealKey 0#12 with
  | some key => s.flitOut gateCore port (m * 65536) 0 key (.manage m s.mod.num.toNat x)
  | none => s

/-- Management flits to every switch that the module's ports reach. -/
def State.manageSwitches (s : State) (x : Mgmt) : State :=
  s.switchPorts.foldl (fun s p => s.manageVia p s.mod.num.toNat x) s

/-- A header is accepted: the gateways install or withdraw the entry at the switches, and the answer waits (R431).
(DEDUCED, log 36.) -/
def State.beginGroup (s : State) (e : Nat) (v : Word) (ack : Option (Nat × Nat)) (answer : Option Msg) : State :=
  let valid := headerValid v
  let s := s.modGroup e fun g =>
    { g with header := v &&& ~~~(1#64 <<< 30), installing := valid, withdrawing := !valid, installed := false, ackTo := ack, answerTo := answer,
             since := s.mod.timeNs, awaits := s.switchPorts }
  s.manageSwitches (if valid then .install e v (s.group e).keys else .withdraw e)

/-- The switches have answered, or have not: whoever waits hears of it (R431). (DEDUCED, log 36.) -/
def State.groupEnd (s : State) (entry : Nat) (ok : Bool) : State :=
  let g := s.group entry
  let header := if g.withdrawing then g.header
    else if ok then g.header ||| 0x40000000#64 else g.header &&& ~~~0x80000000#64
  let on := g.installing && ok
  let s := s.modGroup entry fun g =>
    { g with header := header, installing := false, withdrawing := false, installed := on, ackTo := none, answerTo := none, awaits := [] }
  let s := if g.installing && !ok then s.manageSwitches (.withdraw entry) else s
  let s := match g.ackTo with
    | some (core, rid) => s.emit (.response core rid 0#12 (if ok then .ok else .prot) [])
    | none => s
  match g.answerTo with
  | some a => s.transmit gateCore (.msg (if ok then a else { a with a0 := a.a0 + 8#64 })) true
  | none => s

/-- A switch has acknowledged an entry, on a port, within the 100 us; when every switch that the module's ports reach has, the
installation or withdrawal is done (R431). -/
def State.groupAcked (s : State) (entry port : Nat) : State :=
  let g := s.group entry
  if !g.busy || decide (g.since + 100000 ≤ s.mod.timeNs) then s
  else
    let left := g.awaits.filter fun p => decide (p ≠ port)
    let s := s.modGroup entry fun g => { g with awaits := left }
    if left.isEmpty then s.groupEnd entry true else s

/-- A key word of an entry that is not VALID (R431). -/
def State.writeGroupKey (s : State) (e w : Nat) (v : Word) : Option State :=
  if 513 ≤ w ∨ headerValid (s.group e).header then none
  else some (s.modGroup e fun g => { g with keys := (g.keys ++ List.replicate (w - g.keys.length) 0#64).set (w - 1) v })

/-! ### The events -/

/-- What a write comes to: done, refused, or to be answered later. -/
inductive Wrote where
  | done (s : State)
  | refused
  | later (s : State)
  | wait

def Wrote.of (r : Option State) : Wrote :=
  match r with
  | some s => .done s
  | none => .refused

/-- A steward's write at its table. (DEDUCED, log 36.) -/
def State.tableWrite (s : State) (core tbl idx : Nat) (v : Word) (ack : Nat × Nat) : Wrote :=
  match tbl with
  | 0x07 => .of (s.writeSlice core idx v)
  | 0x08 => .of (s.writeCfg core idx v)
  | 0x09 => .of (s.writeTag core idx v)
  | 0x0A => .of (s.writeMember idx v)
  | 0x0B =>
    let e := idx / 1024
    if (s.group e).busy then .wait
    else if idx % 1024 = 0 then
      if s.headerOk e v then .later (s.beginGroup e v (some ack) none) else .refused
    else .of (s.writeGroupKey e (idx % 1024) v)
  | 0x0C => .of (s.writeRoot idx v)
  | _ => .refused

/-- No earlier access of the same steward to the same core waits (R359: issue order). (DEDUCED, log 39.) -/
def State.accessFirst (s : State) (n : Nat) (a : StewardAccess) : Bool :=
  !(s.net.take n).any fun p => match p with
    | .steward b => decide (b.core = a.core) && decide (b.target = a.target)
    | _ => false

/-- An access is performed at its core as one event and answered (R359). -/
def State.performAccess (s : State) (n core : Nat) (a : StewardAccess) : Res :=
  let t := s.takePacket n
  match a.write with
  | none => .next (t.emit (.response a.core a.rid 0#12 .ok (leBytes 8 (t.tableRead core a.tbl.toNat a.idx.toNat).toNat)))
  | some v =>
    match t.tableWrite core a.tbl.toNat a.idx.toNat v (a.core, a.rid) with
    | .done t => .next (t.emit (.response a.core a.rid 0#12 .ok []))
    | .refused => .next (t.emit (.response a.core a.rid 0#12 .prot []))
    | .later t => .next t
    | .wait => s.idle

/-- An access that arrives, where it is one that `sel` picks. -/
def State.accessArrival (s : State) (n : Nat) (sel : StewardAccess → Bool) : Res :=
  match s.net[n]? with
  | some (.steward a) =>
    match s.ownCore a.target with
    | none => s.idle
    | some core => if s.awake core && s.accessFirst n a && sel a then s.performAccess n core a else s.idle
  | _ => s.idle

/-- The access writes a table. -/
def StewardAccess.writes (a : StewardAccess) (tbl : Nat) : Bool := a.write.isSome && decide (a.tbl.toNat = tbl)

def execStewardAccessArrival (n : Nat) (s : State) : Res := s.accessArrival n fun _ => true
def execSliceTableWrite (n : Nat) (s : State) : Res := s.accessArrival n fun a => a.writes 0x07
def execCoreConfigurationWrite (n : Nat) (s : State) : Res := s.accessArrival n fun a => a.writes 0x08
def execTagAllocatorWrite (n : Nat) (s : State) : Res := s.accessArrival n fun a => a.writes 0x09
def execMembershipWrite (n : Nat) (s : State) : Res := s.accessArrival n fun a => a.writes 0x0A
def execGroupTableWrite (n : Nat) (s : State) : Res := s.accessArrival n fun a => a.writes 0x0B
def execPageTableRootWrite (n : Nat) (s : State) : Res := s.accessArrival n fun a => a.writes 0x0C

/-! ### Pre-emption requests (R363) -/

def execPrmtArrival (n : Nat) (s : State) : Res :=
  match s.net[n]? with
  | some (.prmt t op) =>
    let core := nameCore t
    if core = hostPlace then .next ((s.takePacket n).count gateCore 0#12 0x037)
    else if !s.awake core then s.idle
    else
      let s := s.takePacket n
      if !s.alive core t then .next (s.count core 0#12 0x037)
      else
        let recs := ((s.core core).handlers.filter fun h => decide (h.2.entry = nameSlot t)).map (·.1)
        if op = 2#2 then
          let free (now : Nat) (h : Handler) : Handler :=
            if h.entry = nameSlot t ∧ h.status = .held then { h with status := .preempted, age := now } else h
          .next (s.modCore core fun k => { k with handlers := Tab.mapVals k.handlers fun _ h => free k.dispCount h })
        else .next (recs.foldl (fun s r => s.preempt core r (.request (op == 1#2))) s)
  | _ => s.idle

end Sys2Proof.Machine
end

