-- ==== Sys2Proof/Machine/Fabric.lean ====
section
/-! DEFINITION. The edge gateways at work (chapter 27): combining buffers, flits received, links and lanes, route masks,
heartbeats and module loss, pod time; the combining step of a mesh router (R159, R183, R365, R366); pre-fail reports
(29 R457). -/

namespace Sys2Proof.Machine

open Sys2Proof

/-! ### Counting and reporting -/

/-- The die whose counters take the events of an Adeux port: the link dies follow the sixteen compute dies.
(DEDUCED, log 25.) -/
def linkDie (port : Nat) : Nat := 16 + port / 6

/-- The die-only counters of the module as a whole stand at die 0. (DEDUCED, log 25.) -/
def moduleDie : Nat := 0

/-- A pre-fail report (R457): kinds 1 and 2 always, another kind of one place at most once per hour. -/
def State.prefail (s : State) (kind place lane value : Nat) : State :=
  let key := kind * 256 + place
  let fresh : Bool := match Tab.get? s.mod.reports key with
    | some t => decide (t + 3600000000000 ≤ s.mod.timeNs)
    | none => true
  if kind ≤ 2 || fresh then
    (s.modMod fun m => { m with reports := Tab.put m.reports key m.timeNs }).output
      (.pldm (BitVec.ofNat 64 (kind * 2 ^ 56 + place * 2 ^ 48 + lane * 2 ^ 40 + value % 2 ^ 32)))
  else s

/-! ### Write-combining and held flows (R424, R427) -/

/-- The 32 cycles of R427 are counted as periods of CYCLE: a link die has no arithmetic clock. (DESIGN CHOICE, log 62.) -/
def execCombineFlush (i : Nat) (s : State) : Res :=
  match s.combine[i]? with
  | some b => if b.since + 32 ≤ s.mod.cycle then .next ({ s with combine := dropAt s.combine i }.flushBuf b) else s.idle
  | none => s.idle

/-- A hold ends after 100 us, behind an earlier one of the same module: what a later change moved again goes into its hold
(R424). -/
def execMaskHoldExpiry (i : Nat) (s : State) : Res :=
  match s.holds[i]? with
  | some h =>
    if h.until_ ≤ s.mod.timeNs ∧ !(s.holds.take i).any (fun x => decide (x.module = h.module)) then
      .next (h.packets.foldl (fun s x => s.gateOut x.1 x.2) { s with holds := dropAt s.holds i })
    else s.idle
  | none => s.idle

/-! ### Flits (R425, R426, R429, R435) -/

def hdrSrc (h : BitVec 192) : Nat := bits h.toNat 140 26
def hdrTenant (h : BitVec 192) : Nat := bits h.toNat 128 12
def hdrKind (h : BitVec 192) : Nat := bits h.toNat 124 4
def hdrLw (h : BitVec 192) : Nat := bits h.toNat 119 5

/-- Kinds that only a switch originates. -/
def switchKind (k : Nat) : Bool := decide (k = 6) || decide (k = 8) || decide (k = 10)

/-- A module is heard from: it is no suspect, and a probe of it is answered (R435, R440). -/
def State.hear (s : State) (m : Nat) : State :=
  ({ s with heard := Tab.put s.heard m s.mod.timeNs } : State).modFw fun f =>
    { f with suspects := Tab.del f.suspects m, probes := Tab.del f.probes m }

/-- What a management flit from module `m` brings on a port: a heartbeat or the answer to a probe, a probe to be answered, or
a switch's acknowledgement (R431, R435). (DEDUCED, log 31.) -/
def State.managed (s : State) (port m : Nat) (x : Mgmt) : State :=
  match x with
  | .heartbeat => s.hear m
  | .probeAns => s.hear m
  | .probe => s.gateOut gateCore (.manage m s.mod.num.toNat .probeAns)
  | .installAck e => s.groupAcked e port
  | .install .. => s
  | .withdraw _ => s
  | .loss _ => s
  | .idle => s

/-- The parts of a region that have come for a transfer, in order; none where one is lacking (R99). -/
def State.tileBytes (s : State) (core id size : Nat) : Option (List Byte) :=
  ((List.range ((size + 255) / 256)).mapM fun i => (s.mod.tiles.find? fun x => decide (x.1 = core ∧ x.2.1 = id ∧ x.2.2.1 = 256 * i)).map
    (·.2.2.2)).map List.flatten

/-- The notice of a region from another module: with every part there it goes to its receiver; where a flit of it was lost on
the way the region is lost with it (R99, R424). (DEDUCED, log 18.) -/
def State.tileEnd (s : State) (t : Transfer) : State :=
  let core := nameModule t.giver * 0x20000 + t.fromCore
  let u := s.modMod fun m => { m with tiles := m.tiles.filter fun x => !decide (x.1 = core ∧ x.2.1 = t.id) }
  match s.tileBytes core t.id t.size with
  | some bs => u.emit (.transfer { t with bytes := bs })
  | none => u

/-- A packet comes from module `src` on a port: to its core over the mesh; a retire wave starts on the module's tree (R132),
and what answers one acts at the gateway (R204), as do management, waking queries and the parts of regions. (DEDUCED, log 29.)
-/
def State.deliver (s : State) (port src : Nat) (p : Packet) : State :=
  match p with
  | .retireWave _ c m n => s.startWave (.retire c) none none none [] (some (m, n))
  | .waveDone _ n m took skipped => { s with waves := Tab.adjust s.waves n fun w => w.heard m took skipped }
  | .retired _ c => s.clearIds [c]
  | .manage _ _ x => s.managed port src x
  | .wakeQuery m core c => if m = s.mod.num.toNat then s.gateOut gateCore (.wakeAns core c (s.issuedBit c)) else s
  | .tile dest _ core id off d =>
    if nameModule dest = s.mod.num.toNat then s.modMod fun m => { m with tiles := m.tiles ++ [(core, id, off, d)] } else s
  | .transfer t => if nameModule t.dest = s.mod.num.toNat then s.tileEnd t else s
  | p => match p.route with
    | .module m _ => if m = s.mod.num.toNat then s.emit p else s
    | .switch .. => s

/-- A flit verifies: its tag does, and the gateways hold its tenant's fabric key (R361, R411, R412). (DESIGN CHOICE, log 44.) -/
def State.verifies (s : State) (flit : WireFlit) : Bool :=
  flit.authentic && (s.sealKey (BitVec.ofNat 12 (hdrTenant flit.header))).isSome

/-- Only a switch originates it: the answers of groups, and the acknowledgement of an installation (R426). -/
def Packet.fromSwitch (p : Packet) : Bool :=
  switchKind p.kind || match p with
    | .manage _ _ (.installAck _) => true
    | _ => false

/-- What a flit's trailer acknowledges is off the link's list, and ends a row of retries (R429). -/
def Port.acknowledge (p : Port) (n : Nat) : Port :=
  let left := p.unacked.filter fun x => decide (n ≤ x.1)
  if left.length < p.unacked.length then { p with unacked := left, retries := 0 } else p

/-- The bit of a module is set, or is to be set in this very cycle (R435, R440). -/
def State.lostNow (s : State) (m : Nat) : Bool :=
  s.isLost m || match Tab.get? s.fw.probes m with
    | some t => decide (t + 100000 ≤ s.mod.timeNs)
    | none => false

/-- A flit is received: malformed, from a lost module, not authenticated, or delivered. What a switch originates needs no tag,
and a port whose far end trained as one. (DESIGN CHOICE, log 44.) -/
def State.flitArrive (s : State) (flit : WireFlit) : Res :=
  let port := s.port flit.port
  let kind := hdrKind flit.header
  let src := hdrSrc flit.header / 65536
  let die := linkDie flit.port
  if !(decide (flit.port < 24) && port.up) then s.idle
  else
    let s := s.modPort flit.port fun p => p.acknowledge flit.acked
    if kind ≠ flit.body.kind ∨ 13 ≤ kind ∨ !flit.body.lwOk (hdrLw flit.header) then .next (s.countDie die 0x103)
    else if s.lostNow src then .next (s.countDie die 0x107)
    else if flit.body.fromSwitch then .next (if port.isSwitch then s.deliver flit.port src flit.body else s)
    else if !s.verifies flit then .next (s.countDie die 0x102)
    else .next (s.deliver flit.port src flit.body)

def execFlitReceive (flit : WireFlit) (s : State) : Res := s.flitArrive flit

/-- A port goes down: it leaves every mask, no flow is held for it, and what its link had still to acknowledge is lost (R424,
R429). -/
def State.takeDown (s : State) (p : Nat) : State :=
  let s := s.modPort p fun q => { q with up := false, retries := 0, unacked := [] }
  { s with masks := Tab.mapVals s.masks fun _ m => m &&& ~~~(1#24 <<< p) }.countDie (linkDie p) 0x105

/-- A flit of the port has waited 10 us for its acknowledgement (R429). -/
def Port.overdue (p : Port) (now : Nat) : Bool := p.unacked.any fun x => decide (x.2 + 10000 ≤ now)

def execPortDown (p : Nat) (s : State) : Res :=
  if decide (p < 24) && (s.port p).up && (s.port p).overdue s.mod.timeNs then .next (s.takeDown p) else s.idle

/-- A flit is sent again; the sixteenth time in a row takes the port down, and more than 1,000 in one second are reported. -/
def execFlitCrcFail (p : Nat) (s : State) : Res :=
  if !(decide (p < 24) && (s.port p).up) then s.idle
  else
    let now := s.mod.timeNs
    let again (q : Port) : Port :=
      { q with retries := q.retries + 1, history := (q.history.filter fun t => decide (now < t + 1000000000)) ++ [now] }
    let s := (s.modPort p again).countDie (linkDie p) 0x104
    let s := if 1000 < (s.port p).history.length then s.prefail 5 p 0xFF (s.port p).history.length else s
    .next (if 16 ≤ (s.port p).retries then s.takeDown p else s)

/-! ### Buddies (R438) -/

/-- The FEED of a module, as far as it is known. -/
def State.feedOf (s : State) (m : Nat) : BitVec 16 := if m = s.mod.num.toNat then s.mod.feed else (Tab.get? s.mod.feeds m).getD 0#16

/-- The buddy of this module, and whether it is correlated: the next live module in cyclic order with another FEED, or else
the next one. -/
def State.buddyOf (s : State) : Option (Nat × Bool) :=
  let me := s.mod.num.toNat
  let ms := s.podModules
  let order := (ms.filter fun m => decide (me < m)) ++ ms.filter fun m => decide (m < me)
  match order.find? fun m => s.feedOf m != s.mod.feed with
  | some m => some (m, false)
  | none => order.head?.map fun m => (m, true)

/-- Firmware chooses its buddy, and reports a change. -/
def State.chooseBuddy (s : State) : State :=
  let b := s.buddyOf
  if s.fw.buddy = b then s
  else
    let s := s.modFw fun f => { f with buddy := b }
    match b with
    | some (m, c) => s.output (.buddy m c)
    | none => s

/-- A checkpoint record (R374): data position, step, random streams as key, recorded counter, base and draws per sample, and
the restores that corrected a counter. -/
structure Checkpoint where
  position : Word
  step : Word
  streams : List (Word × Word × Word × Word)
  skew : BitVec 32
  deriving DecidableEq, Repr, Inhabited

/-- The bytes of a checkpoint record, with CORRELATED as firmware found it (R374, R438). -/
def Checkpoint.bytes (c : Checkpoint) (correlated : Bool) : List Byte :=
  leBytes 8 c.position.toNat ++ leBytes 8 c.step.toNat ++ leBytes 1 correlated.toNat ++ leBytes 1 c.streams.length ++ leBytes 2 0 ++
    leBytes 4 c.skew.toNat ++ leBytes 40 0 ++
    c.streams.flatMap fun x => leBytes 8 x.1.toNat ++ leBytes 8 x.2.1.toNat ++ leBytes 8 x.2.2.1.toNat ++ leBytes 8 x.2.2.2.toNat

/-- The next checkpoint of this module goes to its present buddy, CORRELATED set where no live module of another feed was
there to choose: the module, and the record's bytes (R374, R438). Its address is the program's own. -/
def State.nextCheckpoint (s : State) (c : Checkpoint) : Option (Nat × List Byte) := s.fw.buddy.map fun b => (b.1, c.bytes b.2)

/-! ### Links and lanes (R423, R424, R428) -/

/-- Add a port to the mask of a module: flows that move are held for 100 us. -/
def State.joinMask (s : State) (p m : Nat) : State :=
  let old := (Tab.get? s.masks m).getD 0#24
  let s := { s with masks := Tab.put s.masks m (old ||| (1#24 <<< p)) }
  let h : FlowHold := { module := m, old := old, new := old ||| (1#24 <<< p), until_ := s.mod.timeNs + 100000 }
  let s := if old = 0#24 then s else { s with holds := s.holds ++ [h] }
  if (Tab.get? s.heard m).isSome then s else { s with heard := Tab.put s.heard m s.mod.timeNs }

def execLinkBringUp (p : Nat) (isSwitch : Bool) (reaches : List Nat) (s : State) : Res :=
  if 24 ≤ p ∨ (s.port p).up then s.idle
  else
    let ms := reaches.filter fun m => decide (m < 1024) && decide (m ≠ s.mod.num.toNat)
    let train (q : Port) : Port :=
      { up := true, isSwitch := isSwitch, reaches := ms, seqNo := q.seqNo, rotatedAt := s.mod.timeNs,
        contact := some (Config.laneContact p s.freeCtr) }
    .next (ms.foldl (fun s m => (s.joinMask p m).rekey m) (s.draw.modPort p train)).chooseBuddy

/-- The links with lanes to calibrate: an Adeux port that is up, and, as numbers 24 to 47, the 24 links between neighbouring
dies. (DESIGN CHOICE, log 31.) -/
def State.hasLanes (s : State) (p : Nat) : Bool := if p < 24 then (s.port p).up else decide (p < 48)

/-- The contact resistance of a port's connector, which is connector 1 + p, as lane calibration finds it: kind 4 of R457.
(DESIGN CHOICE, log 31.) -/
def State.notePort (s : State) (p : Nat) : State :=
  let r := Config.laneContact p s.freeCtr
  match (s.port p).contact with
  | some b => if 6 * b < 5 * r then s.draw.prefail 4 (0x81 + p) 0xFF r else s.draw
  | none => s.draw

/-- Every 10 ms the lane under calibration takes the place of the next data lane, which goes to calibration. -/
def execLaneRotation (p : Nat) (s : State) : Res :=
  let q := s.port p
  if !s.hasLanes p || !q.retired.isEmpty || decide (s.mod.timeNs < q.rotatedAt + 10000000) then s.idle
  else
    let turn (q : Port) : Port :=
      { q with spare := q.spare.map fun l => (l + 1) % 9, rotation := q.rotation + 1, rotatedAt := s.mod.timeNs }
    .next ((if p < 24 then s.notePort p else s).modPort p turn)

/-- The eye margin of the lane under calibration: a height below 11 mV or a width below 0.11 UI retires the lane, which stays
the spare; a height of at most 14 mV or a width of at most 0.14 UI is reported (R428, R457). A report gives the height, and
names Adeux ports only. (DESIGN CHOICE, log 31.) -/
def execLaneRetire (p lane : Nat) (margin : EyeMargin) (s : State) : Res :=
  let q := s.port p
  let report (s : State) (kind : Nat) : State := if p < 24 then s.prefail kind p lane margin.height else s
  if !s.hasLanes p || !q.retired.isEmpty || decide (q.spare ≠ some lane) then s.idle
  else if margin.height < 110 ∨ margin.width < 11 then .next (report (s.modPort p fun q => { q with retired := [lane] }) 1)
  else if margin.height ≤ 140 ∨ margin.width ≤ 14 then .next (report s 3)
  else s.idle

/-- A second lane fails: the port retrains at four lanes. -/
def execLaneDegrade (p : Nat) (s : State) : Res :=
  let q := s.port p
  if !(decide (p < 24) && q.up) || q.retired.isEmpty || decide (q.lanes ≠ 8) then s.idle
  else
    let s := (s.modPort p fun q => { q with lanes := 4, spare := none }).countDie (linkDie p) 0x106
    .next (s.prefail 2 p 0xFF ((Tab.get? (s.die (linkDie p)).diag 0x106).getD 0))

/-! ### Heartbeats and loss (R435, R436) -/

/-- The module has tenants of a pod group: a fabric key is installed for each (R411). (DESIGN CHOICE, log 10.) -/
def State.inGroup (s : State) : Bool := !s.fabricKeys.isEmpty

/-- Every 50 us a heartbeat to every module of the group; a module held in reset sends none (R435, R441). -/
def execHeartbeatSend (s : State) : Res :=
  if s.mod.heldReset || !s.inGroup || decide (s.mod.timeNs < s.mod.beatAt + 50000) then s.idle
  else .next (s.podModules.foldl (fun s m => s.gateOut gateCore (.manage m s.mod.num.toNat .heartbeat)) (s.modMod fun m => { m with beatAt := m.timeNs }))

/-- A heartbeat arrives as a flit does; one of a suspect answers the probes (R435, R440). -/
def execHeartbeatArrival (flit : WireFlit) (s : State) : Res :=
  match flit.body with
  | .manage _ _ .heartbeat => s.flitArrive flit
  | _ => s.idle

/-- The two ports of a probe: the first two ranks of the module's route mask (R435). (DESIGN CHOICE, log 31.) -/
def State.probePorts (s : State) (m : Nat) : List Nat := (portsOf ((Tab.get? s.masks m).getD 0#24)).take 2

/-- After 200 us of silence the gateway sends SUSPECT to steward 0 of die 0. -/
def execSuspect (m : Nat) (s : State) : Res :=
  match Tab.get? s.heard m with
  | some t =>
    if s.isLost m || decide (m = s.mod.num.toNat) || (Tab.get? s.fw.suspects m).isSome || decide (s.mod.timeNs < t + 200000) then s.idle
    else .next ((s.modFw fun f => { f with suspects := Tab.put f.suspects m s.mod.timeNs }).emit
      (.firmware s.mod.num.toNat s.mod.num.toNat (.suspect m)))
  | none => s.idle

/-- Steward 0 of die 0 probes a suspect over two ports, unless it has been heard from meanwhile (R435). -/
def State.probeSuspect (s : State) (m : Nat) : State :=
  if s.isLost m || (Tab.get? s.fw.suspects m).isNone then s
  else (s.probePorts m).foldl (fun s p => s.manageVia p m .probe) (s.modFw fun f => { f with probes := Tab.put f.probes m s.mod.timeNs })

/-- No probe is answered within 100 us: the module's bit is set, the switches are told, and WAVE k 2 goes out (R362, R435). -/
def execProbeTimeout (m : Nat) (s : State) : Res :=
  match Tab.get? s.fw.probes m with
  | some t =>
    if s.mod.timeNs < t + 100000 then s.idle
    else .next ((s.setLost m).manageSwitches (.loss m) |>.startWave (.moduleLoss m) none none none)
  | none => s.idle

/-- Kill every actor of a tenant in the module. -/
def State.killTenant (s : State) (t : Tenant) (cls : DeathClass) : State :=
  let all := s.cores.flatMap fun k => (k.2.actors.filter fun a => decide (a.2.state ≠ .free) && a.2.tenant == t).map fun a => (k.1, a.1)
  all.foldl (fun s x => s.enterExiting x.1 x.2 cls 0#8 0#64 none) s

/-- Fewer than half of the group's other modules were heard within 200 us: the module treats itself as lost for the group,
every actor of the group's tenants dies, and MOD_LOST advances once (R436). The group is that of all tenants with a fabric key
here, whichever of them the step names. (DESIGN CHOICE, log 10 and 44.) -/
def execSelfLost (tenant : Nat) (s : State) : Res :=
  let others := (s.masks.map (·.1)).filter fun m => decide (m ≠ s.mod.num.toNat)
  let heard := others.filter fun m => match Tab.get? s.heard m with
    | some t => decide (s.mod.timeNs < t + 200000)
    | none => false
  if (Tab.get? s.fabricKeys tenant).isNone || others.isEmpty || decide (others.length ≤ 2 * heard.length) || s.mod.isolated.contains tenant then s.idle
  else
    let ts := (s.fabricKeys.map (·.1)).filter fun t => !s.mod.isolated.contains t
    let t := ts.foldl (fun s t => s.killTenant (BitVec.ofNat 12 t) .unreachable) (s.modMod fun m => { m with isolated := ts ++ m.isolated })
    .next (if s.mod.isolated.isEmpty then t.count gateCore 0#12 0x044 else t)

/-! ### Pod time (R439) -/

/-- A link timestamp: the module is flagged while its offset exceeds 1 us, and its TIME is disciplined, by an amount that the
spec leaves open. (DESIGN CHOICE, log 32.) -/
def execTimeSync (podTime : Nat) (s : State) : Res :=
  let far := decide (1000 < Int.natAbs ((s.mod.timeNs : Int) - podTime))
  let s := if far && !s.mod.unsync then s.countDie moduleDie 0x108 else s
  .next ((s.modMod fun m => { m with unsync := far, timeNs := Config.disciplined m.timeNs podTime s.freeCtr }).draw)

/-! ### Combining routers (R159, R183, R365, R366) -/

/-- Two elements of 32 bits combined, with the events raised. -/
def combineElem (op : CombineOp) (x y : BitVec 32) : BitVec 32 × BitVec 6 :=
  match op with
  | .fp32Add => let r := fp32.put ((fp32.read x.toNat).add (fp32.read y.toNat))
                (BitVec.ofNat 32 r.1, r.2)
  | .int32Add =>
    let i : IFmt := { width := 32, signed := true }
    let r := i.sat (i.read x.toNat + i.read y.toNat)
    (BitVec.ofNat 32 r.1, if r.2 then fOF else 0#6)
  | .fp32Max => (BitVec.ofNat 32 (fp32.minMax true x.toNat y.toNat), 0#6)
  | .fp32Min => (BitVec.ofNat 32 (fp32.minMax false x.toNat y.toNat), 0#6)
  | .bytewiseMax =>
    (BitVec.ofNat 32 (leNat ((List.range 4).map fun i =>
      BitVec.ofNat 8 (max (bits x.toNat (8 * i) 8) (bits y.toNat (8 * i) 8)))), 0#6)

/-- The scaling of a mean at the root: the reciprocal of the count and the product, each rounded (R159, R366). -/
def meanElem (count : Nat) (x : BitVec 32) : BitVec 32 × BitVec 6 :=
  let r := fp32.div (.fin false 1 0) (.ofInt count)
  let p := fp32.put ((fp32.read x.toNat).mul (fp32.read r.1))
  (BitVec.ofNat 32 p.1, p.2 ||| r.2)

/-- The live members of a bitmap, in the order of their ranks (R365). -/
def liveMembers (live : BitVec 1024) : List Nat := (List.range 1024).filter fun m => live.getLsbD m

/-- The ranks below `n` of the tree that hangs from a rank, to a depth (R365). -/
def treeRanks (n : Nat) : Nat → Nat → List Nat
  | 0, _ => []
  | d + 1, r => if n ≤ r then [] else r :: (treeRanks n d (2 * r + 1) ++ treeRanks n d (2 * r + 2))

/-- The members at some ranks, as a bitmap. -/
def rankBits (members ranks : List Nat) : BitVec 1024 := ranks.foldl (fun b r => b ||| (1#1024 <<< members.getD r 0)) 0#1024

/-- A partial is of some ranks: its member bits are theirs, and its count is the number of the bits (R366). Members that died
before they contributed are in neither (R376). -/
def Partial.within (p : Partial) (members ranks : List Nat) : Bool :=
  decide (p.bitmap &&& rankBits members ranks = p.bitmap) && decide (p.count = (liveMembers p.bitmap).length)

/-- A partial of nobody: the child that would have sent it died holding what it had combined (R376). -/
def Partial.missing (p : Partial) : Bool := p.bitmap == 0#1024 && decide (p.count = 0) && p.elems.isEmpty

/-- The ranks below the first child of a rank, and below its second. -/
def CombineStep.below (c : CombineStep) (second : Bool) : List Nat :=
  treeRanks (liveMembers c.live).length 11 (2 * c.rank + (if second then 2 else 1))

/-- The order of R365: a rank's own contribution takes the partial of rank 2r+1 first, and that sum the partial of rank 2r+2.
A partial may lack dead members of its subtree, and a dead child's whole subtree (R376). -/
def CombineStep.ok (c : CombineStep) : Bool :=
  let ms := liveMembers c.live
  let own := c.rank :: (if c.second then c.below false else [])
  decide (c.rank < ms.length) && (!c.mean || decide (c.op = .fp32Add)) && !(c.below c.second).isEmpty &&
    c.acc.within ms own && c.acc.bitmap.getLsbD (ms.getD c.rank 0) &&
    (c.child.missing || (c.child.within ms (c.below c.second) && decide (c.acc.elems.length = c.child.elems.length)))

/-- The step gives the root's final partial: no child is left behind it. -/
def CombineStep.last (c : CombineStep) : Bool := decide (c.rank = 0) && (c.second || (c.below true).isEmpty)

/-- A partial and the next child's; the root's final partial of a mean is scaled by the count it carries (R159, R366). -/
def CombineStep.run (c : CombineStep) : Partial × BitVec 6 :=
  let rs := if c.child.missing then c.acc.elems.map fun x => (x, 0#6) else List.zipWith (combineElem c.op) c.acc.elems c.child.elems
  let count := c.acc.count + c.child.count
  let ms := if c.mean && c.last then rs.map fun r => let m := meanElem count r.1
                                                    (m.1, m.2 ||| r.2) else rs
  ({ elems := ms.map (·.1), count := count, bitmap := c.acc.bitmap ||| c.child.bitmap }, ms.foldl (fun f r => f ||| r.2) 0#6)

/-- What a core contributes has been performed: no store of it waits, and no operation of its engines or copy of it is under way
(R201). -/
def Core.contributed (k : Core) : Bool :=
  k.teasel.isEmpty && k.vec.isEmpty && k.matq.isEmpty && k.sumq.isEmpty && !k.outq.any fun e => match e.body with
    | .localStore .. => true
    | _ => false

/-- A router combines two partials of the tree and forwards the result, the root's last one to the collective; a rank's own
contribution is taken once it has been performed at its core (R201). A step that raises any event counts COMB_ARITH once at
its core, for the collective's tenant (R159, R454). (DESIGN CHOICE, log 49.) -/
def execRouterCombining (core : Nat) (comb : CombineStep) (s : State) : Res :=
  if coreCount ≤ core || !comb.ok || (!comb.second && !(s.core core).contributed) then s.idle
  else
    let r := comb.run
    let s := if r.2 = 0#6 then s else s.count core comb.tenant 0x016
    .next (s.output (.combined core r.1))

end Sys2Proof.Machine
end

