-- ==== Sys2Proof/Machine/Power.lean ====
section
/-! DEFINITION. Power, cooling and energy (chapter 28), the die's management registers (R455) and management over MCTP and
PLDM (R457 to R459). -/

namespace Sys2Proof.Machine

open Sys2Proof

/-! ### Operating points (R443, R447 to R449) -/

/-- The point a die is to run at: P0 while clamped, else the lower of its cap's and the package limit's. -/
def Die.goal (d : Die) : Nat := if d.clamped then 0 else min d.capPoint d.inputPoint

/-- Begin the change to the goal, which takes 20 us. -/
def Die.retarget (d : Die) (now : Nat) : Die :=
  if d.target.getD d.point = d.goal then d else { d with target := some d.goal, changeAt := now + 20000 }

/-- Clocks of the points in units of 150 MHz; during a change the die runs at the lower of the two. -/
def pointClock (p : Nat) : Nat := 6 + p
def Die.clock (d : Die) : Nat :=
  match d.target with
  | some t => min (pointClock t) (pointClock d.point)
  | none => pointClock d.point

def State.steer (s : State) (die : Nat) : State := s.modDie die fun d => d.retarget s.mod.timeNs

/-- Change compute dies and steer them. -/
def State.steerAll (s : State) (f : Die → Die) : State := (List.range 16).foldl (fun s d => (s.modDie d f).steer d) s

/-- The word of a rail sample (R445): its rail, the mean voltage in mV, the mean current in units of 10 mA and the mean power
in units of 0.1 W, each saturated at all ones. -/
def railWord (rail milliVolts tenMilliAmps deciWatts : Nat) : Word :=
  BitVec.ofNat 64 (rail % 256 * 2 ^ 56 + min milliVolts 0xFFFF * 2 ^ 40 + min tenMilliAmps 0xFFFFF * 2 ^ 20 + min deciWatts 0xFFFFF)
def sampleVolt (w : Word) : Nat := bits w.toNat 40 16
def sampleCurr (w : Word) : Nat := bits w.toNat 20 20
def samplePwr (w : Word) : Nat := bits w.toNat 0 20

/-- The highest point whose predicted power lies within the cap; a cap of 0 means none. (DESIGN CHOICE, log 31.) -/
def State.capPointOf (s : State) (die : Nat) : Nat :=
  let d := s.die die
  let sample := samplePwr ((Tab.get? s.mod.rails (0x10 + die)).getD 0#64)
  if d.cap = 0 then 4
  else ((List.range 5).reverse.find? fun p => decide (Config.predictedPower sample d.point p ≤ 10 * d.cap)).getD 0

def State.applyCap (s : State) (die : Nat) : State :=
  (s.modDie die fun d => { d with capPoint := s.capPointOf die }).steer die

def execDvfsChangeDone (die : Nat) (s : State) : Res :=
  match (s.die die).target with
  | some t =>
    if s.mod.timeNs < (s.die die).changeAt then s.idle
    else .next ((s.modDie die fun d => { d with point := t, target := none }).steer die)
  | none => s.idle

/-- A cap is written over PLDM. -/
def execCapWrite (die watts : Nat) (s : State) : Res :=
  if 16 ≤ die then s.idle else .next ((s.modDie die fun d => { d with cap := watts }).applyCap die)

/-! ### The clamp (R448) -/

/-- Kind 7 of R457: more than 10 clamps of a die in one minute. -/
def State.noteClamp (s : State) (die : Nat) : State :=
  let now := s.mod.timeNs
  let s := (s.countDie die 0x10B).modMod fun m => { m with
    thermHist := (m.thermHist.filter fun x => decide (now < x.2 + 60000000000)) ++ [(die, now)] }
  let n := (s.mod.thermHist.filter fun x => decide (x.1 = die)).length
  if 10 < n then s.prefail 7 die 0xFF n else s

/-- The hottest lid region. -/
def Die.hottest (d : Die) : Nat := d.lids.foldl (fun a x => max a x.2) 0

/-- A lid sample: above TSAT + 20 K it restarts the hold of 10 ms, also of a clamp released in its own cycle (R449); above
TSAT + 25 K it clamps the die. -/
def execLidSample (die region temp : Nat) (s : State) : Res :=
  if 16 ≤ die ∨ 8 ≤ region then s.idle
  else
    let t := satAdd 0xFFFF temp 0
    let s := s.modDie die fun d => { d with lids := Tab.put d.lids region t }
    let hot := decide (s.mod.tsat.toNat + 320 < (s.die die).hottest)
    let cool (d : Die) : Die := { d with coolSince := if hot then none else if d.coolSince.isSome then d.coolSince else some s.mod.timeNs }
    let s := s.modDie die cool
    if s.mod.tsat.toNat + 320 < t ∧ (s.die die).releasedAt = some (s.die die).cycles then
      .next ((s.modDie die fun d => { d with clamped := true, releasedAt := none }).steer die)
    else if s.mod.tsat.toNat + 400 < t ∧ !(s.die die).clamped then
      .next (((s.modDie die fun d => { d with clamped := true }).steer die).noteClamp die)
    else .next s

/-- Release after 10 ms of samples at or below TSAT + 20 K; not while the input is below 38 V, which clamps every die (R441). -/
def execClampRelease (die : Nat) (s : State) : Res :=
  match (s.die die).coolSince with
  | some t =>
    if !(s.die die).clamped || s.mod.clampAll || decide (s.mod.timeNs < t + 10000000) then s.idle
    else .next ((s.modDie die fun d => { d with clamped := false, releasedAt := some d.cycles }).steer die)
  | none => s.idle

/-! ### The input (R441) -/

def execInputLow (milliVolts micros : Nat) (s : State) : Res :=
  if 38000 ≤ milliVolts ∨ micros < 1000 ∨ s.mod.clampAll then s.idle
  else
    let s := (s.modMod fun m => { m with clampAll := true }).countDie moduleDie 0x109
    .next (s.steerAll fun d => { d with clamped := true, coolSince := none })

/-- Above 6,000 W every compute die steps one point down per 50 us; the excursion counts once. (DESIGN CHOICE, log 31.) -/
def execInputLimit (milliWatts : Nat) (s : State) : Res :=
  if milliWatts ≤ 6000000 then .next (s.modMod fun m => { m with limitAt := none })
  else
    let now := s.mod.timeNs
    let due := match s.mod.limitAt with
      | some t => decide (t + 50000 ≤ now)
      | none => true
    if !due then s.idle
    else
      let s := if s.mod.limitAt.isNone then s.countDie moduleDie 0x10A else s
      .next ((s.modMod fun m => { m with limitAt := some now }).steerAll fun d => { d with inputPoint := (d.target.getD d.point) - 1 })

/-! ### Telemetry (R442, R445, R457) -/

def railOk (r : Nat) : Bool :=
  decide (r ≤ 4) || (decide (0x10 ≤ r) && decide (r ≤ 0x1F)) || (decide (0x20 ≤ r) && decide (r ≤ 0x23)) ||
    (decide (0x30 ≤ r) && decide (r ≤ 0x3F))

/-- Kind 4 of R457, for the input connector: its resistance against that of the first sample. (DESIGN CHOICE, log 31.) -/
def State.noteContact (s : State) (v : Word) : State :=
  let r := Config.contactResistance (sampleVolt v) (sampleCurr v) (samplePwr v)
  match s.mod.contact with
  | none => s.modMod fun m => { m with contact := some r }
  | some b => if 6 * b < 5 * r then s.prefail 4 0x80 0xFF r else s

/-- A rail sample, its fields saturated; a compute die's own applies its cap. (DESIGN CHOICE, log 31.) -/
def execRailSample (rail milliVolts tenMilliAmps deciWatts : Nat) (s : State) : Res :=
  if !railOk rail then s.idle
  else
    let v := railWord rail milliVolts tenMilliAmps deciWatts
    let s := s.modMod fun m => { m with rails := Tab.put m.rails rail v }
    if rail = 0 then
      let s := if 38000 ≤ milliVolts then s.modMod fun m => { m with clampAll := false } else s
      .next (s.noteContact v)
    else if 0x10 ≤ rail ∧ rail ≤ 0x1F then
      let die := rail - 0x10
      let s := if s.mod.limitAt.isNone then s.modDie die fun d => { d with inputPoint := 4 } else s
      .next (s.applyCap die)
    else .next s

/-! ### Energy (R450) -/

/-- Energy credited to a tenant: its counter is 48 bits and saturates. One that is saved takes nothing; what is due to it is
credited with a later millisecond in which it is loaded. (DEDUCED, log 31.) -/
def State.credit (s : State) (core t uj : Nat) : State :=
  let k := s.core core
  let tn : Tenant := BitVec.ofNat 12 t
  let all := uj + (Tab.get? k.energyDue t).getD 0
  if all = 0 then s
  else if k.admits tn then
    (s.modCore core fun k => { k with energy := Tab.put k.energy t (satAdd 0xFFFFFFFFFFFF ((Tab.get? k.energy t).getD 0) all),
                                      energyDue := Tab.del k.energyDue t }).countN core tn 0x006 all
  else s.modCore core fun k => { k with energyDue := Tab.put k.energyDue t all }

/-- One core's share by tenant, in proportion to their busy cycles; what idle cycles (under 4,096), tenant 0's and rounding
leave is tenant 0's. A tenant with energy due comes up with nothing new. -/
def Core.split (k : Core) (share : Nat) : List (Nat × Nat) :=
  let total := k.busyCycles.foldl (fun a x => a + x.2) 0
  let mine := (k.busyCycles.filter fun x => decide (x.1 ≠ 0) && decide (x.1 < 4096)).map fun x => (x.1, share * x.2 / total)
  (0, share - mine.foldl (fun a x => a + x.2) 0) :: mine ++
    ((k.energyDue.filter fun x => !mine.any fun y => decide (y.1 = x.1)).map fun x => (x.1, 0))

/-- One core's share is credited, and its counts for the next millisecond begin. -/
def State.creditCore (s : State) (core share : Nat) : State :=
  (((s.core core).split share).foldl (fun s x => s.credit core x.1 x.2) s).modCore core fun k =>
    { k with busyCycles := [], engineCycles := 0, groups := 0 }

/-- What a core weighs in the apportioning: its issued groups and its engine cycles. (DEDUCED, log 31.) -/
def Core.weight (k : Core) : Nat := k.groups + k.engineCycles

/-- The shares of the cores of a die in an energy, and what no core takes. -/
def State.shares (s : State) (die uj : Nat) : List (Nat × Nat) :=
  let cores := s.cores.filter fun k => decide (dieOf k.1 = die)
  let total := cores.foldl (fun a k => a + k.2.weight) 0
  cores.map fun k => (k.1, if total = 0 then 0 else uj * k.2.weight / total)

/-- The energy of a millisecond is apportioned to the die's cores, what rounding leaves carried on; with no group issued and
no engine at work all of it is. (DESIGN CHOICE, log 31.) -/
def execEnergyApportion (die microJoules : Nat) (s : State) : Res :=
  if 16 ≤ die ∨ s.mod.timeNs < (s.die die).energyAt + 1000000 then s.idle
  else
    let uj := microJoules + (s.die die).energyRest
    let l := s.shares die uj
    .next ((l.foldl (fun s x => s.creditCore x.1 x.2) s).modDie die fun d =>
      { d with energyAt := s.mod.timeNs, energyRest := uj - l.foldl (fun a x => a + x.2) 0 })

/-- The energy that the cores of a die have been credited, and what is due there to tenants whose counters are saved. -/
def State.energyOf (s : State) (die : Nat) : Nat :=
  (s.cores.filter fun k => decide (dieOf k.1 = die)).foldl (fun a k =>
    a + k.2.energy.foldl (fun a x => a + x.2) 0 + k.2.energyDue.foldl (fun a x => a + x.2) 0) 0

/-! ### Management (R438, R446, R455, R458, R459) -/

def execTsatWrite (value : BitVec 16) (s : State) : Res := .next (s.modMod fun m => { m with tsat := value })
/-- FEED is set; firmware tells the other modules and chooses its buddy (R438). (DESIGN CHOICE, log 65.) -/
def execFeedWrite (value : BitVec 16) (s : State) : Res :=
  let s := s.modMod fun m => { m with feed := value }
  .next (s.podModules.foldl (fun s m => s.tellModule m (.feed value)) s).chooseBuddy

/-- The source codes of R453. -/
def sourceCode (c : Nat) : Bool := evSource c || (decide (0x100 ≤ c) && decide (c ≤ 0x10C))

/-- A selector of one of the sixteen event counters of a die. -/
def execDieCounterSelect (die counter source : Nat) (s : State) : Res :=
  if 20 ≤ die ∨ 16 ≤ counter ∨ !sourceCode source then s.idle
  else .next (s.modDie die fun d => { d with selectors := Tab.put d.selectors counter source })

/-- PLDM type 0 (R458): the terminus has an identifier that its owner sets, and names the types it supports; versions and
commands of a type are free values. (PRESUMED, log 73.) -/
def State.pldmBase (s : State) (c : PldmBase) : State :=
  match c with
  | .setTid t => (s.modMod fun m => { m with tid := t }).output (.mctp "TID set" [])
  | .getTid => s.output (.mctp "TID" [s.mod.tid])
  | .getTypes => s.output (.mctp "PLDM types" [0#8, 2#8, 5#8])
  | .getVersion t => s.output (.mctp "PLDM version" (if [0#8, 2#8, 5#8].contains t then Config.pldmVersion t else []))
  | .getCommands t => s.output (.mctp "PLDM commands" (if [0#8, 2#8, 5#8].contains t then Config.pldmCommands t else []))

/-- The MCTP endpoint. -/
def execMctpControl (cmd : MctpCmd) (s : State) : Res :=
  match cmd with
  | .setEndpointId e => .next ((s.modMod fun m => { m with eid := e }).output (.mctp "endpoint id set" [e]))
  | .getEndpointId => .next (s.output (.mctp "endpoint id" [s.mod.eid]))
  | .getMessageTypes => .next (s.output (.mctp "MCTP control, PLDM 0, PLDM 2, PLDM 5, SPDM" []))
  | .pldmBase c => .next (s.pldmBase c)

/-- The sum of a diagnostic counter over the cores and dies of a part of the module. -/
def State.diagIn (s : State) (code : Nat) (core die : Nat → Bool) : Nat :=
  (s.cores.filter fun k => core k.1).foldl (fun a k => a + (Tab.get? k.2.diag code).getD 0) 0 +
    (s.dies.filter fun d => die d.1).foldl (fun a d => a + (Tab.get? d.2.diag code).getD 0) 0

/-- Its sum over the module, and over one die and that die's cores. -/
def State.diagSum (s : State) (code : Nat) : Nat := s.diagIn code (fun _ => true) fun _ => true
def State.dieSum (s : State) (die code : Nat) : Nat := s.diagIn code (fun c => decide (dieOf c = die)) fun d => decide (d = die)

/-- Number of set bits of a word. -/
def popWord (w : Word) : Nat := ((List.range 64).filter fun i => w.getLsbD i).length

/-- A count, as a reading. -/
def countOf (n : Nat) : Reading := { value := n }

/-- The boiling margin of a die (R446): 25 K minus its superheat, in sixteenths of a kelvin. -/
def State.margin (s : State) (die : Nat) : Reading :=
  { value := 400 - (((s.die die).hottest : Int) - s.mod.tsat.toNat), per := 16 }

/-- The readings of a sensor (R459), in the resolution of their source: a rail's power, voltage and current (R445), lid
temperatures, margins, counts, energy; a diagnostic counter's sum over the module, and behind it those of the dies in order,
the link dies last. None for an identifier outside the ranges. -/
def State.sensor (s : State) (id : Nat) : Option (List Reading) :=
  if 0x0100 ≤ id ∧ id < 0x0140 then
    if railOk (id - 0x100) then
      let r := (Tab.get? s.mod.rails (id - 0x100)).getD (railWord (id - 0x100) 0 0 0)
      some [{ value := samplePwr r, per := 10 }, { value := sampleVolt r, per := 1000 }, { value := sampleCurr r, per := 100 }]
    else none
  else if 0x0200 ≤ id ∧ id < 0x0280 then
    some [{ value := ((Tab.get? (s.die ((id - 0x200) / 8)).lids ((id - 0x200) % 8)).getD 0 : Nat), per := 16 }]
  else if 0x0280 ≤ id ∧ id < 0x0290 then some [s.margin (id - 0x280)]
  else if 0x0400 ≤ id ∧ id < 0x0440 then
    let w := ((Tab.get? s.members (id - 0x400)).getD {}).words
    let live := (List.range 16).foldl (fun a i => a + popWord ((Tab.get? w (i + 1)).getD 0#64)) 0
    some [countOf (((Tab.get? w 0).getD 0#64).toNat / 2 ^ 32), countOf live]
  else if id = 0x0500 then some [countOf (s.diagSum 0x04B)]
  else if id = 0x0501 then some [countOf (s.diagSum 0x045)]
  else if id = 0x0502 then some [countOf (s.diagSum 0x044)]
  else if 0x0600 ≤ id ∧ id ≤ 0x070C then
    if sourceCode (id - 0x600) && decide (id ≠ 0x600) then
      some (countOf (s.diagSum (id - 0x600)) :: (List.range 20).map fun d => countOf (s.dieSum d (id - 0x600)))
    else none
  else if 0x1000 ≤ id ∧ id < 0x2000 then
    some [{ value := (s.cores.foldl (fun a k => a + (Tab.get? k.2.energy (id - 0x1000)).getD 0) 0 : Nat), per := 1000000 }]
  else none

/-- What a sensor shows: its value at the last update, and before the first one its value now. (DESIGN CHOICE, log 31.) -/
def State.shown (s : State) (id : Nat) : Option (List Reading) :=
  match s.mod.sensed with
  | some t => Tab.get? t id
  | none => s.sensor id

def execPldmSensorRead (id : Nat) (s : State) : Res :=
  match s.shown id with
  | some v => .next (s.output (.sensor id v))
  | none => s.idle

end Sys2Proof.Machine
end

