-- ==== Sys2Proof/Machine/HostGate.lean ====
section
/-! DEFINITION. The host gateway (chapter 25): functions and their registers, the send aperture, the memory aperture, the
host queue, TDISP and IDE, function level reset. -/

namespace Sys2Proof.Machine

open Sys2Proof

/-! ### Functions (R393 to R397) -/

/-- Set bits of FSTAT. -/
def HostFn.flag (f : HostFn) (bit : Nat) : HostFn := { f with fstat := f.fstat ||| (1#64 <<< bit) }

/-- FSTAT.WHY takes a cause, with REFUSED. -/
def HostFn.refuse (f : HostFn) (why : Nat) : HostFn :=
  ({ f with fstat := (f.fstat &&& ~~~0xF00#64) ||| BitVec.ofNat 64 (why * 256 + 1) } : HostFn).bump 0

/-- A request to a confidential VF is accepted only in RUN and on its selective stream (R394). -/
def HostFn.accepts (f : HostFn) (sealed : Bool) : Bool := !f.confidential || (decide (f.tdi = .run) && f.ideSel && sealed)

/-- A request to a function: none comes for one that does not exist; one that R394 denies gets an Unsupported Request
completion and advances HOST_DENY. (PRESUMED, log 34.) -/
def State.atFunction (s : State) (fn : Nat) (sealed : Bool) (k : Res) : Res :=
  if !s.fnExists fn then s.idle
  else if !(s.hostFn fn).accepts sealed then .next ((s.countDie moduleDie 0x10C).output (.unsupported fn))
  else k

/-- Writing 1 clears a bit of FSTAT. -/
def execFstatClear (req : HostReq) (value : Word) (s : State) : Res :=
  s.atFunction req.fn req.sealed (.next (s.modHostFn req.fn fun f => { f with fstat := f.fstat &&& ~~~(value &&& 0xF#64) }))

def execHqheadWrite (req : HostReq) (value : Word) (s : State) : Res :=
  s.atFunction req.fn req.sealed (.next (s.modHostFn req.fn fun f => { f with hqhead := value }))

/-- A register takes a value within its limits, or the write is ignored with CFG. -/
def HostFn.config (f : HostFn) (ok : Bool) (g : HostFn) : HostFn := if ok then g else f.flag 3

/-- A write to a configuration register or the MSI-X table; every other offset ignores it (R395). (PRESUMED, log 34.) -/
def HostFn.writeReg (f : HostFn) (off : Nat) (v : Word) : HostFn :=
  let on := f.hqctl.getLsbD 0
  let size := bits v.toNat 1 5
  if off = 0x20 then f.config (!on && decide (v.toNat % 4096 = 0)) { f with hqbase := v }
  else if off = 0x28 then
    f.config (!on && decide (v.toNat < 64) && decide (4 ≤ size) && decide (size ≤ 16)) { f with hqctl := v }
  else if off = 0x30 then f.config (decide (v.toNat % 8 = 0)) { f with hqtailp := v }
  else if off = 0x40 then f.config (decide (v.toNat < 2 ^ 48) && decide (v.toNat % 0x200000 = 0)) { f with apbase := v }
  else if 0x8000 ≤ off ∧ off < 0x8040 ∧ off % 8 = 0 then { f with msix := Tab.put f.msix ((off - 0x8000) / 8) v }
  else f

/-- Vectors that are pending and no longer masked are signalled. -/
def HostFn.masked (f : HostFn) (v : Nat) : Bool := ((Tab.get? f.msix (2 * v + 1)).getD 0#64).getLsbD 32

/-- (PRESUMED, log 34.) -/
def State.signalVector (s : State) (fn v : Nat) : State :=
  if (s.hostFn fn).masked v then s.modHostFn fn fun f => { f with pba := f.pba ||| (1#64 <<< v) }
  else (s.modHostFn fn fun f => { f with pba := f.pba &&& ~~~(1#64 <<< v) }).output (.msix fn v)

/-- What a register of BAR0 reads; offsets that are not listed, and the send aperture, read zero (R395). (PRESUMED, log 34.) -/
def State.readReg (s : State) (fn off : Nat) : Word :=
  let f := s.hostFn fn
  match off with
  | 0x00 => s.gwName fn
  | 0x08 => s.fw.svcName
  | 0x10 => f.fstat
  | 0x18 => BitVec.ofNat 64 (64 - f.sending.length)
  | 0x20 => f.hqbase
  | 0x28 => f.hqctl
  | 0x30 => f.hqtailp
  | 0x38 => f.hqhead
  | 0x40 => f.apbase
  | 0x48 => BitVec.ofNat 64 f.cnt
  | 0x9000 => f.pba
  | _ => if 0x8000 ≤ off ∧ off < 0x8040 ∧ off % 8 = 0 then (Tab.get? f.msix ((off - 0x8000) / 8)).getD 0#64 else 0#64

/-- Class code and device identifier (R393). -/
def classCode : Nat := 0x120000
def deviceId : Nat := 0x2065

/-- Something outside reads: BAR0 of a function, its configuration space, effecters and the registers of management (R393,
R395, R423, R455, R459). -/
def State.outRead (s : State) (r : OutRead) : Res :=
  match r with
  | .bar0 fn off sealed => s.atFunction fn sealed (.next (s.output (.readReply fn (leBytes 8 (s.readReg fn off).toNat))))
  | .config fn => if s.fnExists fn then .next (s.output (.readReply fn (leBytes 2 deviceId ++ leBytes 3 classCode))) else s.idle
  | .effecter i =>
    if i = 0x20 then .next (s.output (.sensor i [{ value := s.mod.tsat.toNat, per := 16 }]))
    else if i = 0x21 then .next (s.output (.sensor i [{ value := s.mod.feed.toNat }]))
    else if 0x10 ≤ i ∧ i < 0x20 then .next (s.output (.sensor i [{ value := (s.die (i - 0x10)).cap }]))
    else s.idle
  | .routeMask m => .next (s.output (.register (((Tab.get? s.masks m).getD 0#24).setWidth 64)))
  | .coreDiag core code => .next (s.output (.register (BitVec.ofNat 64 ((Tab.get? (s.core core).diag code).getD 0))))
  | .dieDiag die code => .next (s.output (.register (BitVec.ofNat 64 ((Tab.get? (s.die die).diag code).getD 0))))
  | .dieCounter die n => .next (s.output (.register (BitVec.ofNat 64 ((Tab.get? (s.die die).counters n).getD 0))))

def execHostRegisterWrite (req : HostReq) (off : Nat) (value : Word) (s : State) : Res :=
  s.atFunction req.fn req.sealed
    (let s := s.modHostFn req.fn fun f => f.writeReg off value
     .next ((List.range 4).foldl (fun s v =>
       if (s.hostFn req.fn).pba.getLsbD v && !(s.hostFn req.fn).masked v then s.signalVector req.fn v else s) s))

/-! ### Sending (R398) -/

/-- The message of 64 bytes, as the gateway envelopes it: every one carries REL. -/
def State.hostMsg (s : State) (fn : Nat) (bs : List Byte) : Msg :=
  let w (o : Nat) : Word := BitVec.ofNat 64 (field bs o 8)
  let hi := field bs 8 8
  { dest := w 0, hidx := BitVec.ofNat 6 hi, chan := BitVec.ofNat 2 (hi / 64), prio := BitVec.ofNat 16 (hi / 65536), mflags := 0x20#8,
    ctx := BitVec.ofNat 32 (hi / 2 ^ 32), a0 := w 16, a1 := w 24, a2 := w 32, a3 := w 40, sender := s.gwName fn,
    tenant := (s.hostFn fn).tenant }

/-- The cause of a refusal, in the order of WHY (R397, R398). -/
def State.refusal (s : State) (fn off : Nat) (bs : List Byte) : Option Nat :=
  let m := s.hostMsg fn bs
  let t := nameTenant m.dest
  if bs.length ≠ 64 ∨ off % 64 ≠ 0 then some 1
  else if field bs 9 1 ≠ 0 ∨ field bs 48 16 ≠ 0 then some 2
  else if m.chan = 0#2 then some 3
  else if (t ≠ m.tenant ∧ t ≠ 0#12) ∨ (fn = 0 ∧ m.dest ≠ s.fw.svcName) then some 4
  else if nameBad m.dest then some 5
  else if ctxBad m.ctx then some 6
  else none

/-- A write to the send aperture: its message takes a slot, or is refused, or finds no slot. It leaves with the next cycle,
behind the posted writes before it, which are all performed. (DESIGN CHOICE, log 27.) -/
def execSendApertureWrite (req : HostReq) (off : Nat) (bytes : List Byte) (s : State) : Res :=
  s.atFunction req.fn req.sealed
    (if 4096 ≤ off then s.idle
     else match s.refusal req.fn off bytes with
     | some why => .next (s.modHostFn req.fn fun f => f.refuse why)
     | none =>
       if 64 ≤ (s.hostFn req.fn).sending.length then .next (s.modHostFn req.fn fun f => (f.flag 1).bump 1)
       else .next (s.modHostFn req.fn fun f => { f with sending := f.sending ++ [s.hostMsg req.fn bytes] }))

/-- The accepted messages of a function leave, in the order of their writes, and their slots return.
(DESIGN CHOICE, log 27.) -/
def State.sendHost (s : State) (fn : Nat) : State :=
  (s.hostFn fn).sending.foldl (fun s m => s.transmit (hostPlace + fn) (.msg m) false) (s.modHostFn fn fun f => { f with sending := [] })

/-! ### The memory aperture (R399) -/

/-- An aperture access failed: APF and AP_FAULT. -/
def State.apFault (s : State) (fn : Nat) : State := s.modHostFn fn fun f => (f.flag 2).bump 3

/-- An access of a VF's aperture within its 16 GiB. (PRESUMED, log 34.) -/
def State.atAperture (s : State) (fn off len : Nat) (sealed : Bool) (k : Res) : Res :=
  if fn = 0 ∨ 2 ^ 34 < off + len then s.idle else s.atFunction fn sealed k

def execBar2Write (fn off : Nat) (bytes : List Byte) (sealed : Bool) (s : State) : Res :=
  s.atAperture fn off bytes.length sealed
    (match (s.hostFn fn).bound with
     | none => .next (s.apFault fn)
     | some t =>
       let r := s.hbmWrite t ((s.hostFn fn).apbase.toNat + off) bytes
       .next (if r.2.1 = .ok then r.1 else r.1.apFault fn))

def execBar2Read (fn off len : Nat) (sealed : Bool) (s : State) : Res :=
  s.atAperture fn off len sealed
    (match (s.hostFn fn).bound with
     | none => .next ((s.apFault fn).output (.readReply fn (List.replicate len 0xFF#8)))
     | some t =>
       let r := s.hbmRead t ((s.hostFn fn).apbase.toNat + off) len
       .next (if r.2.1 = .ok then r.1.output (.readReply fn r.2.2)
         else (r.1.apFault fn).output (.readReply fn (List.replicate len 0xFF#8))))

/-! ### The host queue (R402) -/

/-- An entry of the host queue: header, words, sender. -/
def Msg.entry (m : Msg) : List Byte :=
  leBytes 8 m.headerLo.toNat ++ leBytes 8 m.headerHi.toNat ++ leBytes 8 m.a0.toNat ++ leBytes 8 m.a1.toNat ++
    leBytes 8 m.a2.toNat ++ leBytes 8 m.a3.toNat ++ leBytes 8 m.sender.toNat ++ leBytes 8 0

/-- The first message that waits is written, then the tail, then the vector is signalled. -/
def execHostQueueDelivery (fn : Nat) (s : State) : Res :=
  let f := s.hostFn fn
  match f.waiting with
  | [] => s.idle
  | m :: rest =>
    let next := (f.hqtail + 1) % f.queueSize
    if !(s.fnExists fn && f.hqctl.getLsbD 0) || decide (next = f.hqhead.toNat) then s.idle
    else
      let s := s.modHostFn fn fun f => { f with waiting := rest, hqtail := next }
      let s := s.output (.hostWrite fn (f.hqbase.toNat + 64 * f.hqtail) m.entry)
      let s := s.output (.hostWrite fn f.hqtailp.toNat (leBytes 8 next))
      .next (s.signalVector fn (if m.chan = 0#2 then 1 else 0))

/-! ### Reset, TDISP, IDE, SR-IOV (R393, R394, R403) -/

/-- Function level reset: registers go; a VF's messages go too, its actors are killed, and its tenant stays bound.
(PRESUMED, log 34.) -/
def execFunctionLevelReset (fn : Nat) (s : State) : Res :=
  if !s.fnExists fn then s.idle
  else
    let f := s.hostFn fn
    let s := s.modHostFn fn fun f => { enabled := f.enabled, bound := f.bound, confidential := f.confidential, tdi := f.tdi,
                                       ideSel := f.ideSel,
                                       waiting := if fn = 0 then f.waiting else [], sending := if fn = 0 then f.sending else [] }
    match f.bound with
    | some t => .next (if fn = 0 then s else s.podModules.foldl (fun s m => s.tellModule m (.kill t)) (s.killTenant t .shutdown))
    | none => .next s

/-- The states of a TDI. (PRESUMED, log 34.) -/
def TdiState.after (t : TdiState) (r : TdispReq) : TdiState :=
  match r, t with
  | .lock, .unlocked => .locked
  | .start, .locked => .run
  | .stop, _ => .unlocked
  | .error, .unlocked => .unlocked
  | .error, _ => .error
  | _, t => t

def execTdispRequest (fn : Nat) (req : TdispReq) (s : State) : Res :=
  if fn = 0 ∨ !s.fnExists fn then s.idle else .next (s.modHostFn fn fun f => { f with tdi := f.tdi.after req })

/-- An IDE stream is programmed, the module's one link stream or a function's selective one; a TDI that loses its selective
stream is in error (R393). -/
def execIdeStreamSetup (fn : Nat) (selective enable : Bool) (s : State) : Res :=
  if !s.fnExists fn then s.idle
  else if selective then
    .next (s.modHostFn fn fun f => { f with ideSel := enable, tdi := if enable then f.tdi else f.tdi.after .error })
  else .next (s.modMod fun m => { m with ideLink := enable })

/-- Virtual functions 1 to `count` exist; one whose tenant firmware knows is bound to it again. -/
def execVfEnable (count : Nat) (s : State) : Res :=
  if 64 < count ∨ s.boot.state = .recovery then s.idle
  else
    let vf (n : Nat) : HostFn :=
      if (s.hostFn n).enabled then s.hostFn n
      else match s.fw.tenants.find? fun t => decide (t.2.vf = n) with
        | some t => { enabled := true, bound := some (BitVec.ofNat 12 t.1), confidential := t.2.confidential }
        | none => { enabled := true }
    .next { s with hostFns := (s.hostFns.filter fun f => decide (f.1 = 0)) ++ (List.range count).map fun n => (n + 1, vf (n + 1)) }

end Sys2Proof.Machine
end

