-- ==== Sys2Proof/Machine/Service.lean ====
section
/-! DEFINITION. The steward service of firmware: host requests (25 R400, R401), device requests and membership (26 R419-R421),
page tables and frames (R413-R416), keys of tenants (R411), and the acknowledgements of group installation (27 R431). -/

namespace Sys2Proof.Machine

open Sys2Proof

/-! ### Requests and answers (R400, R421) -/

/-- The sender is a host-gateway name of this module. -/
def State.fromHost (s : State) (m : Msg) : Bool := decide (nameCore m.sender = hostPlace) && s.isLocal m.sender

/-- The function number in a host request. -/
def Msg.fn (m : Msg) : Nat := bits m.sender.toNat 46 8

/-- The request code. -/
def Msg.code (m : Msg) : Nat := bits m.a0.toNat 0 8

/-- The codes a host, and an actor, may send. -/
def hostCode (c : Nat) : Bool := decide (1 ≤ c) && decide (c ≤ 8)
def deviceCode (c : Nat) : Bool := [3, 4, 6, 7, 8, 0x10, 0x11, 0x12].contains c

/-- A message the service takes as a request: HIDX 2, channel 1, a known code. (DESIGN CHOICE, log 35.) -/
def Msg.proper (m : Msg) : Bool :=
  m.hidx == 2#6 && m.chan == 1#2 && (if nameCore m.sender = hostPlace then hostCode m.code else deviceCode m.code)

/-- Reserved bits of a0. -/
def Msg.a0Reserved (m : Msg) : Bool :=
  if nameCore m.sender = hostPlace then decide (bits m.a0.toNat 8 8 ≠ 0) else decide (bits m.a0.toNat 14 2 ≠ 0)

/-- The answer to a request: a REPLY on channel 1, to HIDX 2 of the host queue or to the handler an actor names; it is a message
of steward firmware (R37). (DEDUCED, log 39.) -/
def Msg.answer (m : Msg) (status : Nat) (a1 a2 a3 : Word) : Msg :=
  { dest := m.sender, hidx := if nameCore m.sender = hostPlace then 2#6 else BitVec.ofNat 6 (bits m.a0.toNat 8 6),
    chan := 1#2, prio := 0#16, mflags := 0x10#8, ctx := m.ctx,
    a0 := BitVec.ofNat 64 (status + m.code * 256 + bits m.a0.toNat 16 48 * 65536), a1 := a1, a2 := a2, a3 := a3,
    sender := m.dest, tenant := 0#12, isReply := true }

/-- A request of the name is being served: its answer waits for switches or a wave. -/
def State.serving (s : State) (n : Name) : Bool :=
  s.groups.any (fun g => match g.2.answerTo with | some a => a.dest == n | none => false) ||
    s.waves.any (fun w => match w.2.service with | some a => a.dest == n | none => false) || s.fw.rootPending.any (·.sender == n)

/-- A request comes behind the earlier ones of its sender, whatever their channels, and behind a TENANT_DESTROY of its tenant:
messages in flight reach the service in their order (R400, R404). (DESIGN CHOICE, log 11.) -/
def State.behindService (s : State) (n : Nat) (m : Msg) : Bool :=
  (s.net.take n).any fun p => match p with
    | .msg x => x.dest == s.fw.svcName && !ctxBad x.ctx && (x.sender == m.sender ||
        (s.fromHost x && x.proper && decide (x.code = 2) && decide (x.a1 = m.tenant.setWidth 64)))
    | _ => false

/-- The message at place `n` in flight, where the service takes it now: requests of one sender one at a time, in order; one
under a context id that is never issued is discarded at arrival (R118). (DESIGN CHOICE, log 11.) -/
def State.serviceMsg (s : State) (n : Nat) : Option Msg :=
  match s.net[n]? with
  | some (.msg m) =>
    if m.dest == s.fw.svcName && s.isLocal m.dest && !ctxBad m.ctx && !s.behindService n m && !s.serving m.sender then some m else none
  | _ => none

/-- Answer and be done with a request. -/
def State.answerWith (s : State) (n : Nat) (m : Msg) (status : Nat) (a1 a2 a3 : Word) : Res :=
  .next ((s.takePacket n).transmit gateCore (.msg (m.answer status a1 a2 a3)) true)

def State.status (s : State) (n : Nat) (m : Msg) (st : Nat) : Res := s.answerWith n m st 0#64 0#64 0#64

/-- A request of one code: in recovery all but QUERY is denied (R407); a set reserved bit is BAD_ARG; a request of another
function than may send it is DENIED. (DESIGN CHOICE, log 35.) -/
def State.serve (s : State) (n code : Nat) (who : Msg → Bool) (k : Msg → Res) : Res :=
  match s.serviceMsg n with
  | none => s.idle
  | some m =>
    if !m.proper || decide (m.code ≠ code) then s.idle
    else if decide (s.boot.state = .recovery) && decide (code ≠ 6) then s.status n m 4
    else if m.a0Reserved then s.status n m 5
    else if who m then k m else s.status n m 4

/-- The physical function. -/
def State.isPf (s : State) (m : Msg) : Bool := s.fromHost m && decide (m.fn = 0)

/-- A virtual function that its tenant is bound to, or, where `device` allows it, an actor of a tenant. -/
def State.isVf (s : State) (m : Msg) : Bool :=
  s.fromHost m && decide (m.fn ≠ 0) && decide ((s.hostFn m.fn).bound = some m.tenant)
def State.isUser (s : State) (m : Msg) : Bool := if nameCore m.sender = hostPlace then s.isVf m else true

/-- A record of the requester's tenant. -/
def State.tenantRec (s : State) (t : Tenant) : Option TenantRec := Tab.get? s.fw.tenants t.toNat
def State.modTenant (s : State) (t : Tenant) (f : TenantRec → TenantRec) : State :=
  s.modFw fun w => { w with tenants := Tab.adjust w.tenants t.toNat f }

/-- Roots that live; one on another module does until its DOWN signal reaches the gateway (R400). (DESIGN CHOICE, log 37.) -/
def State.liveRoots (s : State) (r : TenantRec) : List Name :=
  r.roots.filter fun n => if s.isLocal n then s.alive (nameCore n) n else s.fw.monitors.any (·.root == n)

/-- A message that is no request is answered BAD_ARG, in recovery DENIED. -/
def execServiceBadRequest (n : Nat) (s : State) : Res :=
  match s.serviceMsg n with
  | none => s.idle
  | some m => if m.proper then s.idle else s.status n m (if s.boot.state = .recovery then 4 else 5)

/-! ### Page tables and frames (R413-R416) -/

/-- Where firmware keeps its tables in each stack: level 1 by tenant, then level 2 in units of 4 KiB.
(DESIGN CHOICE, log 12.) -/
def tableZone : Nat := 0xF80000000
/-- (DESIGN CHOICE, log 12.) -/
def level1Pa (t : Tenant) : Nat := tableZone + t.toNat * 0x20000
/-- (DESIGN CHOICE, log 12.) -/
def level2Pa (unit : Nat) : Nat := tableZone + 0x20000000 + unit * 0x1000
/-- (DESIGN CHOICE, log 12.) -/
def level2Units : Nat := 0x60000
/-- (DESIGN CHOICE, log 12.) -/
def framesPerStack : Nat := 0x7C00

/-- Bytes of HBM become zero under any key. -/
def State.wipe (s : State) (home len : Nat) : State :=
  let out (a : Nat) : Bool := decide (a < home) || decide (home + len ≤ a)
  { s with mem := s.mem.filter fun e => out e.1, lineKeys := s.lineKeys.filter fun e => out (e.1 * 64) }

/-- Tenant 0's key, under which tables are written. -/
def State.tableKey (s : State) : BitVec 512 := (s.hbmKey 0#12).getD 0#512

/-- The lowest number not in a list. (DESIGN CHOICE, log 12.) -/
def lowestNot (used : List Nat) : Nat := ((List.range (used.length + 1)).find? fun n => !used.contains n).getD 0

/-- Frames of a stack in use: mapped, or waiting for a shoot-down. (DESIGN CHOICE, log 12.) -/
def State.framesUsed (s : State) (stack : Nat) : List Nat :=
  let of (l : List (Nat × Nat)) : List Nat := (l.filter fun p => decide (p.1 % 16 = stack)).map (·.2)
  s.fw.tenants.flatMap (fun t => of t.2.mapped) ++
    s.fw.releasing.flatMap fun r => if (Tab.get? s.waves r.1).isSome then of r.2 else []

/-- The level-2 table of a page, made where there is none. -/
def State.level2 (s : State) (t : Tenant) (page : Nat) : Option (State × Nat) :=
  let stack := page % 16
  let idx := page / 0x2000
  match s.fw.tables.find? fun e => decide (e.1 = stack) && e.2.1 == t && decide (e.2.2.1 = idx) with
  | some e => some (s, level2Pa e.2.2.2)
  | none =>
    let u := lowestNot ((s.fw.tables.filter fun e => decide (e.1 = stack)).map (·.2.2.2))
    if level2Units ≤ u then none
    else
      let s := s.wipe (hbmHome stack (level2Pa u)) 0x1000
      let s := s.physWrite s.tableKey (hbmHome stack (level1Pa t + 8 * idx)) (leBytes 8 (level2Pa u + 1))
      some (s.modFw fun f => { f with tables := f.tables ++ [(stack, t, idx, u)] }, level2Pa u)

/-- Write the leaf of a page. -/
def State.writeLeaf (s : State) (t : Tenant) (page leaf : Nat) : Option State :=
  (s.level2 t page).map fun r =>
    r.1.physWrite r.1.tableKey (hbmHome (page % 16) (r.2 + 8 * (page / 16 % 512))) (leBytes 8 leaf)

/-- A leaf of level 2: the frame, the tenant whose key its lines are under, and whether it may be written (R414). -/
def leafOf (kten : Tenant) (f : Nat) (wr : Bool) : Nat := f * 0x200000 + kten.toNat * 2 ^ 36 + (if wr then 7 else 5)

/-- The page of tenant 0 under which firmware clears frame `f` of a stack. (DESIGN CHOICE, log 12.) -/
def clearPage (stack f : Nat) : Nat := 16 * f + stack

/-- Tenant 0's tables, made empty where it has none yet. (DESIGN CHOICE, log 12.) -/
def State.makeRoots0 (s : State) (stack : Nat) : State :=
  if ((Tab.get? (s.mgate stack).roots 0).getD 0#64).getLsbD 0 then s
  else (s.wipe (hbmHome stack (level1Pa 0#12)) 0x20000).modMgate stack fun x =>
    { x with roots := Tab.put x.roots 0 (BitVec.ofNat 64 (level1Pa 0#12 + 1)) }

/-- A frame is made ready for a tenant (R416): firmware maps it into tenant 0's tables with KTEN of the tenant, writes zeros
over the whole frame, and takes the entry out again. The TFENCE between those writes and the tenant's mapping has nothing left
to order here, since each is performed before the next begins. (DESIGN CHOICE, log 12.) -/
def State.clearFrame (s : State) (t : Tenant) (stack f : Nat) : Option State :=
  ((s.makeRoots0 stack).writeLeaf 0#12 (clearPage stack f) (leafOf t f true)).bind fun s =>
    let home := hbmHome stack (f * 0x200000)
    let s := s.wipe home 0x200000
    let s := match s.hbmKey t with
      | some k => { s with frameKeys := Tab.put s.frameKeys (home / 0x200000) k }
      | none => { s with frameKeys := Tab.del s.frameKeys (home / 0x200000) }
    s.writeLeaf 0#12 (clearPage stack f) 0

/-- Map a page: a free frame, cleared under the tenant's key before the tenant has it (R400, R416).
(DESIGN CHOICE, log 12.) -/
def State.mapPage (s : State) (t : Tenant) (wr : Bool) (page : Nat) : Option State :=
  let stack := page % 16
  let f := lowestNot (s.framesUsed stack)
  if framesPerStack ≤ f then none
  else (s.clearFrame t stack f).bind fun s => (s.writeLeaf t page (leafOf t f wr)).map fun s =>
    s.modTenant t fun r => { r with mapped := r.mapped ++ [(page, f)] }

def State.mapPages (s : State) (t : Tenant) (wr : Bool) : List Nat → Option State
  | [] => some s
  | p :: rest => match s.mapPage t wr p with
    | some s => s.mapPages t wr rest
    | none => none

/-- The pages of a range of MAP or UNMAP, none where an operand is outside its limits. -/
def pageRange (m : Msg) : Bool :=
  decide (m.a1.toNat % 0x200000 = 0) && decide (1 ≤ m.a2.toNat) && decide (m.a1.toNat + m.a2.toNat * 0x200000 ≤ 2 ^ 48)

def pagesOf (m : Msg) : List Nat := (List.range m.a2.toNat).map fun i => m.a1.toNat / 0x200000 + i

/-- (DESIGN CHOICE, log 35.) -/
def execMap (n : Nat) (s : State) : Res :=
  s.serve n 3 s.isUser fun m =>
    match s.tenantRec m.tenant with
    | none => s.status n m 4
    | some r =>
      if !pageRange m || decide (2 ≤ m.a3.toNat) then s.status n m 5
      else if r.quota < r.mapped.length + m.a2.toNat then s.status n m 3
      else if (pagesOf m).any fun p => r.mapped.any fun q => decide (q.1 = p) then s.status n m 5
      else match s.mapPages m.tenant (m.a3.getLsbD 0) (pagesOf m) with
        | none => s.status n m 3
        | some t => t.status n m 0

/-- The pages' entries are cleared and the wave goes out; the answer leaves with its completion (R205, R416).
(DESIGN CHOICE, log 35.) -/
def execUnmap (n : Nat) (s : State) : Res :=
  s.serve n 4 s.isUser fun m =>
    match s.tenantRec m.tenant with
    | none => s.status n m 4
    | some r =>
      let ps := pagesOf m
      if !pageRange m || decide (r.mapped.length < m.a2.toNat) then s.status n m 5
      else if !ps.all fun p => r.mapped.any fun q => decide (q.1 = p) then s.status n m 5
      else
        let gone := r.mapped.filter fun q => ps.contains q.1
        let s := s.takePacket n
        let s := ps.foldl (fun s p => (s.writeLeaf m.tenant p 0).getD s) s
        let s := s.modTenant m.tenant fun r => { r with mapped := r.mapped.filter fun q => !ps.contains q.1 }
        let s := s.modFw fun f => { f with releasing := Tab.put f.releasing s.nextWave gone }
        let one := decide (m.a2 = 1#64)
        .next (s.startWave (.shootdown m.tenant (if one then m.a1.toNat else 0) (!one)) none
          (some (m.answer 0 0#64 0#64 0#64)) none)

/-! ### Tenants (R400, R408, R411) -/

/-- Index 5 of a function takes a new input (R408). -/
def State.extend (s : State) (fn : Nat) (bs : List Byte) : State :=
  s.modBoot fun b =>
    let old := (Tab.get? b.meas5 fn).getD (List.replicate 32 0#8)
    { b with meas5 := Tab.put b.meas5 fn (leBytes 32 (Config.sha3 (old ++ bs)).toNat) }

/-- The tenant's level-1 tables are empty and its roots valid, at every stack. -/
def State.makeRoots (s : State) (t : Tenant) : State :=
  (List.range 16).foldl (fun s g =>
    (s.wipe (hbmHome g (level1Pa t)) 0x20000).modMgate g fun x =>
      { x with roots := Tab.put x.roots t.toNat (BitVec.ofNat 64 (level1Pa t + 1)) }) s

def State.dropRoots (s : State) (t : Tenant) : State :=
  (List.range 16).foldl (fun s g => s.modMgate g fun x => { x with roots := Tab.put x.roots t.toNat 0#64 }) s

/-- Firmware of this module takes a tenant in: an HBM key of its own draw, the fabric key, empty tables (R411). -/
def State.admitTenant (s : State) (t : Tenant) (fabric : BitVec 256) (new : TenantRec) : State :=
  let hbm := Config.hbmKeyDraw s.freeCtr
  let s := { s.draw with hbmKeys := Tab.put s.hbmKeys t.toNat hbm }.putFabricKey t.toNat fabric
  (s.makeRoots t).modFw fun f => { f with tenants := Tab.put f.tenants t.toNat new }

/-- A new tenant: its keys, its tables, its function; the stewards of the other modules of the pod group are told its fabric
key over SPDM sessions (R400, R411). (DESIGN CHOICE, log 12, 35 and 65.) -/
def execTenantCreate (n : Nat) (s : State) : Res :=
  s.serve n 1 s.isPf fun m =>
    let vf := m.a1.toNat
    if vf = 0 ∨ 64 < vf ∨ 2 ≤ m.a3.toNat then s.status n m 5
    else if !s.fnExists vf || (s.hostFn vf).bound.isSome then s.status n m 4
    else
      let id := lowestNot (0 :: s.fw.tenants.map (·.1))
      let t : Tenant := BitVec.ofNat 12 id
      if 4096 ≤ id then s.status n m 3
      else
        let conf := m.a3.getLsbD 0
        let fabric := Config.fabricKeyDraw s.freeCtr
        let s := s.admitTenant t fabric { vf := vf, quota := m.a2.toNat, confidential := conf }
        let s := s.oweKey t s.podModules
        let s := s.modHostFn vf fun f => { f with bound := some t, confidential := conf }
        let s := s.modBoot fun b => { b with meas5 := Tab.del b.meas5 vf }
        let s := s.extend vf (leBytes 2 id ++ [BitVec.ofBool conf |>.setWidth 8])
        s.answerWith n m 0 (BitVec.ofNat 64 id) 0#64 0#64

/-- Entries of a tenant that are not FREE. -/
def State.tenantLeft (s : State) (t : Tenant) : Bool :=
  s.cores.any fun k => k.2.actors.any fun a => decide (a.2.state ≠ .free) && a.2.tenant == t
def State.tenantLive (s : State) (t : Tenant) : Bool :=
  s.cores.any fun k => k.2.actors.any fun a => decide (a.2.state = .live) && a.2.tenant == t

/-- The group entry of a tenant that `sel` picks. -/
def State.groupOf (s : State) (t : Tenant) (sel : Group → Bool) : Option Nat :=
  (s.groups.find? fun g => headerTenant g.2.header == t && sel g.2).map (·.1)

/-- What is left of a tenant goes: pages cleared, tables, keys, binding (R400), and its energy counters (R450).
(DEDUCED, log 38.) -/
def State.dropTenant (s : State) (t : Tenant) (r : TenantRec) : State :=
  let s := r.mapped.foldl (fun s p =>
    let home := hbmHome (p.1 % 16) (p.2 * 0x200000)
    let s := s.wipe home 0x200000
    { s with frameKeys := Tab.del s.frameKeys (home / 0x200000) }) s
  let s := s.modMod fun m => { m with isolated := m.isolated.filter fun x => decide (x ≠ t.toNat) }
  let s := { s with hbmKeys := Tab.del s.hbmKeys t.toNat, fabricKeys := Tab.del s.fabricKeys t.toNat,
                    cores := Tab.mapVals s.cores fun _ k => { k with energy := Tab.del k.energy t.toNat, energyDue := Tab.del k.energyDue t.toNat } }
  let s := (s.modFw fun f => { f with keysDue := f.keysDue.filter fun x => x.2 != t }).keyReplaced t.toNat
  let s := s.modFw fun f => { f with tenants := Tab.del f.tenants t.toNat, tables := f.tables.filter fun e => e.2.1 != t,
                                     monitors := f.monitors.filter fun g => nameTenant g.root != t }
  if r.vf = 0 then s
  else (s.modHostFn r.vf fun f => { f with bound := none, confidential := false }).modBoot fun b => { b with meas5 := Tab.del b.meas5 r.vf }

/-- What a step of the end of a tenant comes to. -/
inductive Ending where
  | working (s : State)
  | waiting
  | gone (s : State)

/-- The end of a tenant step by step: its actors die, on the modules `ms` too; once their entries are FREE its groups are
withdrawn; then its translations end with a wave; then, when the other modules are done, the rest goes (R400). (DEDUCED, log
38.) -/
def State.endTenant (s : State) (t : Tenant) (r : TenantRec) (ms : List Nat) : Ending :=
  if !r.destroying then
    let s := ms.foldl (fun s m => s.tellModule m (.destroy t)) (s.killTenant t .shutdown)
    .working (s.modTenant t fun r => { r with destroying := true, awaits := ms })
  else if s.tenantLive t then .working (s.killTenant t .shutdown)
  else if s.tenantLeft t then .waiting
  else if (s.groupOf t Group.busy).isSome then .waiting
  else match s.groupOf t fun g => headerValid g.header with
    | some e => .working (s.beginGroup e ((s.group e).header &&& ~~~0xC0000000#64) none none)
    | none =>
      match r.wave with
      | none =>
        let s := s.dropRoots t
        let s := s.modTenant t fun r => { r with wave := some s.nextWave }
        .working (s.startWave (.shootdown t 0 true) none none none)
      | some w => if (Tab.get? s.waves w).isSome || r.awaits.any (fun m => !s.isLost m) then .waiting else .gone (s.dropTenant t r)

/-- TENANT_DESTROY, its request waiting through the steps; a START_ROOT of the tenant that another module has still to answer
comes first (R404). (DEDUCED, log 38.) -/
def execTenantDestroy (n : Nat) (s : State) : Res :=
  s.serve n 2 s.isPf fun m =>
    let t : Tenant := m.a1.setWidth 12
    match (if m.a1.toNat < 4096 then (s.tenantRec t).filter (·.vf ≠ 0) else none) with
    | none => s.status n m 4
    | some r =>
      if s.fw.rootPending.any (·.tenant == t) then s.idle
      else match s.endTenant t r s.podModules with
        | .working t => .next t
        | .waiting => s.idle
        | .gone t => t.status n m 0

/-- QUERY: tenant, pages mapped, live roots. (DESIGN CHOICE, log 35.) -/
def execQuery (n : Nat) (s : State) : Res :=
  s.serve n 6 (fun _ => true) fun m =>
    let r := s.tenantRec m.tenant
    let pages := match r with | some r => r.mapped.length | none => 0
    let roots := match r with | some r => (s.liveRoots r).length | none => 0
    s.answerWith n m 0 (m.tenant.setWidth 64) (BitVec.ofNat 64 pages) (BitVec.ofNat 64 roots)

/-! ### Roots (R401) -/

/-- What starting a root on a core of this module comes to: it waits for the core, or the root is up, with its image's digest,
or it fails with a status. -/
inductive RootRes where
  | wait (s : State)
  | up (s : State) (root : Name) (digest : BitVec 256)
  | fail (s : State) (status : Nat)

/-- Load a root on a core of this module, with the WATCHED end of the gateway's monitor, and queue its INIT (R401). The image
is read as it is loaded, which counts and caches what its walks meet (R415); the digest is of those bytes. -/
def State.loadRoot (s : State) (r : RootReq) : RootRes :=
  let core := epCore r.place
  if (s.core core).asleep then .wait (s.wakeCore core)
  else if (s.core core).waking then .wait s
  else match (s.core core).lowestEntry, Tab.lowestFree (s.core core).monitors 256 with
    | some e, some mon =>
      let image := (s.hbmPeek r.tenant r.image r.ilen).getD []
      match s.bear core e { tenant := r.tenant, supv := true } r.image r.ilen with
      | .ok t =>
        let watched : LinkEnt := { peer := r.gw, ref := r.ref, kind := .watched, lslot := e }
        let t := t.modCore core fun k => { k with monitors := Tab.put k.monitors mon watched }
        .up (t.sendInit core e r.gw 0#64 0#64 r.a3) (t.actor core e).name (Config.sha3 image)
      | .unreadable t => .fail t 6
      | .rejected => .fail s 1
      | .noSpace => .fail s 3
    | _, _ => .fail s 2

/-- A root is up: the gateway's end of its monitor, its record, its measurement (R401, R408). -/
def State.rootUp (s : State) (m : Msg) (root : Name) (digest : BitVec 256) : State :=
  let s := s.modFw fun f => { f with nextRef := nextRef f.nextRef, monitors := f.monitors ++ [{ root := root, vf := m.fn, ref := f.nextRef }] }
  (s.modTenant m.tenant fun r => { r with roots := r.roots ++ [root] }).extend m.fn (leBytes 32 digest.toNat)

/-- START_ROOT on a core of this module, or of another, whose firmware is asked and answers; one is under way at a time, since
its reference is taken only where it succeeds. (DESIGN CHOICE, log 35, 37 and 65.) -/
def execStartRoot (n : Nat) (s : State) : Res :=
  s.serve n 5 s.isVf fun m =>
    match s.tenantRec m.tenant with
    | none => s.status n m 4
    | some r =>
      let ilen := bits m.a2.toNat 0 32
      let place := bits m.a2.toNat 32 26
      let far := place / 65536
      let req : RootReq := { tenant := m.tenant, gw := m.sender, image := m.a1.toNat, ilen := ilen, place := place, a3 := m.a3,
                             ref := s.fw.nextRef }
      if bits m.a2.toNat 58 6 ≠ 0 ∨ m.a1.toNat % 64 ≠ 0 ∨ 2 ^ 48 < m.a1.toNat + ilen then s.status n m 5
      else if 64 ≤ (s.liveRoots r).length then s.status n m 7
      else if s.isLost far then s.status n m 2
      else if s.fw.rootPending.isSome then s.idle
      else if far ≠ s.mod.num.toNat then
        .next (((s.takePacket n).modFw fun f => { f with rootPending := some m }).tellModule far (.rootReq req))
      else match s.loadRoot req with
        | .wait t => .next t
        | .up t root digest => (t.rootUp m root digest).answerWith n m 0 root (req.ref.setWidth 64) 0#64
        | .fail t st => t.status n m st

/-! ### Multicast groups (R400, R430, R431) -/

/-- Little-endian words of an extent of a tenant's memory. -/
def State.wordsOf (s : State) (t : Tenant) (va n : Nat) : State × Option (List Word) :=
  let r := s.hbmRead t va (8 * n)
  (r.1, if r.2.1 = .ok then some ((List.range n).map fun i => BitVec.ofNat 64 (field r.2.2 (8 * i) 8)) else none)

/-- The extent of a3 is aligned and in the address space. -/
def listOk (m : Msg) : Bool := decide (m.a3.toNat % 8 = 0) && decide (m.a3.toNat + 8 * m.a2.toNat ≤ 2 ^ 48)

/-- The group entry of a tenant and number. -/
def holdsGroup (num : Nat) (g : Group) : Bool := headerValid g.header && decide (headerGroup g.header = num)

/-- An entry that neither is valid nor waits for switches. -/
def State.freeGroup (s : State) : Option Nat :=
  (List.range 256).find? fun e => !headerValid (s.group e).header && !(s.group e).busy

/-- (DESIGN CHOICE, log 35.) -/
def execMcastSet (n : Nat) (s : State) : Res :=
  s.serve n 7 s.isUser fun m =>
    let num := m.a1.toNat
    if 4096 ≤ num ∨ m.a2 = 0#64 ∨ 512 < m.a2.toNat ∨ !listOk m then s.status n m 5
    else if (s.groupOf m.tenant (holdsGroup num)).isSome then s.status n m 4
    else
      let r := s.wordsOf m.tenant m.a3.toNat m.a2.toNat
      let s := r.1
      match r.2, s.freeGroup with
      | none, _ => s.status n m 6
      | some _, none => s.status n m 3
      | some keys, some e =>
        if !keys.all (groupKeyOk m.tenant) then s.status n m 5
        else
          let header := BitVec.ofNat 64 (num * 2 ^ 36 + 2 ^ 31 + (keys.length - 1) * 2 ^ 21 + m.tenant.toNat)
          let s := (s.takePacket n).modGroup e fun g => { g with keys := keys }
          .next (s.beginGroup e header none (some (m.answer 0 0#64 0#64 0#64)))

def execMcastDel (n : Nat) (s : State) : Res :=
  s.serve n 8 s.isUser fun m =>
    if 4096 ≤ m.a1.toNat then s.status n m 5
    else match s.groupOf m.tenant (holdsGroup m.a1.toNat) with
      | none => s.status n m 4
      | some e =>
        if (s.group e).busy then s.idle
        else .next ((s.takePacket n).beginGroup e ((s.group e).header &&& ~~~0xC0000000#64) none
          (some (m.answer 0 0#64 0#64 0#64)))

/-- A switch's acknowledgement arrives as a flit does; the last of those waited for ends the installation or withdrawal (R426,
R431). -/
def execGroupInstallAck (flit : WireFlit) (s : State) : Res :=
  match flit.body with
  | .manage _ _ (.installAck _) => s.flitArrive flit
  | _ => s.idle

/-- Where no switch is reached there is nothing to wait for (R431). -/
def State.groupAlone (s : State) (entry : Nat) : Res :=
  if (s.group entry).busy && (s.group entry).awaits.isEmpty then .next (s.groupEnd entry true) else s.idle

/-- A switch has not acknowledged within 100 us (R431). (DEDUCED, log 36.) -/
def execGroupInstallTimeout (entry : Nat) (s : State) : Res :=
  if !(s.group entry).busy || decide (s.mod.timeNs < (s.group entry).since + 100000) then s.idle
  else .next (s.groupEnd entry false)

/-! ### Membership (R419-R421) -/

def State.membership (s : State) (g : Nat) : Membership := (Tab.get? s.members g).getD {}
def Membership.word (r : Membership) (w : Nat) : Word := (Tab.get? r.words w).getD 0#64
def Membership.valid (r : Membership) : Bool := (r.word 0).getLsbD 24
def Membership.tenant (r : Membership) : Tenant := (r.word 0).setWidth 12
def Membership.epoch (r : Membership) : Nat := bits (r.word 0).toNat 32 32
def Membership.count (r : Membership) : Nat := bits (r.word 0).toNat 12 10 + 1
def Membership.setWord (r : Membership) (w : Nat) (v : Word) : Membership := { r with words := Tab.put r.words w v }

/-- The header of a record. -/
def memberHeader (epoch : Nat) (valid : Bool) (count : Nat) (t : Tenant) : Word :=
  BitVec.ofNat 64 (epoch % 2 ^ 32 * 2 ^ 32 + valid.toNat * 2 ^ 24 + (count - 1) % 1024 * 4096 + t.toNat)

def State.setMembership (s : State) (g : Nat) (r : Membership) : State := { s with members := Tab.put s.members g r }

/-- A new record: every member live. -/
def newMembership (epoch : Nat) (t : Tenant) (names : List Name) : Membership :=
  let n := names.length
  let live (w : Nat) : Word := BitVec.ofNat 64 (2 ^ (min 64 (n - 64 * w)) - 1)
  let maps : Tab Word := (List.range 16).map fun w => (w + 1, live w)
  { words := (0, memberHeader epoch true n t) :: maps ++ names.mapIdx fun i x => (17 + i, x) }

/-- A record changes, here and at the other modules of the pod group (R419). (DESIGN CHOICE, log 65.) -/
def State.shareMembership (s : State) (g : Nat) (r : Membership) : State :=
  s.podModules.foldl (fun s m => s.tellModule m (.membership g r.words)) (s.setMembership g r)

/-- (DESIGN CHOICE, log 35.) -/
def execGroupCreate (n : Nat) (s : State) : Res :=
  s.serve n 0x10 s.isUser fun m =>
    let g := m.a1.toNat
    if 64 ≤ g ∨ m.a2 = 0#64 ∨ 1024 < m.a2.toNat ∨ !listOk m then s.status n m 5
    else if (s.membership g).valid then s.status n m 4
    else
      let r := s.wordsOf m.tenant m.a3.toNat m.a2.toNat
      let s := r.1
      match r.2 with
      | none => s.status n m 6
      | some names =>
        if names.any fun x => nameBad x || nameTenant x != m.tenant then s.status n m 7
        else
          let epoch := ((s.membership g).epoch + 1) % 2 ^ 32
          (s.shareMembership g (newMembership epoch m.tenant names)).answerWith n m 0 (BitVec.ofNat 64 epoch) 0#64 0#64

/-- A valid group of the requester's tenant. -/
def State.ownGroup (s : State) (m : Msg) : Bool :=
  (s.membership m.a1.toNat).valid && (s.membership m.a1.toNat).tenant == m.tenant

def execGroupRead (n : Nat) (s : State) : Res :=
  s.serve n 0x11 s.isUser fun m =>
    let r := s.membership m.a1.toNat
    if 64 ≤ m.a1.toNat ∨ 16 ≤ m.a2.toNat then s.status n m 5
    else if !s.ownGroup m then s.status n m 4
    else s.answerWith n m 0 (r.word (m.a2.toNat + 1)) (BitVec.ofNat 64 r.epoch) (BitVec.ofNat 64 r.count)

def execGroupDelete (n : Nat) (s : State) : Res :=
  s.serve n 0x12 s.isUser fun m =>
    let r := s.membership m.a1.toNat
    if 64 ≤ m.a1.toNat then s.status n m 5
    else if !s.ownGroup m then s.status n m 4
    else (s.shareMembership m.a1.toNat (r.setWord 0 (memberHeader (r.epoch + 1) false r.count r.tenant))).status n m 0

/-- A valid record loses its live members of a module; its epoch rises once (R420). -/
def Membership.lose (r : Membership) (m : Nat) : Membership :=
  let gone (i : Nat) : Bool := decide (nameModule (r.word (17 + i)) = m)
  let drop (w : Nat) : Word :=
    ((List.range 64).filter fun b => decide (64 * w + b < r.count) && gone (64 * w + b)).foldl (fun v b => v &&& ~~~(1#64 <<< b))
      (r.word (w + 1))
  let r' := (List.range 16).foldl (fun x w => x.setWord (w + 1) (drop w)) r
  r'.setWord 0 (memberHeader (r.epoch + 1) true r.count r.tenant)

def execMembershipLossUpdate (m : Nat) (s : State) : Res :=
  if !s.fw.declared.contains m then s.idle
  else
    let s := s.modFw fun f => { f with declared := f.declared.filter fun x => decide (x ≠ m) }
    let s := if s.fw.rootPending.any (fun r => decide (bits r.a2.toNat 48 10 = m)) then
        s.emit (.firmware s.mod.num.toNat m (.rootAns 2 0#64 0#256)) else s
    .next ({ s with members := Tab.mapVals s.members fun _ r => if r.valid then r.lose m else r } : State).chooseBuddy

/-! ### Other modules' stewards (R401, R411) -/

/-- The number of the SPDM connection with the steward of another module (R410). (DESIGN CHOICE, log 65.) -/
def peerOf (m : Nat) : Nat := 1024 + m

/-- A finished SPDM session with the steward of a module stands (R411). -/
def State.sessionWith (s : State) (m : Nat) : Bool := ((Tab.get? s.boot.spdm (peerOf m)).getD {}).sessions.any (·.2)

/-- The request that waits for another module is answered. -/
def State.rootAnswered (s : State) (st : Nat) (root : Name) (digest : BitVec 256) : State :=
  match s.fw.rootPending with
  | none => s
  | some m =>
    let ref := s.fw.nextRef
    let s := s.modFw fun f => { f with rootPending := none }
    if st = 0 then (s.rootUp m root digest).transmit gateCore (.msg (m.answer 0 root (ref.setWidth 64) 0#64)) true
    else s.transmit gateCore (.msg (m.answer st 0#64 0#64 0#64)) true

end Sys2Proof.Machine
end

