-- ==== Sys2Proof/Machine/Attest.lean ====
section
/-! DEFINITION. Module reset and boot (01 R33, 26 R407), what the input rail does to reset (28 R441), the flash (29 R458),
and attestation over SPDM (26 R408-R410). -/

namespace Sys2Proof.Machine

open Sys2Proof

/-! ### Boot (R407) -/

/-- The bytes a slot's signature covers. (DESIGN CHOICE, log 33.) -/
def FlashSlot.signed (f : FlashSlot) : List Byte :=
  leBytes 4 f.svn ++ leBytes 4 f.image.length ++ leBytes 32 f.digest.toNat ++ f.image

/-- A slot that boot considers. -/
def Boot.qualifies (b : Boot) (f : FlashSlot) : Bool :=
  Config.mlDsaVerify b.vendorKey f.signed f.signature && decide (b.fusedSvn ≤ f.svn)

/-- The choice of boot: the higher SVN of the slots that qualify, A where they are equal; recovery where none does.
(DESIGN CHOICE, log 13.) -/
def Boot.choose (b : Boot) : BootState :=
  let a := b.slotA.filter b.qualifies
  let c := b.slotB.filter b.qualifies
  match a, c with
  | some x, some y => .running (decide (x.svn < y.svn))
  | some _, none => .running false
  | none, some _ => .running true
  | none, none => .recovery

/-- The slot that runs. -/
def Boot.chosen (b : Boot) : Option FlashSlot :=
  match b.state with
  | .running true => b.slotB
  | .running false => b.slotA
  | .recovery => none

/-- What boot measures, blocks 1 to 4 (R408). -/
def State.measure (s : State) (i : Nat) : List Byte :=
  let hash (bs : List Byte) : List Byte := leBytes 32 (Config.sha3 bs).toNat
  match i with
  | 1 => hash Config.bootRom
  | 2 => match s.boot.chosen with
    | some f => hash f.image
    | none => Config.noImage 2
  | 3 => match s.boot.chosen with
    | some f => leBytes 4 f.svn ++ leBytes 1 (if s.boot.state = .running true then 1 else 0) ++ leBytes 4 s.boot.fusedSvn
    | none => Config.noImage 3
  | _ => hash Config.fuseConfig

/-- Where boot puts the firmware image in the TCM of a steward core. (DESIGN CHOICE, log 11.) -/
def imageBase : Nat := 0x8000

/-- What boot does besides choosing (R407): the measurements are recorded; where a slot qualifies its image is loaded into
every steward core, and tenant 0 gets its HBM key (R411). -/
def State.booted (s : State) : State :=
  let s := s.modBoot fun b => { b with recorded := (List.range 4).map fun i => (i + 1, s.measure (i + 1)) }
  match s.boot.chosen with
  | none => s
  | some f =>
    let s := (List.range 32).foldl (fun s i => s.writeBytes (localHome (65536 + i) imageBase) (f.image.take (Config.tcmSize - imageBase))) s
    { s.draw with hbmKeys := [(0, Config.hbmKeyDraw s.freeCtr)] }

/-- Module reset (R33): all state of the module but its number, its clock, the flash and fuses, the contents of HBM under
the keys that wrote them, and what the input rail holds; then boot. (DESIGN CHOICE, log 2; DEDUCED, log 43.) -/
def State.afterReset (s : State) : State :=
  let b : Boot := { s.boot with meas5 := [], spdm := [] }
  let m : Module := { num := s.mod.num, timeNs := s.mod.timeNs, timeFrac := s.mod.timeFrac, heldReset := s.mod.heldReset,
                      disconnected := s.mod.disconnected }
  let t : State := { State.reset with
    mod := m
    boot := { b with state := b.choose }
    mem := s.mem.filter fun e => decide (hbmBase ≤ e.1)
    lineKeys := s.lineKeys
    frameKeys := s.frameKeys
    out := s.out
    agenda := s.agenda
    freeCtr := s.freeCtr
    nextSerial := s.nextSerial }
  t.booted

def execModuleReset (s : State) : Res := .next s.afterReset

/-- Module reset that holds. -/
def State.holdReset (s : State) : State := s.afterReset.modMod fun m => { m with heldReset := true }

def execInputUndervoltage (milliVolts _micros : Nat) (s : State) : Res :=
  if 36000 ≤ milliVolts then s.idle else .next s.holdReset

def execInputOvervoltage (milliVolts _micros : Nat) (s : State) : Res :=
  if milliVolts ≤ 62000 then s.idle else .next (s.holdReset.modMod fun m => { m with disconnected := true })

/-- A disconnected input does not come back by itself. -/
def execInputRecovery (milliVolts micros : Nat) (s : State) : Res :=
  if milliVolts ≤ 40000 ∨ micros < 10000 ∨ s.mod.disconnected ∨ !s.mod.heldReset then s.idle
  else .next (s.modMod fun m => { m with heldReset := false })

/-! ### The flash (R407, R458) -/

/-- A firmware update writes the slot not chosen at boot, A where none was. (DESIGN CHOICE, log 13.) -/
def execFirmwareUpdate (image : FlashSlot) (s : State) : Res :=
  .next (s.modBoot fun b => match b.state with
    | .running false => { b with slotB := some image }
    | _ => { b with slotA := some image })

/-- The fused SVN advances only after a successful boot, and never falls. -/
def execFusedSvnAdvance (svn : Nat) (s : State) : Res :=
  if s.boot.state = .recovery then s.idle else .next (s.modBoot fun b => { b with fusedSvn := max b.fusedSvn svn })

/-! ### Keys and measurements (R408, R409) -/

/-- A measurement block: 1 to 4 as boot recorded them, index 5 that of the function. -/
def State.measurement (s : State) (fn i : Nat) : List Byte :=
  if 1 ≤ i ∧ i ≤ 4 then (Tab.get? s.boot.recorded i).getD (s.measure i)
  else if (s.hostFn fn).bound.isSome then (Tab.get? s.boot.meas5 fn).getD (List.replicate 32 0#8)
  else List.replicate 32 0#8

def State.identitySeed (s : State) : BitVec 256 := Config.sha3 (leBytes 32 s.boot.uds.toNat ++ [1#8])
def State.aliasSeed (s : State) : BitVec 256 := Config.sha3 (leBytes 32 s.boot.uds.toNat ++ [2#8] ++ s.measurement 0 2)

/-- The certificate chain of SPDM slot 0. -/
def State.certChain (s : State) : List Byte :=
  let pub := Config.mlDsaPublic s.aliasSeed
  Config.vendorCert ++ Config.identityCert ++ pub ++ Config.mlDsaSign s.identitySeed pub

/-! ### SPDM (R410) -/

def State.spdm (s : State) (fn : Nat) : Spdm := (Tab.get? s.boot.spdm fn).getD {}
def State.setSpdm (s : State) (fn : Nat) (x : Spdm) : State := s.modBoot fun b => { b with spdm := Tab.put b.spdm fn x }

/-- An SPDM response goes back: on a function's DOE mailbox, over the fabric to the steward of another module, or from the MCTP
endpoint, which has number 2,048 (R458). -/
def State.spdmSend (s : State) (fn : Nat) (what : String) (bs : List Byte) : State :=
  if fn < 1024 then s.output (.spdm fn what bs)
  else if fn = 2048 then s.output (.mctp what bs)
  else s.tellModule (fn - 1024) (.spdm what bs)

/-- Who asks over SPDM exists: a function, another module that is not lost, or the MCTP bus. -/
def State.asks (s : State) (fn : Nat) : Bool :=
  if fn < 1024 then s.fnExists fn else decide (fn = 2048) || (!s.isLost (fn - 1024) && decide (fn < 2048))

/-- The response to an SPDM request; one out of order receives ERROR. (PRESUMED, log 28; DESIGN CHOICE, log 65.) -/
def State.spdmAnswer (s : State) (fn : Nat) (ok : Bool) (x : Spdm) (what : String) (bs : List Byte) : Res :=
  if !s.asks fn then s.idle
  else if ok then .next ((s.setSpdm fn x).spdmSend fn what bs) else .next (s.spdmSend fn "ERROR" [])

/-- Signed with the alias key. -/
def State.sign (s : State) (bs : List Byte) : List Byte := Config.mlDsaSign s.aliasSeed bs

def execGetVersion (fn : Nat) (s : State) : Res := s.spdmAnswer fn true { version := true } "VERSION" [0x13#8]

def execGetCapabilities (fn : Nat) (s : State) : Res :=
  let x := s.spdm fn
  s.spdmAnswer fn x.version { x with capabilities := true } "CAPABILITIES" []

/-- The algorithms of the module. -/
def SpdmAlg.code (a : SpdmAlg) : Option Byte :=
  match a with
  | .mlDsa44 => some 0#8
  | .sha3d256 => some 1#8
  | .aes256gcm => some 2#8
  | .other _ => none

def execNegotiateAlgorithms (fn : Nat) (algs : List SpdmAlg) (s : State) : Res :=
  let x := s.spdm fn
  let common := algs.filterMap SpdmAlg.code
  s.spdmAnswer fn (x.capabilities && !common.isEmpty) { x with negotiated := true } "ALGORITHMS" common

def execGetDigests (fn : Nat) (s : State) : Res :=
  let x := s.spdm fn
  s.spdmAnswer fn x.negotiated x "DIGESTS" (leBytes 32 (Config.sha3 s.certChain).toNat)

def execGetCertificate (fn : Nat) (s : State) : Res :=
  let x := s.spdm fn
  s.spdmAnswer fn x.negotiated x "CERTIFICATE" s.certChain

def execChallenge (fn : Nat) (nonce : List Byte) (s : State) : Res :=
  let x := s.spdm fn
  s.spdmAnswer fn x.negotiated x "CHALLENGE_AUTH" (nonce ++ s.sign (nonce ++ leBytes 32 (Config.sha3 s.certChain).toNat))

/-- The blocks an index names: one, or with 0xFF all. (PRESUMED, log 28.) -/
def State.blocks (s : State) (fn index : Nat) : List Byte :=
  if index = 0xFF then (List.range 5).flatMap fun i => s.measurement fn (i + 1)
  else if index = 0 then [5#8]
  else s.measurement fn index

def execGetMeasurements (fn index : Nat) (nonce : List Byte) (s : State) : Res :=
  let x := s.spdm fn
  let body := s.blocks fn index ++ nonce
  s.spdmAnswer fn (x.negotiated && (decide (index ≤ 5) || decide (index = 0xFF))) x "MEASUREMENTS" (body ++ s.sign body)

/-- A session opens, unfinished. -/
def execKeyExchange (fn : Nat) (nonce : List Byte) (s : State) : Res :=
  let x := s.spdm fn
  let x' := { x with sessions := x.sessions ++ [(x.nextSession, false)], nextSession := x.nextSession + 1 }
  let body := leBytes 4 x.nextSession ++ nonce
  s.spdmAnswer fn x.negotiated x' "KEY_EXCHANGE_RSP" (body ++ s.sign body)

def execFinish (fn session : Nat) (s : State) : Res :=
  let x := s.spdm fn
  let x' := { x with sessions := x.sessions.map fun e => if e.1 = session then (e.1, true) else e }
  s.spdmAnswer fn (x.sessions.contains (session, false)) x' "FINISH_RSP" (Config.sealMessage session [])

def execEndSession (fn session : Nat) (s : State) : Res :=
  let x := s.spdm fn
  let x' := { x with sessions := x.sessions.filter fun e => decide (e.1 ≠ session) }
  s.spdmAnswer fn (x.sessions.contains (session, true)) x' "END_SESSION_ACK" (Config.sealMessage session [])

/-! ### The firmwares of a pod group (R400, R401, R410, R411, R419, R435, R438) -/

/-- The steward of another module asks over SPDM: it is answered as a function is (R410). -/
def State.spdmServe (s : State) (m : Nat) (r : SpdmReq) : Res :=
  let fn := peerOf m
  match r with
  | .getVersion => execGetVersion fn s
  | .getCapabilities => execGetCapabilities fn s
  | .negotiate algs => execNegotiateAlgorithms fn algs s
  | .getDigests => execGetDigests fn s
  | .getCertificate => execGetCertificate fn s
  | .challenge nonce => execChallenge fn nonce s
  | .getMeasurements i nonce => execGetMeasurements fn i nonce s
  | .keyExchange nonce => execKeyExchange fn nonce s
  | .finish session => execFinish fn session s
  | .endSession session => execEndSession fn session s

/-- The next request of this module to the steward of another, after the response to one: version, capabilities, algorithms,
key exchange, finish; then the keys owed are told within the session. ERROR ends the attempt. (DESIGN CHOICE, log 65.) -/
def State.spdmNext (s : State) (m : Nat) (what : String) (bs : List Byte) : State :=
  let ask (n : Nat) (r : SpdmReq) : State := (s.modFw fun f => { f with dials := Tab.put f.dials m n }).tellModule m (.spdmReq r)
  match Tab.get? s.fw.dials m with
  | none => s
  | some n =>
    if what = "ERROR" then s.modFw fun f => { f with dials := Tab.del f.dials m }
    else if n = 0 ∧ what = "VERSION" then ask 1 .getCapabilities
    else if n = 1 ∧ what = "CAPABILITIES" then ask 2 (.negotiate [.mlDsa44, .sha3d256, .aes256gcm])
    else if n = 2 ∧ what = "ALGORITHMS" then (ask 3 (.keyExchange (Config.nonce s.freeCtr))).draw
    else if n = 3 ∧ what = "KEY_EXCHANGE_RSP" then ask 4 (.finish (field bs 0 4))
    else if n = 4 ∧ what = "FINISH_RSP" then (s.modFw fun f => { f with dials := Tab.put f.dials m 5 }).sendKeys m
    else s

/-- What the firmware of another module, or a gateway of this one, tells this one's. (DESIGN CHOICE, log 65.) -/
def State.firmwareIn (n : Nat) (s : State) : Res :=
  match s.net[n]? with
  | some (.firmware _ m f) =>
    let t := s.takePacket n
    match f with
    | .rootReq r =>
      if s.boot.state = .recovery then .next (t.tellModule m (.rootAns 4 0#64 0#256))
      else match s.loadRoot r with
        | .wait u => .next u
        | .up u root digest => .next ((u.takePacket n).tellModule m (.rootAns 0 root digest))
        | .fail u st => .next ((u.takePacket n).tellModule m (.rootAns st 0#64 0#256))
    | .rootAns st root digest => .next (t.rootAnswered st root digest)
    | .tenantKey ten key quota conf =>
      if !s.sessionWith m then .next t
      else match s.tenantRec ten with
        | none => .next (t.admitTenant ten key { vf := 0, quota := quota, confidential := conf })
        | some r => .next (if r.vf = 0 then t.putFabricKey ten.toNat key else t)
    | .destroy ten =>
      match s.tenantRec ten with
      | none => .next (t.tellModule m (.destroyed ten))
      | some r =>
        if r.vf ≠ 0 then .next (t.tellModule m (.destroyed ten))
        else match s.endTenant ten r [] with
          | .working u => .next u
          | .waiting => s.idle
          | .gone u => .next ((u.takePacket n).tellModule m (.destroyed ten))
    | .destroyed ten => .next (t.modTenant ten fun r => { r with awaits := r.awaits.filter fun x => decide (x ≠ m) })
    | .kill ten => .next (t.killTenant ten .shutdown)
    | .membership g words =>
      let r : Membership := { words := words }
      .next (if g < 64 ∧ (s.membership g).epoch < r.epoch then t.setMembership g r else t)
    | .feed v => .next (t.modMod fun x => { x with feeds := Tab.put x.feeds m v }).chooseBuddy
    | .suspect x => .next (t.probeSuspect x)
    | .spdmReq r => t.spdmServe m r
    | .spdm what bs => .next (t.spdmNext m what bs)
  | _ => s.idle

end Sys2Proof.Machine
end

