-- ==== Sys2Proof/Machine/CopyDone.lean ====
section
/-! DEFINITION. Teasel at work (04 R110-R113, 14 R301-R303): what a queued copy moves, its operations on windows, and the
copy path of a given region (R99). -/

namespace Sys2Proof.Machine

open Sys2Proof

/-! ### What an operation needs before it writes (R124, R127, R135) -/

/-- The usable local region of an actor that holds a range of homes, with its handle and the range's local address. -/
def State.spanRegion (s : State) (core entry : Nat) (sp : Span) : Option (Nat × Region × Nat) :=
  ((s.actor core entry).regions.find? fun e => decide (e.2.kind < 2) && !e.2.given && e.2.usable &&
    decide (regionHome core e.2 ≤ sp.home) && decide (sp.home + sp.len ≤ regionHome core e.2 + e.2.size)).map fun e =>
      (e.1, e.2, e.2.base + (sp.home - regionHome core e.2))

/-- Take the cells of lines one by one: whether all are there, and the state with those that were to be had. -/
def State.holdCells (s : State) (v : View) (h : Nat) (r : Region) : List (Nat × Nat) → Bool × State
  | [] => (true, s)
  | (a, _) :: rest =>
    match s.reserveLine v h r a with
    | .ok t => t.holdCells v h r rest
    | .noCell => (false, s)
    | .full t => (false, t)

/-- The cells of a range that an operation writes: those it reserved at its issue, or, where a wave has freed them, fresh ones
(R127, R135). -/
def State.holdSpan (s : State) (v : View) (sp : Span) : Bool × State :=
  match s.spanRegion v.core v.entry sp with
  | some (h, r, a) => if r.tagged && v.ctx != 0#32 then s.holdCells v h r (pieces a sp.len) else (true, s)
  | none => (true, s)

/-- An operation has its context, its lines and its cells: whether it has, the state, and the operation in its slot. It waits
for what it lacks (R55, R124, R135). -/
def State.opReady (s : State) (core : Nat) (o : EngOp) : Bool × State × EngOp :=
  let x := s.opView core o (o.reads ++ o.writes)
  if !x.1 then x
  else
    let y := o.writes.foldl (fun y sp => if y.1 then y.2.holdSpan (x.2.2.view core) sp else y) (true, x.2.1)
    (y.1, y.2, x.2.2)

/-- The cells that an operation has read are the most recently used (R124). -/
def State.touchSpans (s : State) (v : View) (sps : List Span) : State :=
  sps.foldl (fun s sp => match s.spanRegion v.core v.entry sp with
    | some (h, r, a) => s.touchRegion v h r a sp.len
    | none => s) s

/-- What a write of an operation comes to: its end, or, for want of a cell, the state in which it waits. -/
def Got.orWait (g : Got) (wait : State) (f : State → State) : Res :=
  match g with
  | .ok t => .next (f t)
  | .noCell => .next wait
  | .full _ => .next wait

/-! ### The two ends of a copy (R298) -/

/-- Where the bytes of an end start, for cutting it at lines. -/
def endBase (kind v : Nat) : Nat := if kind = 1 then v / 2 ^ 32 else v

/-- The home of a byte of a die-region end. -/
def State.dieEnd (s : State) (core : Nat) (o : EngOp) (v off : Nat) : Option Nat :=
  (Tab.get? (s.actor core o.entry).regions (v % 32)).map fun r => dieHome (dieOf core) (r.base + v / 2 ^ 32 + off)

/-- Read bytes of an end: a local extent in the operation's view, a die region, HBM through its gateway (R112, R115). A line
with a word that ECC cannot correct fails (R109). -/
def State.readEnd (s : State) (core : Nat) (o : EngOp) (kind v off n : Nat) : State × CopyStatus × List Byte :=
  match kind with
  | 0 =>
    match (s.actor core o.entry).regionAt (v + off) n with
    | some (h, r) =>
      if s.regionEcc (o.view core) h r (v + off) n then (s, .ecc, [])
      else (s.touchRegion (o.view core) h r (v + off) n, .ok, s.viewBytes (o.view core) h r (v + off) n)
    | none => (s, .ok, List.replicate n 0#8)
  | 1 =>
    match s.dieEnd core o v off with
    | some a => if s.eccBad a n then (s, .ecc, []) else (s, .ok, s.readBytes a n)
    | none => (s, .ok, List.replicate n 0#8)
  | _ => s.hbmRead o.tenant (v + off) n

/-- Write bytes of an end, none where the operation must wait for a cell. -/
def State.writeEnd (s : State) (core : Nat) (o : EngOp) (kind v off : Nat) (bs : List Byte) : Option (State × CopyStatus) :=
  match kind with
  | 0 => match s.poke (o.view core) (v + off) bs with
    | .ok t => some (t, .ok)
    | .noCell => none
    | .full _ => none
  | 1 => some (match s.dieEnd core o v off with | some a => s.writeBytes a bs | none => s, .ok)
  | _ => let r := s.hbmWrite o.tenant (v + off) bs
         some (r.1, r.2.1)

/-- The lines of an extent as (offset, length). -/
def lineOffsets (base len : Nat) : List (Nat × Nat) := (pieces base len).map fun p => (p.1 - base, p.2)

/-- What a move of lines comes to: the state, the status, the offset of the line that failed. -/
abbrev Moved := Option (State × CopyStatus × Nat)

/-- Move an extent line by line; the first line that fails ends it, with its offset (R110). (DEDUCED, log 19.) -/
def State.moveLines (s : State) (core : Nat) (o : EngOp) (d : CopyDesc) : List (Nat × Nat) → Moved
  | [] => some (s, .ok, 0)
  | (off, n) :: rest =>
    match s.readEnd core o d.sk d.src off n with
    | (s, .ok, bs) =>
      match s.writeEnd core o d.dk d.dst off bs with
      | some (s, .ok) => s.moveLines core o d rest
      | some (s, st) => some (s, st, off)
      | none => none
    | (s, st, _) => some (s, st, off)

/-- Read a whole end, to its first failing line. -/
def State.readLines (s : State) (core : Nat) (o : EngOp) (kind v : Nat) : List (Nat × Nat) → List Byte →
    State × CopyStatus × Nat × List Byte
  | [], acc => (s, .ok, 0, acc)
  | (off, n) :: rest, acc =>
    match s.readEnd core o kind v off n with
    | (s, .ok, bs) => s.readLines core o kind v rest (acc ++ bs)
    | (s, st, _) => (s, st, off, acc)

/-- Write a whole end, to its first failing line. -/
def State.writeLines (s : State) (core : Nat) (o : EngOp) (kind v : Nat) : List (Nat × Nat) → List Byte → Moved
  | [], _ => some (s, .ok, 0)
  | (off, n) :: rest, bs =>
    match s.writeEnd core o kind v off (bs.take n) with
    | some (s, .ok) => s.writeLines core o kind v rest (bs.drop n)
    | some (s, st) => some (s, st, off)
    | none => none

/-- The blocks of an array of FP8 elements, one behind the other (R144, R303). -/
def encodeAll (ef : Bool) (bs : List Byte) : List Byte :=
  (chunks 64 (bs.length / 64) bs).flatMap fun b => exfEncode ef (b.map BitVec.toNat)

/-- CPYE (R303): state, status, failing offset, and the a2 of its completion. -/
def State.convertCopy (s : State) (core : Nat) (o : EngOp) (m : ExfMode) (d : CopyDesc) : Option (State × CopyStatus × Nat × Nat) :=
  let write (s : State) (bs : List Byte) (a2 : Nat) : Option (State × CopyStatus × Nat × Nat) :=
    (s.writeLines core o d.dk d.dst (lineOffsets (endBase d.dk d.dst) bs.length) bs).map fun r =>
      (r.1, r.2.1, r.2.2, if a2 = 0 ∨ r.2.1 = .ok then a2 else r.2.2)
  match s.readLines core o d.sk d.src (lineOffsets (endBase d.sk d.src) (srcLen (.cpye m) d)) [] with
  | (s, .ok, _, bs) =>
    match m with
    | .encE4M3 => write s (encodeAll false bs) (encodeAll false bs).length
    | .encE5M2 => write s (encodeAll true bs) (encodeAll true bs).length
    | .decode =>
      let r := exfDecode (d.len / 64) bs
      let s := if r.2.2 then (s.count core o.tenant 0x017).opFlags core o fNV else s
      write s (r.1.map fun x => BitVec.ofNat 8 x.2) 0
  | (s, st, off, _) => some (s, st, off, 0)

/-! ### Window ends (R105, R113) -/

/-- One remote operation of a copy: key, window offset, offset in the local extent, length, and the slice that it is a part
of. -/
structure WinPiece where
  key : Word
  off : Nat
  at_ : Nat
  len : Nat
  whole : Option Whole := none

/-- The remote operations of a copy with a window end: a line each, or a slice each (R112, R113). -/
def winPieces (k : CopyKind) (d : CopyDesc) : List WinPiece :=
  match k with
  | .deal => d.slices.mapIdx fun i x => { key := x.1, off := x.2, at_ := i * d.len, len := d.len }
  | .gath => d.slices.mapIdx fun i x => { key := x.1, off := x.2, at_ := i * d.len, len := d.len }
  | _ =>
    if d.dk = 3 then (lineOffsets (endBase d.sk d.src) d.len).map fun p =>
      { key := BitVec.ofNat 64 d.dst, off := d.aux + p.1, at_ := p.1, len := p.2 }
    else (lineOffsets d.aux d.len).map fun p => { key := BitVec.ofNat 64 d.src, off := d.aux + p.1, at_ := p.1, len := p.2 }

/-- The remote operations as they leave: a slice that is loaded from another module comes in answers of at most 256 bytes, and
is asked for so (R113, R425). (DEDUCED, log 18.) -/
def State.sendList (s : State) (k : CopyKind) (d : CopyDesc) (id : Nat) : List WinPiece :=
  ((winPieces k d).mapIdx fun i p =>
    if d.dk = 3 ∨ (s.keyPlace p.key).isSome ∨ p.off % 256 + p.len ≤ 256 then [p]
    else (linesOf256 (p.len / 256 + 2) p.off p.len).map fun x =>
      { p with off := x.1, at_ := p.at_ + (x.1 - p.off), len := x.2, whole := some { off := p.off, len := p.len, id := (id, i) } }).flatten

/-- The operation has a window end. -/
def CopyDesc.windowed (d : CopyDesc) : Bool := decide (d.sk = 3) || decide (d.dk = 3)

/-- Send one piece: a remote store of its bytes, or a remote load (R302, R328). -/
def State.sendPiece (s : State) (core : Nat) (o : EngOp) (d : CopyDesc) (p : WinPiece) (bs : List Byte) : State :=
  let store := decide (d.dk = 3)
  let rid := (s.core core).nextId
  let a := s.actor core o.entry
  let place := s.keyPlace p.key
  let ro : RemoteOp := { kind := if store then .store else .load, key := p.key, off := p.off, len := p.len, data := bs,
                         operand := 0#64, expected := 0#64, counted := d.cnt, sender := o.name, tenant := o.tenant, ctx := o.ctx,
                         group := none, core := s.gcore core, rid := rid, whole := p.whole }
  let r : Remote := { seq := o.seq, name := o.name, serial := o.serial, place := place, module := nameModule p.key,
                      write := store, read := !store, use := .copy o.id p.at_, ctx := o.ctx, entry := o.entry,
                      n := if a.name = o.name then a.nextOut else none, spot := some ro.spot, at_ := o.at_,
                      parts := (Packet.remote ro).answers place }
  let conds := (o.fences.filter fun f => scopeHolds f.1 core place) ++
    (match o.rel with | some sc => [(widen sc core place, o.seq)] | none => [])
  let e : OutEnt := { seq := o.seq, name := o.name, serial := o.serial, conds := if store then conds else [],
                      reads := if store then [] else o.fences, at_ := o.at_, body := .remote rid (.remote ro) }
  let mark (x : EngOp) : EngOp := { x with waiting := x.waiting ++ [rid] }
  let s := s.modCore core fun k => { k.modOp o.id mark with remotes := Tab.put k.remotes rid r }
  (s.bumpId core).post core o.entry e o.pc

/-- A piece finds no room in the outbound queue, or Campion holds 32 operations of its actor (R87, R194). -/
def Core.pieceWaits (k : Core) (o : EngOp) : Bool := k.outFull || k.campionFull o.entry

/-- Change the operation's own entry. -/
def State.modOp (s : State) (core : Nat) (o : EngOp) (f : EngOp → EngOp) : State := s.modCore core fun k => k.modOp o.id f

/-- Send pieces while the outbound queue takes them; a piece with a source line that fails is not sent (R110, R194).
(DEDUCED, log 19.) -/
def State.sendPieces (s : State) (core : Nat) (o : EngOp) (d : CopyDesc) : List WinPiece → State
  | [] => s.modOp core o fun x => { x with sent := true }
  | p :: rest =>
    if (s.core core).pieceWaits o then s
    else
      let next (s : State) : State := (s.modOp core o fun x => { x with pieces := x.pieces + 1 }).sendPieces core o d rest
      if d.dk = 3 then
        match s.readLines core o d.sk d.src ((lineOffsets (endBase d.sk d.src + p.at_) p.len).map fun l => (l.1 + p.at_, l.2)) [] with
        | (s, .ok, _, bs) => next (s.sendPiece core o d p bs)
        | (s, st, off, _) => next (s.modOp core o fun x => x.fail off st)
      else next (s.sendPiece core o d p [])

/-- Write what the loads of a copy brought, in the order of the extent, none where it must wait for a cell. -/
def State.landPieces (s : State) (core : Nat) (o : EngOp) (d : CopyDesc) : List (Nat × List Byte) → Option (State × EngOp)
  | [] => some (s, o)
  | (off, bs) :: rest =>
    match s.writeEnd core o d.dk d.dst off bs with
    | some (s, st) => s.landPieces core (o.fail off st) d rest
    | none => none

/-! ### The copy path of a GIVE (R99) -/

/-- Read the region in the giver's view and send it off behind the writes its release waits for; its cells go as it is read
(R95). The source stays until the copy is there; one that leaves the module frees it as it leaves. (DEDUCED, log 41.) -/
def State.sendTransfer (s : State) (core : Nat) (o : EngOp) (t : Transfer) : State :=
  let bs := s.regionRead (o.view core) t.handle t.source t.base t.size
  let s := if t.source.tagged then s.modCore core fun k => k.dropCells o.entry t.handle else s
  let s := if s.isLocal t.dest then s else s.freeSource t
  let place := s.placeOf t.dest
  let e : OutEnt := { seq := o.seq, name := o.name, serial := o.serial, at_ := o.at_,
                      conds := (o.fences.filter fun f => scopeHolds f.1 core place) ++
                        (match o.rel with | some sc => [(sc, o.seq)] | none => []),
                      body := .packet (.transfer { t with bytes := bs, id := o.id }) }
  (s.modCore core fun k => k.dropCopy o.id).post core o.entry e o.pc

/-! ### COPY_COMPLETE (R111, R198, R301) -/

/-- An earlier copy of the queue that is still to land reaches HBM that this one reaches too (R186). -/
def hbmSpans (k : CopyKind) (d : CopyDesc) : List Span :=
  (if d.sk = 2 then [{ home := d.src, len := srcLen k d }] else []) ++ (if d.dk = 2 then [{ home := d.dst, len := dstLen k d }] else [])
def EngOp.hbm (o : EngOp) : List Span := match o.body with | .copy k d => hbmSpans k d | _ => []
def hbmBehind (before : List EngOp) (o : EngOp) : Bool :=
  before.any fun b => !b.landed && b.name == o.name && b.hbm.any fun x => o.hbm.any x.overlaps

/-- A copy reaches a page of HBM whose leaf its gateway does not hold: it needs a walk (R115, R356). -/
def State.needsWalk (s : State) (o : EngOp) : Bool :=
  o.hbm.any fun sp => ((List.range (sp.len / 0x10000 + 2)).map fun i => (sp.home / 0x10000 + i) * 0x10000).any fun va =>
    decide (va < sp.home + sp.len) && !(s.mgate (bits va 21 4)).tlb.any (TlbEnt.hits · o.tenant va)

/-- A copy that needs page walks waits for the writes to HBM that its handler's TFENCEs put before them, landings of earlier
copies, until they have been performed or have failed (R356). Its own module's HBM lies within module and pod scope. -/
def State.walksHeld (s : State) (core : Nat) (o : EngOp) : Bool :=
  o.tfences.any (fun f => decide (f.1 = .mo ∨ f.1 = .pd) && (s.core core).teasel.any fun x =>
    !x.landed && sameProgram (namePool o.name) o.name x.name o.serial x.serial && decide (x.seq < f.2) && decide (x.seq < o.seq) &&
      match x.body with
        | .copy _ d => decide (d.dk = 2)
        | _ => false) && s.needsWalk o

/-- The landings of a copy from a window are releases where it has that ordering (R195, R302). -/
def Core.landingHeld (k : Core) (now core : Nat) (o : EngOp) : Bool :=
  match o.rel with
  | some sc => k.writePending now core o.name o.serial sc o.seq
  | none => false

/-- The next step of Teasel on a copy whose turn it is, in its slot: it sends its pieces, moves, lands what its loads brought,
or ends. None where it must wait. -/
def State.stepCopy (s : State) (core : Nat) (o : EngOp) (k : CopyKind) (d : CopyDesc) : Option State :=
  let ended (o : EngOp) : EngOp := { o with pieces := 0 }
  if o.landed then some (s.endCopy core (if d.windowed then ended o else o) d)
  else if o.sent then
    (s.landPieces core o d o.extra).map fun r => r.1.endCopy core { ended r.2 with extra := [] } d
  else if d.windowed then some (s.sendPieces core o d ((s.sendList k d o.id).drop o.pieces))
  else
    let moved (r : State × CopyStatus × Nat × Nat) : State :=
      r.1.endCopy core { (o.fail r.2.2.1 r.2.1) with sent := true, pieces := r.2.2.2 } d
    match k with
    | .cpye m => (s.convertCopy core o m d).map moved
    | _ => (s.moveLines core o d (lineOffsets (endBase d.sk d.src) d.len)).map fun r => moved (r.1, r.2.1, r.2.2, 0)

/-- Nothing that orders an operation of the vector, matrix or summary engine holds it: the fences before it, a store of its
program that still waits, a write of it on its way through a window (R186, R190, R196). -/
def State.engineMay (s : State) (core : Nat) (o : EngOp) : Bool :=
  (s.core core).fencesMet s.mod.timeNs core o && !s.opHeld core o (o.reads ++ o.writes)

/-- Teasel may take its first step on a copy: the earlier ones have been sent or moved (R111), and nothing that orders it
holds it, nor a store of its program that still waits, nor a write of it on its way through a window (R186, R190). -/
def State.copyMay (s : State) (core : Nat) (before : List EngOp) (o : EngOp) : Bool :=
  before.all (·.sent) && (s.core core).fencesMet s.mod.timeNs core o && !hbmBehind before o && !s.walksHeld core o &&
    !s.opHeld core o (o.reads ++ o.writes)

/-- The turn of a copy has come: its next step may be taken, the first only once the engine has begun it (R69). -/
def State.copyTurn (s : State) (core : Nat) (before : List EngOp) (o : EngOp) (d : CopyDesc) : Bool :=
  if o.landed then (s.core core).mayComplete o.id d
  else if o.sent then o.waiting.isEmpty && !(s.core core).landingHeld s.mod.timeNs core o
  else o.begun && s.copyMay core before o

/-- The next step of a copy or transfer, in issue order; an operation that has been sent lets later ones go on (R111); a
completion that has waited, of an aperture form too, is delivered (R40). (DEDUCED, log 19.) -/
def execCopyComplete (core : Nat) (id : Nat) (s : State) : Res :=
  let k := s.core core
  match k.teasel.find? fun o => decide (o.id = id) with
  | none =>
    match k.apert.find? fun o => decide (o.id = id) with
    | some o => match o.body with
      | .copy _ d => if k.waitDone.contains id && k.mayComplete id d then .next (s.finishCopy core o d) else s.idle
      | _ => s.idle
    | none => s.idle
  | some o =>
    let before := k.teasel.takeWhile fun x => decide (x.id ≠ id)
    match o.body with
    | .copy kind d =>
      if !s.copyTurn core before o d then s.idle
      else
        let x := s.opReady core o
        if !x.1 then .next x.2.1
        else match x.2.1.stepCopy core x.2.2 kind d with
          | some t => .next t
          | none => .next x.2.1
    | .transfer t =>
      if !before.all (·.sent) || !k.fencesMet s.mod.timeNs core o || k.landingsOn o.entry t.source || k.pieceWaits o ||
          s.opHeld core o o.reads then s.idle
      else
        let x := s.opView core o o.reads
        .next (if x.1 then (x.2.1.sendTransfer core x.2.2 t).settleFences core else x.2.1)
    | _ => s.idle

end Sys2Proof.Machine
end

