-- ==== Sys2Proof/Machine/Elementary.lean ====
section
/-! DEFINITION. The correctly rounded exponential, logarithm, hyperbolic tangent and sigmoid of R322, and the logarithm of
R180: an enclosure of the exact value in fixed point, of which both ends round to one result. Where they do not, the result is
a free value; the enclosures leave some 280 bits, so that no operand of these formats is known to need it. -/

namespace Sys2Proof.Machine

open Sys2Proof

/-- Fraction bits of the fixed point, and a bound on the error of what follows, in its units. -/
def fixP : Nat := 320
def fixE : Nat := 2 ^ 32

/-- The rest of the series of atanh: the odd power `p` over its exponent `k`, and so on. -/
def atanhSum : Nat → Nat → Nat → Nat → Nat → Nat
  | 0, _, _, _, acc => acc
  | n + 1, p, z2, k, acc => atanhSum n (p * z2 / 2 ^ fixP) z2 (k + 2) (acc + p / k)

/-- atanh (num / den) for a quotient of at most 1/3. -/
def atanhFix (num den : Nat) : Nat :=
  let z := num * 2 ^ fixP / den
  atanhSum 110 z (z * z / 2 ^ fixP) 1 0

/-- ln 2 = 2 atanh (1/3). -/
def ln2Fix : Nat := 2 * atanhFix 1 3

/-- The rest of the series of the exponential. -/
def expSum : Nat → Nat → Nat → Nat → Nat → Nat
  | 0, _, _, _, acc => acc
  | n + 1, t, r, k, acc => expSum n (t * r / 2 ^ fixP / k) r (k + 1) (acc + t)

/-- e^r for 0 <= r < 1, in fixed point. -/
def expFix (r : Nat) : Nat := expSum 110 (2 ^ fixP) r 1 0

/-- e^x of x = (-1)^neg * m * 2^e in the range |x| < 2^11: a number c with e^x = c * 2^(k - fixP). -/
def expParts (neg : Bool) (m : Nat) (e : Int) : Nat × Int :=
  let x := unitsAt neg m (e + fixP) 0
  let k := x.fdiv ln2Fix
  (expFix (x - k * ln2Fix).toNat, k)

/-- Round the positive value that lies strictly between lo * 2^e and hi * 2^e. (DESIGN CHOICE, log 22.) -/
def FFmt.between (f : FFmt) (key pattern : Nat) (neg : Bool) (lo hi : Nat) (e : Int) : FRes :=
  let a := f.round neg lo e true
  let b := f.round neg (hi - 1) e true
  if a = b then a else (Config.freeRound (key * 16 + f.width) pattern % 2 ^ f.width, a.2)

/-- |x| is at least 2^n. -/
def beyond (m : Nat) (e : Int) (n : Nat) : Bool := decide ((n : Int) ≤ e + m.log2)

/-- The value 1 of a format. -/
def FFmt.one (f : FFmt) : FRes := f.round false 1 0 false

/-- (DESIGN CHOICE, log 22.) -/
def FFmt.exp (f : FFmt) (v : Nat) : FRes :=
  match f.read v with
  | .nan => (f.nan, 0#6)
  | .inf a => if a then (0, 0#6) else f.deliver (.inf false)
  | .fin a m e =>
    if m = 0 then f.one
    else if beyond m e 11 then f.round false 1 (if a then -5000 else 5000) true
    else
      let x := expParts a m e
      f.between 0 v false (x.1 - fixE) (x.1 + fixE) (x.2 - fixP)

/-- ln x of a positive x = m * 2^e, in fixed point. -/
def lnParts (m : Nat) (e : Int) : Int :=
  let b := m.log2
  (e + b) * ln2Fix + 2 * atanhFix (m - 2 ^ b) (m + 2 ^ b)

/-- (DESIGN CHOICE, log 22.) -/
def FFmt.log (f : FFmt) (v : Nat) : FRes :=
  match f.read v with
  | .nan => (f.nan, 0#6)
  | .inf a => if a then (f.nan, fNV) else f.deliver (.inf false)
  | .fin a m e =>
    if m = 0 then f.put (.inf true, fDZ)
    else if a then (f.nan, fNV)
    else if m = 2 ^ m.log2 ∧ e + m.log2 = 0 then (0, 0#6)
    else
      let l := lnParts m e
      f.between 1 v (decide (l < 0)) (l.natAbs - fixE) (l.natAbs + fixE) (-fixP)

/-- (DESIGN CHOICE, log 22.) -/
def FFmt.tanh (f : FFmt) (v : Nat) : FRes :=
  match f.read v with
  | .nan => (f.nan, 0#6)
  | .inf a => f.deliver (.fin a 1 0)
  | .fin a m e =>
    if m = 0 then (f.sign a, 0#6)
    else if beyond m e 5 then f.round a (2 ^ 80 - 1) (-80) true
    else if !decide (-40 ≤ e + m.log2) then f.round a (m * 2 ^ 80 - 1) (e - 80) true
    else
      let x := expParts false m (e + 1)
      let one := 2 ^ fixP
      let p (c : Nat) : Nat := c * 2 ^ x.2.toNat
      let q (t : Nat) : Nat := (t - one) * one / (t + one)
      f.between 2 v a (q (p (x.1 - fixE))) (q (p (x.1 + fixE)) + 1) (-fixP)

/-- (DESIGN CHOICE, log 22.) -/
def FFmt.sigmoid (f : FFmt) (v : Nat) : FRes :=
  match f.read v with
  | .nan => (f.nan, 0#6)
  | .inf a => if a then (0, 0#6) else f.one
  | .fin a m e =>
    if m = 0 then f.round false 1 (-1) false
    else if beyond m e 8 then (if a then f.round false 1 (-5000) true else f.round false (2 ^ 80 - 1) (-80) true)
    else
      let x := expParts a m e
      let one := 2 ^ (fixP + 600)
      let p (c : Nat) : Nat := c * 2 ^ (x.2 + 600).toNat
      let q (t : Nat) : Nat := t * one / (t + one)
      f.between 3 v false (q (p (x.1 - fixE))) (q (p (x.1 + fixE)) + 1) (-(fixP + 600 : Nat))

end Sys2Proof.Machine
end

