-- ==== Sys2Proof/Machine/Scalar.lean ====
section
/-! DEFINITION. Scalar integer, floating-point and control instructions (chapter 11). -/

namespace Sys2Proof.Machine

open Sys2Proof

/-! ### Integer register forms (R231-R233) -/

/-- A register form: s[A] takes a function of s[B], s[C] and the width, with the flags it raises. -/
def State.alu (s : State) (a b c : Reg) (w : OpWidth) (f : Nat → Word → Word → Word × BitVec 6) : Res :=
  s.guardRegs [a, b, c]
    (let r := f (widthBits w) (s.reg b) (s.reg c)
     ((s.setReg a r.1).arith r.2).done)

/-- A bit-count form. -/
def State.alu1 (s : State) (a b : Reg) (w : OpWidth) (f : Nat → Nat → Nat) : Res :=
  s.guardRegs [a, b] ((s.setReg a (BitVec.ofNat 64 (f (widthBits w) (lowBits (widthBits w) (s.reg b))))).done)

def aluAdd (w : Nat) (x y : Word) : Word × BitVec 6 := (sextWidth w (lowBits w x + lowBits w y), 0#6)
def aluSub (w : Nat) (x y : Word) : Word × BitVec 6 := (sextWidth w ((lowBits w x : Int) - lowBits w y), 0#6)
def aluAnd (w : Nat) (x y : Word) : Word × BitVec 6 := (sextWidth w (lowBits w (x &&& y)), 0#6)
def aluOr (w : Nat) (x y : Word) : Word × BitVec 6 := (sextWidth w (lowBits w (x ||| y)), 0#6)
def aluXor (w : Nat) (x y : Word) : Word × BitVec 6 := (sextWidth w (lowBits w (x ^^^ y)), 0#6)
def aluShl (w : Nat) (x y : Word) : Word × BitVec 6 := (sextWidth w ((lowBits w x <<< (lowBits w y % w) : Nat)), 0#6)
def aluShr (w : Nat) (x y : Word) : Word × BitVec 6 := (BitVec.ofNat 64 (lowBits w x >>> (lowBits w y % w)), 0#6)
def aluSra (w : Nat) (x y : Word) : Word × BitVec 6 := (sextWidth w (signedLow w x / 2 ^ (lowBits w y % w)), 0#6)
def aluMul (w : Nat) (x y : Word) : Word × BitVec 6 := (sextWidth w (lowBits w x * lowBits w y), 0#6)
def aluMulh (w : Nat) (x y : Word) : Word × BitVec 6 := (sextWidth w (signedLow w x * signedLow w y / 2 ^ w), 0#6)
def aluMulhu (w : Nat) (x y : Word) : Word × BitVec 6 := (BitVec.ofNat 64 (lowBits w x * lowBits w y / 2 ^ w), 0#6)

/-- Division at a width (R151, R233): quotient and remainder patterns with the flag. -/
def divAt (signed : Bool) (w : Nat) (x y : Word) : Nat × Nat × BitVec 6 :=
  let i : IFmt := { width := w, signed := signed }
  i.div (i.read x.toNat) (i.read y.toNat)

def aluDiv (w : Nat) (x y : Word) : Word × BitVec 6 := (sextWidth w (divAt true w x y).1, (divAt true w x y).2.2)
def aluDivu (w : Nat) (x y : Word) : Word × BitVec 6 := (BitVec.ofNat 64 (divAt false w x y).1, (divAt false w x y).2.2)
def aluRem (w : Nat) (x y : Word) : Word × BitVec 6 := (sextWidth w (divAt true w x y).2.1, (divAt true w x y).2.2)
def aluRemu (w : Nat) (x y : Word) : Word × BitVec 6 := (BitVec.ofNat 64 (divAt false w x y).2.1, (divAt false w x y).2.2)

def execAdd (a b c : Reg) (w : OpWidth) (s : State) : Res := s.alu a b c w aluAdd
def execSub (a b c : Reg) (w : OpWidth) (s : State) : Res := s.alu a b c w aluSub
def execAnd (a b c : Reg) (w : OpWidth) (s : State) : Res := s.alu a b c w aluAnd
def execOr (a b c : Reg) (w : OpWidth) (s : State) : Res := s.alu a b c w aluOr
def execXor (a b c : Reg) (w : OpWidth) (s : State) : Res := s.alu a b c w aluXor
def execShl (a b c : Reg) (w : OpWidth) (s : State) : Res := s.alu a b c w aluShl
def execShr (a b c : Reg) (w : OpWidth) (s : State) : Res := s.alu a b c w aluShr
def execSra (a b c : Reg) (w : OpWidth) (s : State) : Res := s.alu a b c w aluSra
def execMul (a b c : Reg) (w : OpWidth) (s : State) : Res := s.alu a b c w aluMul
def execMulh (a b c : Reg) (w : OpWidth) (s : State) : Res := s.alu a b c w aluMulh
def execMulhu (a b c : Reg) (w : OpWidth) (s : State) : Res := s.alu a b c w aluMulhu
def execDiv (a b c : Reg) (w : OpWidth) (s : State) : Res := s.alu a b c w aluDiv
def execDivu (a b c : Reg) (w : OpWidth) (s : State) : Res := s.alu a b c w aluDivu
def execRem (a b c : Reg) (w : OpWidth) (s : State) : Res := s.alu a b c w aluRem
def execRemu (a b c : Reg) (w : OpWidth) (s : State) : Res := s.alu a b c w aluRemu

/-- Leading and trailing zeros and ones of a w-bit number. -/
def clzOf (w x : Nat) : Nat := if x = 0 then w else w - 1 - x.log2
def ctzOf (w x : Nat) : Nat := ((List.range w).find? fun i => x.testBit i).getD w
def popcOf (w x : Nat) : Nat := ((List.range w).filter fun i => x.testBit i).length

def execClz (a b : Reg) (w : OpWidth) (s : State) : Res := s.alu1 a b w clzOf
def execCtz (a b : Reg) (w : OpWidth) (s : State) : Res := s.alu1 a b w ctzOf
def execPopc (a b : Reg) (w : OpWidth) (s : State) : Res := s.alu1 a b w popcOf

/-! ### Immediate forms (R234) -/

/-- s[A] takes a function of s[A] and the immediate. -/
def State.aluImm (s : State) (a : Reg) (imm : Word) (f : Word → Word → Word) : Res :=
  s.guardRegs [a] ((s.setReg a (f (s.reg a) imm)).done)

def execAddi (a : Reg) (imm : Word) (s : State) : Res := s.aluImm a imm (· + ·)
def execAndi (a : Reg) (imm : Word) (s : State) : Res := s.aluImm a imm (· &&& ·)
def execOri (a : Reg) (imm : Word) (s : State) : Res := s.aluImm a imm (· ||| ·)
def execXori (a : Reg) (imm : Word) (s : State) : Res := s.aluImm a imm (· ^^^ ·)
def execShli (a : Reg) (imm : Word) (s : State) : Res := s.aluImm a imm fun x i => x <<< (i.toNat % 64)
def execShri (a : Reg) (imm : Word) (s : State) : Res := s.aluImm a imm fun x i => x >>> (i.toNat % 64)
def execSrai (a : Reg) (imm : Word) (s : State) : Res := s.aluImm a imm fun x i => x.sshiftRight (i.toNat % 64)
def execLi (a : Reg) (imm : Word) (s : State) : Res := s.aluImm a imm fun _ i => i

/-! ### Predicates and selection (R235-R237) -/

def CmpCond.holds (c : CmpCond) (x y : Word) : Bool :=
  match c with
  | .eq => x == y
  | .ne => x != y
  | .lt => x.slt y
  | .ge => !x.slt y

def CmpuCond.holds (c : CmpuCond) (x y : Word) : Bool :=
  match c with
  | .ltu => x.ult y
  | .geu => !x.ult y

def execCmp (cond : CmpCond) (p : Pred) (b c : Reg) (s : State) : Res :=
  s.guardRegs [b, c] ((s.setPred p (CmpCond.holds cond (s.reg b) (s.reg c))).done)

def execCmpu (cond : CmpuCond) (p : Pred) (b c : Reg) (s : State) : Res :=
  s.guardRegs [b, c] ((s.setPred p (CmpuCond.holds cond (s.reg b) (s.reg c))).done)

def execSel (a b : Reg) (p : Pred) (s : State) : Res :=
  s.guardRegs [a, b] (if s.pred p then (s.setReg a (s.reg b)).done else s.done)

def PlogOp.apply (op : PlogOp) (x y : Bool) : Bool :=
  match op with
  | .and => x && y
  | .or => x || y
  | .xor => x != y
  | .andn => x && !y

def execPlog (op : PlogOp) (p b c : Pred) (s : State) : Res := (s.setPred p (PlogOp.apply op (s.pred b) (s.pred c))).done

/-! ### Bit fields (R238) -/

/-- The length of a field: its six bits plus 1, cut at bit 63. -/
def fieldLen (pos len : BitVec 6) : Nat := min (len.toNat + 1) (64 - pos.toNat)

def execExtu (a b : Reg) (pos len : BitVec 6) (s : State) : Res :=
  s.guardRegs [a, b] ((s.setReg a (BitVec.ofNat 64 (bits (s.reg b).toNat pos.toNat (fieldLen pos len)))).done)

def execExts (a b : Reg) (pos len : BitVec 6) (s : State) : Res :=
  s.guardRegs [a, b] ((s.setReg a (sextWidth (fieldLen pos len) (bits (s.reg b).toNat pos.toNat (fieldLen pos len)))).done)

/-- The bits a field covers. -/
def fieldMask (pos n : Nat) : Word := BitVec.ofNat 64 ((2 ^ n - 1) * 2 ^ pos)

def execIns (a b : Reg) (pos len : BitVec 6) (s : State) : Res :=
  s.guardRegs [a, b]
    (let m := fieldMask pos.toNat (fieldLen pos len)
     (s.setReg a ((s.reg a &&& ~~~m) ||| ((s.reg b <<< pos.toNat) &&& m))).done)

/-! ### Floating point (R239-R243) -/

/-- Operand and result of a format (R239). -/
def State.fval (s : State) (f : FFmt) (r : Reg) : FVal := f.read (s.reg r).toNat

/-- s[A] takes a rounded result, zero-extended, with its flags. -/
def State.fput (s : State) (a : Reg) (r : FRes) : Res := ((s.setReg a (BitVec.ofNat 64 r.1)).arith r.2).done

/-- Forms of two operands and of three. -/
def State.fop2 (s : State) (f : FFmt) (a b c : Reg) (op : FVal → FVal → FVal × BitVec 6) : Res :=
  s.guardRegs [a, b, c] (s.fput a (f.put (op (s.fval f b) (s.fval f c))))

def State.fopFma (s : State) (f : FFmt) (a b c : Reg) : Res :=
  s.guardRegs [a, b, c] (s.fput a (f.put ((s.fval f a).fma (s.fval f b) (s.fval f c))))

def State.fopDiv (s : State) (f : FFmt) (a b c : Reg) : Res :=
  s.guardRegs [a, b, c] (s.fput a (f.div (s.fval f b) (s.fval f c)))

def State.fopSqrt (s : State) (f : FFmt) (a b : Reg) : Res := s.guardRegs [a, b] (s.fput a (f.sqrt (s.fval f b)))

def State.fopMin (s : State) (f : FFmt) (isMax : Bool) (a b c : Reg) : Res :=
  s.guardRegs [a, b, c]
    (s.fput a (f.minMax isMax ((s.reg b).toNat % 2 ^ f.width) ((s.reg c).toNat % 2 ^ f.width), 0#6))

def State.fopCmp (s : State) (f : FFmt) (cond : FCond) (p : Pred) (b c : Reg) : Res :=
  s.guardRegs [b, c] ((s.setPred p (FCond.holds cond (s.fval f b) (s.fval f c))).done)

/-- x - y. -/
def FVal.sub (x y : FVal) : FVal × BitVec 6 := x.add y.neg

def execFadd (a b c : Reg) (s : State) : Res := s.fop2 fp32 a b c FVal.add
def execFsub (a b c : Reg) (s : State) : Res := s.fop2 fp32 a b c FVal.sub
def execFmul (a b c : Reg) (s : State) : Res := s.fop2 fp32 a b c FVal.mul
def execFma (a b c : Reg) (s : State) : Res := s.fopFma fp32 a b c
def execFdiv (a b c : Reg) (s : State) : Res := s.fopDiv fp32 a b c
def execFsqrt (a b : Reg) (s : State) : Res := s.fopSqrt fp32 a b
def execFmin (a b c : Reg) (s : State) : Res := s.fopMin fp32 false a b c
def execFmax (a b c : Reg) (s : State) : Res := s.fopMin fp32 true a b c
def execFcmp (cond : FCond) (p : Pred) (b c : Reg) (s : State) : Res := s.fopCmp fp32 cond p b c
def execDadd (a b c : Reg) (s : State) : Res := s.fop2 fp64 a b c FVal.add
def execDsub (a b c : Reg) (s : State) : Res := s.fop2 fp64 a b c FVal.sub
def execDmul (a b c : Reg) (s : State) : Res := s.fop2 fp64 a b c FVal.mul
def execDfma (a b c : Reg) (s : State) : Res := s.fopFma fp64 a b c
def execDdiv (a b c : Reg) (s : State) : Res := s.fopDiv fp64 a b c
def execDsqrt (a b : Reg) (s : State) : Res := s.fopSqrt fp64 a b
def execDmin (a b c : Reg) (s : State) : Res := s.fopMin fp64 false a b c
def execDmax (a b c : Reg) (s : State) : Res := s.fopMin fp64 true a b c
def execDcmp (cond : FCond) (p : Pred) (b c : Reg) (s : State) : Res := s.fopCmp fp64 cond p b c

/-- The source and destination formats of an FCVT code (R243). -/
def fcvtFormats (code : BitVec 4) : Elem × Elem :=
  let i64 : Elem := .int { width := 64, signed := true }
  let i32 : Elem := .int { width := 32, signed := true }
  match code.toNat with
  | 0x0 => (.flt fp32, .flt fp64)
  | 0x1 => (.flt fp64, .flt fp32)
  | 0x2 => (.flt fp32, i64)
  | 0x3 => (.flt fp64, i64)
  | 0x4 => (i64, .flt fp32)
  | 0x5 => (i64, .flt fp64)
  | 0x6 => (.flt fp32, i32)
  | 0x7 => (.flt fp64, i32)
  | 0x8 => (.flt fp32, .flt bf16)
  | 0x9 => (.flt bf16, .flt fp32)
  | 0xA => (.flt fp32, .flt fp16)
  | 0xB => (.flt fp16, .flt fp32)
  | 0xC => (.flt fp32, .flt e4m3)
  | 0xD => (.flt e4m3, .flt fp32)
  | 0xE => (.flt fp32, .flt e5m2)
  | _ => (.flt e5m2, .flt fp32)

/-- A result in a register: integers sign-extended, patterns zero-extended (R239, R243). -/
def Elem.toReg : Elem → Nat → Word
  | .int i, v => sextWidth i.width v
  | .flt _, v => BitVec.ofNat 64 v

def execFcvt (code : BitVec 4) (a b : Reg) (s : State) : Res :=
  s.guardRegs [a, b]
    (let fm := fcvtFormats code
     let r := convert fm.1 fm.2 (s.reg b).toNat
     ((s.setReg a (fm.2.toReg r.1)).arith r.2).done)

/-! ### Control (R244-R248) -/

/-- The handler runs on at an address. -/
def State.jump (s : State) (target : Nat) : State := s.modHd fun h => { h with npc := target }

/-- The group address plus 2 x imm (R213, R244). -/
def State.target (s : State) (imm : Word) : Nat := (BitVec.ofNat 64 s.hd.pc + 2 * imm).toNat

/-- The link register takes the address behind the group (R244). -/
def State.link (s : State) : State := s.setReg 1#5 (BitVec.ofNat 64 s.hd.npc)

def execBr (off : Word) (s : State) : Res := (s.jump (s.target off)).done
def execCall (off : Word) (s : State) : Res := (s.link.jump (s.target off)).done
def execBrp (p : Pred) (off : Word) (s : State) : Res := if s.pred p then (s.jump (s.target off)).done else s.done
def execBrpF (p : Pred) (off : Word) (s : State) : Res := if s.pred p then s.done else (s.jump (s.target off)).done

/-- The checks of R246 on a target in a register. -/
def State.jumpReg (s : State) (b : Reg) (link : Bool) : Res :=
  s.guardRegs [b]
    (let t := s.reg b
     if 2 ^ 32 ≤ t.toNat then s.fault .bounds
     else if t.getLsbD 0 then s.fault .align
     else ((if link then s.link else s).jump t.toNat).done)

def execJr (b : Reg) (s : State) : Res := s.jumpReg b false
def execCallr (b : Reg) (s : State) : Res := s.jumpReg b true

/-- DONE (R248): the handler ends, its record, slot, contexts and landing buffer go, and a pending write of MBOX takes
effect. -/
def execDone (s : State) : Res :=
  let s := s.retire
  let h := s.hd
  let s := (s.modHere fun k => (k.endHandler s.cur.rec_ h).endTiles h.serial).trimFresh s.cur.core
  .next (s.applyMbox s.cur.core h.entry h.mboxPending)

/-- An encoding the tables leave out (R228). -/
def execUnassignedEncoding (s : State) : Res := s.fault .illegal

/-! ### The random draw (R349) -/

/-- `rng64` of R349. -/
def rng64 (key ctr : Word) : Word := mix64 (key ^^^ mix64 (ctr + 1))

def execRngd (a b c : Reg) (s : State) : Res :=
  s.guardRegs [a, b, c] ((s.setReg a (rng64 (s.reg b) (s.reg c))).done)

end Sys2Proof.Machine
end

