-- ==== Sys2Proof/Machine/Vector.lean ====
section
/-! DEFINITION. Vector instructions over shape records (chapter 15) and the random fill of R350: shapes, the issue checks, what
each operation computes, and its completion on the vector engine. -/

namespace Sys2Proof.Machine

open Sys2Proof

/-! ### Shapes (R312, R313) -/

/-- A shape: base, element type, rank, the four effective extents and the four strides. -/
structure Shape where
  base : Nat
  ty : Nat
  rank : Nat
  bc0 : Bool
  e : Nat × Nat × Nat × Nat
  st : Int × Int × Int × Int
  deriving DecidableEq, Repr

/-- A signed 32-bit field of a record. -/
def strideAt (bs : List Byte) (o : Nat) : Int := IFmt.read { width := 32, signed := true } (field bs o 4)

/-- A record's bytes as a shape (R312). -/
def shapeBytes (bs : List Byte) : Shape :=
  let ty := bits (field bs 4 1) 0 4
  let r := bits (field bs 5 1) 0 2 + 1
  let bc0 := decide (bits (field bs 5 1) 2 1 = 1)
  let e (d : Nat) : Nat := if d < r then field bs (8 + 2 * d) 2 else 1
  { base := field bs 0 4, ty := ty, rank := r, bc0 := bc0, e := (e 0, e 1, e 2, e 3),
    st := (if bc0 then 0 else elemSize ty, strideAt bs 16, strideAt bs 20, strideAt bs 24) }

def shapeOf (r : BitVec 256) : Shape := shapeBytes (leBytes 32 r.toNat)

/-- The checks of R313 on a record. -/
def shapeOk (bs : List Byte) : Bool :=
  let s := shapeBytes bs
  let z := elemSize s.ty
  decide (bits (field bs 4 1) 4 4 = 0) && decide (bits (field bs 5 1) 3 5 = 0) && decide (field bs 6 2 = 0) &&
    decide (field bs 28 4 = 0) && decide (s.ty < 0xB) && decide (s.base % z = 0) &&
    (List.range 4).all (fun d => decide (d < s.rank) || decide (field bs (8 + 2 * d) 2 = 0)) &&
    (List.range 3).all (fun d => (decide (d + 1 < s.rank) || decide (field bs (16 + 4 * d) 4 = 0)) &&
      decide (field bs (16 + 4 * d) 4 % z = 0))

/-- Element size in bytes. -/
def Shape.z (s : Shape) : Nat := elemSize s.ty

/-- Number of elements. -/
def Shape.n (s : Shape) : Nat := s.e.1 * s.e.2.1 * s.e.2.2.1 * s.e.2.2.2

/-- The address of an element, exactly. -/
def Shape.addr (s : Shape) (i : Nat × Nat × Nat × Nat) : Int :=
  s.base + i.1 * s.st.1 + i.2.1 * s.st.2.1 + i.2.2.1 * s.st.2.2.1 + i.2.2.2 * s.st.2.2.2

/-- The indices in element order: the first fastest. -/
def indicesOf (e : Nat × Nat × Nat × Nat) : List (Nat × Nat × Nat × Nat) :=
  (List.range e.2.2.2).flatMap fun l => (List.range e.2.2.1).flatMap fun k => (List.range e.2.1).flatMap fun j =>
    (List.range e.1).map fun i => (i, j, k, l)

/-- How far one dimension reaches below and above the base. -/
def reachLow (e : Nat) (st : Int) : Int := min 0 (((e : Int) - 1) * st)
def reachHigh (e : Nat) (st : Int) : Int := max 0 (((e : Int) - 1) * st)

/-- The lowest and the highest element address. -/
def Shape.low (s : Shape) : Int :=
  s.base + reachLow s.e.1 s.st.1 + reachLow s.e.2.1 s.st.2.1 + reachLow s.e.2.2.1 s.st.2.2.1 + reachLow s.e.2.2.2 s.st.2.2.2
def Shape.high (s : Shape) : Int :=
  s.base + reachHigh s.e.1 s.st.1 + reachHigh s.e.2.1 s.st.2.1 + reachHigh s.e.2.2.1 s.st.2.2.1 +
    reachHigh s.e.2.2.2 s.st.2.2.2

/-- Every element lies in 0 to 2^32 - z (R316 step 5). -/
def Shape.inSpace (s : Shape) : Bool := decide (0 ≤ s.low) && decide (s.high + s.z ≤ 2 ^ 32)

/-- The bounding range as address and length. -/
def Shape.range (s : Shape) : Nat × Nat := (s.low.toNat, (s.high - s.low).toNat + s.z)

/-- Rows of a destination do not overlap (R317). -/
def Shape.rowsApart (s : Shape) : Bool :=
  let step (x : Bool × Int) (d : Nat × Int) : Bool × Int :=
    if 1 < d.1 then (x.1 && decide (x.2 ≤ d.2), ((d.1 : Int) - 1) * d.2 + x.2) else x
  !s.bc0 && ([(s.e.2.1, s.st.2.1), (s.e.2.2.1, s.st.2.2.1), (s.e.2.2.2, s.st.2.2.2)].foldl step (true, (s.e.1 * s.z : Nat))).1

/-- Bounding ranges share a byte (R318). -/
def Shape.touches (a b : Shape) : Bool := decide (a.low < b.high + b.z) && decide (b.low < a.high + a.z)

/-- Equal BASE, strides, effective extents, BC0 and element size (R318). -/
def Shape.sameLayout (a b : Shape) : Bool :=
  decide (a.base = b.base) && decide (a.st = b.st) && decide (a.e = b.e) && decide (a.bc0 = b.bc0) && decide (a.z = b.z)

/-! ### DLD (R313) -/

/-- Load a record, its BASE replaced where one is given. -/
def State.loadShape (s : State) (d : ShapeReg) (b : Reg) (off : Word) (base : Option Word) : Res :=
  match s.access (s.ea b off) 32 .rd with
  | .fault c => s.fault c
  | .wait => .next s.stall
  | .at_ addr h r =>
    let s := s.touchRead s.hdView h r addr
    let bs := s.localRead s.hdView h r addr 32
    match base with
    | some v =>
      if 2 ^ 32 ≤ v.toNat then s.fault .bounds
      else
        let bs := leBytes 4 v.toNat ++ bs.drop 4
        s.require (shapeOk bs) .shape
          (s.modHd fun h => { h with shapes := h.shapes.set d.toNat (some (BitVec.ofNat 256 (leNat bs))), dirtyShapes := h.dirtyShapes ||| (1#16 <<< d.toNat) }).done
    | none =>
      s.require (shapeOk bs) .shape
        (s.modHd fun h => { h with shapes := h.shapes.set d.toNat (some (BitVec.ofNat 256 (leNat bs))), dirtyShapes := h.dirtyShapes ||| (1#16 <<< d.toNat) }).done

/-- (DEDUCED, log 19.) -/
def execDld (d : ShapeReg) (b : Reg) (off : Word) (s : State) : Res := s.guardRegs [b] (s.loadShape d b off none)
def execDldBase (d : ShapeReg) (b : Reg) (off : Word) (c : Reg) (s : State) : Res :=
  s.guardRegs [b, c] (s.loadShape d b off (some (s.reg c)))

/-! ### Types and extents (R320 to R326) -/

/-- Integer types of the bitwise forms, floating types of the functions (R320). -/
def bitTypes : List Nat := [4, 5, 9, 10]
def funTypes : List Nat := [7, 1, 0, 2, 3]

/-- The types of the operands are admitted (R316 step 2): destination, then sources. -/
def VecKind.typesOk (k : VecKind) (d : Shape) (srcs : List Shape) : Bool :=
  let plain (s : Shape) : Bool := decide (s.ty ≠ 6)
  let same (l : List Shape) : Bool := l.all fun s => decide (s.ty = d.ty)
  match k with
  | .and | .or | .xor | .shl | .shr | .sra => bitTypes.contains d.ty && same srcs
  | .exp | .log | .tanh | .sig => funTypes.contains d.ty && same srcs
  | .sqrt | .rsq | .rcp => (8 :: funTypes).contains d.ty && same srcs
  | .cmp _ => decide (d.ty = 5) && srcs.all plain && (match srcs with | a :: t => t.all fun b => decide (b.ty = a.ty) | [] => true)
  | .sel => plain d && same srcs.dropLast && srcs.getLast?.all fun m => decide (m.ty = 5)
  | .cvt | .rsum => plain d && srcs.all plain
  | .perm => plain d && same (srcs.take 1) && (srcs.drop 1).all fun i => decide (i.ty = 5) || decide (i.ty = 9)
  | _ => plain d && same srcs

/-- Length in bytes of a slice of VXCH (R326). -/
def Shape.slice (s : Shape) : Nat := s.n / 16 * s.z

/-- The extent of the outermost effective dimension. -/
def Shape.outer (s : Shape) : Nat :=
  match s.rank with
  | 1 => s.e.1
  | 2 => s.e.2.1
  | 3 => s.e.2.2.1
  | _ => s.e.2.2.2

/-- The extents stand as the form requires (R316 step 3). -/
def VecKind.extentsOk (k : VecKind) (d : Shape) (srcs : List Shape) : Bool :=
  match k with
  | .rsum | .rmax | .rmin => srcs.all fun s => decide (d.e = (1, s.e.2))
  | .perm =>
    (srcs.take 1).all (fun s => decide (d.e.2 = s.e.2)) &&
      (srcs.drop 1).all fun i => decide (i.rank = 1) && decide (i.e.1 = d.e.1)
  | .trn => srcs.all fun s => decide (d.e = (s.e.2.1, s.e.1, s.e.2.2))
  | .xch => decide (d.outer = 16) && decide (d.slice % 8 = 0) && decide (d.slice ≤ 65536)
  | _ => srcs.all fun s => decide (s.e = d.e)

/-- Forms whose destination may lie on a source of the same layout (R318). -/
def VecKind.inPlace : VecKind → Bool
  | .perm | .trn | .rsum | .rmax | .rmin | .xch => false
  | _ => true

/-- The destination meets its sources only as R318 allows. -/
def VecKind.overlapOk (k : VecKind) (d : Shape) (srcs : List Shape) : Bool :=
  srcs.all fun s => !d.touches s || (k.inPlace && d.sameLayout s)

/-! ### Issue (R316, R319) -/

/-- What the checks of R316 answer: a fault, no effect, the interlock or a full queue, or the spans of the operation. -/
inductive VecCheck where
  | fault (c : FaultCode)
  | empty
  | ok (reads writes : List Span)

/-- The span of a shape on a core. -/
def Shape.span (s : Shape) (core : Nat) : Span := { home := localHome core s.range.1, len := s.range.2 }

/-- Check one operand's range by R94. -/
def State.checkShape (s : State) (x : Shape) (need : Right) : Option FaultCode :=
  match s.checkLocal s.cur.core s.hd.entry x.range.1 x.range.2 need 1 with
  | .error c => some c
  | .ok _ => none

/-- Steps 2 to 8 of R316; a VXCH has no destination, its source stands in both places. -/
def State.checkVec (s : State) (k : VecKind) (d : Shape) (srcs : List Shape) : VecCheck :=
  let xch := decide (k = .xch)
  let all := d :: srcs
  let c := s.cur.core
  if !k.typesOk d srcs then .fault .format
  else if !k.extentsOk d srcs then .fault .shape
  else if all.any fun x => decide (x.n = 0) then .empty
  else if !all.all Shape.inSpace then .fault .bounds
  else if !xch && !d.rowsApart then .fault .shape
  else if !k.overlapOk d srcs then .fault .shape
  else
    let first := if xch then s.checkShape d .rd else s.checkShape d (if k = .fma then .rw else .wr)
    match (first :: srcs.map fun x => s.checkShape x .rd).findSome? id with
    | some f => .fault f
    | none => if xch then .ok [d.span c] [] else .ok (srcs.map fun x => x.span c) [d.span c]

/-- The ranges meet a queued operation of the handler (R55, R190). -/
def State.engineHeld (s : State) (reads writes : List Span) : Bool :=
  let meets (w : Bool) (sp : Span) : Bool := s.here.conflicts s.self.name s.hd.serial w sp
  reads.any (meets false) || writes.any (meets true)

/-- A new operation of the current handler. -/
def State.newOp (s : State) (reads writes : List Span) (body : EngBody) : EngOp :=
  { id := s.here.nextId, seq := s.here.seq, entry := s.hd.entry, name := s.self.name, rec_ := s.cur.rec_,
    serial := s.hd.serial, tenant := s.self.tenant, ctx := s.hd.ctx, slot := s.hd.slot, ctl := s.hd.ctl,
    fences := s.hd.fences, pc := s.hd.pc, at_ := s.mod.timeNs, reads := reads, writes := writes, body := body }

/-- Reserve the cells of every line of a shape's extent (R127). -/
def State.reserveShape (s : State) (d : Shape) : Got :=
  match s.checkLocal s.cur.core s.hd.entry d.range.1 d.range.2 .wr 1 with
  | .ok (h, r) => s.reserveView s.hdView h r d.range.1 d.range.2
  | .error _ => .ok s

/-- Queue a vector operation. -/
def State.pushVec (s : State) (op : EngOp) : State :=
  ((s.modHere fun k => { k with vec := k.vec ++ [op] }).bumpId s.cur.core).bumpSeq s.cur.core

/-- The shape registers named are valid. -/
def Handler.shapesOf (h : Handler) (ds : List ShapeReg) : Option (List (BitVec 256)) :=
  ds.mapM fun d => h.shapes[d.toNat]

/-- A vector form (R316): its registers are sampled, checked, its cells reserved and the operation queued. -/
def State.vecForm (s : State) (k : VecKind) (d : ShapeReg) (srcs : List ShapeReg) (v : Word) (w : Word) : Res :=
  match s.hd.shapesOf (d :: srcs) with
  | none => s.fault .shape
  | some [] => s.fault .shape
  | some (dr :: rs) =>
    let ds := shapeOf dr
    match s.checkVec k ds (rs.map shapeOf) with
    | .fault c => s.fault c
    | .empty => s.done
    | .ok reads writes =>
      if s.engineHeld reads writes || decide (2 ≤ s.here.vec.length) then .next s.stall
      else s.got (s.reserveShape ds) fun s => (s.pushVec (s.newOp reads writes (.vec k dr rs v w))).done

/-- A binary form: the second source a shape or a scalar (R315, R321). -/
def State.vec2 (s : State) (k : VecKind) (a b : ShapeReg) (c : VSrc) : Res :=
  match c with
  | .shape d => s.vecForm k a [b, d] 0#64 0#64
  | .scalar r => s.guardRegs [r] (s.vecForm k a [b] (s.reg r) 0#64)

/-- A unary form. -/
def State.vec1 (s : State) (k : VecKind) (a b : ShapeReg) : Res := s.vecForm k a [b] 0#64 0#64

def execVadd (a b : ShapeReg) (c : VSrc) (s : State) : Res := s.vec2 .add a b c
def execVsub (a b : ShapeReg) (c : VSrc) (s : State) : Res := s.vec2 .sub a b c
def execVmul (a b : ShapeReg) (c : VSrc) (s : State) : Res := s.vec2 .mul a b c
def execVfma (a b : ShapeReg) (c : VSrc) (s : State) : Res := s.vec2 .fma a b c
def execVdiv (a b : ShapeReg) (c : VSrc) (s : State) : Res := s.vec2 .div a b c
def execVmin (a b : ShapeReg) (c : VSrc) (s : State) : Res := s.vec2 .min a b c
def execVmax (a b : ShapeReg) (c : VSrc) (s : State) : Res := s.vec2 .max a b c
def execVand (a b : ShapeReg) (c : VSrc) (s : State) : Res := s.vec2 .and a b c
def execVor (a b : ShapeReg) (c : VSrc) (s : State) : Res := s.vec2 .or a b c
def execVxor (a b : ShapeReg) (c : VSrc) (s : State) : Res := s.vec2 .xor a b c
def execVshl (a b : ShapeReg) (c : VSrc) (s : State) : Res := s.vec2 .shl a b c
def execVshr (a b : ShapeReg) (c : VSrc) (s : State) : Res := s.vec2 .shr a b c
def execVsra (a b : ShapeReg) (c : VSrc) (s : State) : Res := s.vec2 .sra a b c
def execVcmp (cond : VCond) (a b : ShapeReg) (c : VSrc) (s : State) : Res := s.vec2 (.cmp cond) a b c
def execVabs (a b : ShapeReg) (s : State) : Res := s.vec1 .abs a b
def execVneg (a b : ShapeReg) (s : State) : Res := s.vec1 .neg a b
def execVexp (a b : ShapeReg) (s : State) : Res := s.vec1 .exp a b
def execVlog (a b : ShapeReg) (s : State) : Res := s.vec1 .log a b
def execVsqrt (a b : ShapeReg) (s : State) : Res := s.vec1 .sqrt a b
def execVrsq (a b : ShapeReg) (s : State) : Res := s.vec1 .rsq a b
def execVrcp (a b : ShapeReg) (s : State) : Res := s.vec1 .rcp a b
def execVtanh (a b : ShapeReg) (s : State) : Res := s.vec1 .tanh a b
def execVsig (a b : ShapeReg) (s : State) : Res := s.vec1 .sig a b
def execVcvt (a b : ShapeReg) (s : State) : Res := s.vec1 .cvt a b
def execVrsum (a b : ShapeReg) (s : State) : Res := s.vec1 .rsum a b
def execVrmax (a b : ShapeReg) (s : State) : Res := s.vec1 .rmax a b
def execVrmin (a b : ShapeReg) (s : State) : Res := s.vec1 .rmin a b
def execVtrn (a b : ShapeReg) (s : State) : Res := s.vec1 .trn a b
def execVperm (a b c : ShapeReg) (s : State) : Res := s.vecForm .perm a [b, c] 0#64 0#64
def execVfill (a : ShapeReg) (b : Reg) (s : State) : Res := s.guardRegs [b] (s.vecForm .fill a [] (s.reg b) 0#64)
def execRngv (a : ShapeReg) (b c : Reg) (s : State) : Res :=
  s.guardRegs [b, c] (s.vecForm .rng a [] (s.reg b) (s.reg c))

def execVsel (a m b : ShapeReg) (c : VSrc) (s : State) : Res :=
  match c with
  | .shape d => s.vecForm .sel a [b, d, m] 0#64 0#64
  | .scalar r => s.guardRegs [r] (s.vecForm .sel a [b, m] (s.reg r) 0#64)

/-- A window key of the table of VXCH: zero, or of the issuer's cluster with no reserved bit set (R327). -/
def State.xchKeyOk (s : State) (k : Word) : Bool :=
  k == 0#64 || (decide (k.toNat % 16 = 0) && match s.keyPlace k with
    | some c => decide (clusterOf c = clusterOf s.cur.core)
    | none => false)

/-- VXCH: the checks of R316 on its source, then those of R327. -/
def execVxch (a : ShapeReg) (b c : Reg) (s : State) : Res :=
  s.guardRegs [b, c]
    (match s.hd.shapesOf [a] with
     | none => s.fault .shape
     | some l =>
       let dr := l.headD 0#256
       let ds := shapeOf dr
       match s.checkVec .xch ds [] with
       | .fault c => s.fault c
       | .empty => s.done
       | .ok reads _ =>
         match s.fetchOperand (s.reg b) 128 128 with
         | .fault c => s.fault c
         | .wait => .next s.stall
         | .bytes bs =>
           let v := s.reg c
           let ljv := v.getLsbD 38
           let keys := (List.range 16).map fun i => BitVec.ofNat 64 (field bs (8 * i) 8)
           if bits v.toNat 39 25 ≠ 0 ∨ bits v.toNat 0 3 ≠ 0 ∨ (ljv ∧ !s.here.joinOf (bits v.toNat 32 6) s.self.name) then s.fault .bounds
           else if !keys.all s.xchKeyOk then s.fault .bounds
           else if s.engineHeld reads [] || decide (2 ≤ s.here.vec.length) then .next s.stall
           else ((s.touchOperand (s.reg b) 128).pushVec { s.newOp reads [] (.vec .xch dr [] v 0#64) with
               keys := keys, places := (keys.filter (· != 0#64)).map s.keyPlace
               spots := (keys.filter (· != 0#64)).map fun x => { key := x, off := bits v.toNat 0 32, len := ds.slice } }).done)

/-! ### What an element becomes (R321 to R323) -/

/-- |x| and -x of a floating-point pattern (R321). -/
def FFmt.absNeg (f : FFmt) (neg : Bool) (x : Nat) : Nat :=
  if (f.read x).isNan then f.nan
  else if neg then x % 2 ^ f.width ^^^ f.sign true else x % 2 ^ (f.width - 1)

/-- A floating-point form on patterns: sources, and the destination's old element for VFMA. -/
def FFmt.vecOp (f : FFmt) (k : VecKind) (x y d : Nat) : FRes :=
  let a := f.read x
  let b := f.read y
  match k with
  | .add => f.put (a.add b)
  | .sub => f.put (a.add b.neg)
  | .mul => f.put (a.mul b)
  | .fma => f.put ((f.read d).fma a b)
  | .div => f.div a b
  | .min => (f.minMax false x y, 0#6)
  | .max => (f.minMax true x y, 0#6)
  | .abs => (f.absNeg false x, 0#6)
  | .neg => (f.absNeg true x, 0#6)
  | .exp => f.exp x
  | .log => f.log x
  | .sqrt => f.sqrt a
  | .rsq => f.rsqrt a
  | .rcp => f.div (.fin false 1 0) a
  | .tanh => f.tanh x
  | .sig => f.sigmoid x
  | _ => (x, 0#6)

/-- An integer form at the type's width. -/
def IFmt.vecOp (i : IFmt) (k : VecKind) (x y d : Nat) : FRes :=
  let a := i.read x
  let b := i.read y
  match k with
  | .add => (i.wrap (a + b), 0#6)
  | .sub => (i.wrap (a - b), 0#6)
  | .mul => (i.wrap (a * b), 0#6)
  | .fma => (i.wrap (i.read d + a * b), 0#6)
  | .div => ((i.div a b).1, (i.div a b).2.2)
  | .min => (if b < a then y else x, 0#6)
  | .max => (if a < b then y else x, 0#6)
  | .abs => (i.wrap (a.natAbs : Int), 0#6)
  | .neg => (i.wrap (-a), 0#6)
  | .and => (x &&& y, 0#6)
  | .or => (x ||| y, 0#6)
  | .xor => (x ^^^ y, 0#6)
  | .shl => ((x <<< (y % i.width)) % 2 ^ i.width, 0#6)
  | .shr => (x >>> (y % i.width), 0#6)
  | .sra => (i.wrap (IFmt.read { i with signed := true } x / 2 ^ (y % i.width)), 0#6)
  | _ => (x, 0#6)

def Elem.vecOp (e : Elem) (k : VecKind) (x y d : Nat) : FRes :=
  match e with
  | .flt f => f.vecOp k x y d
  | .int i => i.vecOp k x y d

/-- VCMP (R323). -/
def VCond.holds (c : VCond) (e : Elem) (x y : Nat) : Bool :=
  match e with
  | .flt f =>
    match c with
    | .eq => (f.read x).eqv (f.read y)
    | .ne => !(f.read x).eqv (f.read y)
    | .lt => (f.read x).lt (f.read y)
    | .le => (f.read x).lt (f.read y) || (f.read x).eqv (f.read y)
    | .un => (f.read x).isNan || (f.read y).isNan
  | .int i =>
    match c with
    | .eq => decide (i.read x = i.read y)
    | .ne => decide (i.read x ≠ i.read y)
    | .lt => decide (i.read x < i.read y)
    | .le => decide (i.read x ≤ i.read y)
    | .un => false

/-! ### Reductions (R324) -/

/-- A value widened exactly, and sums rounded, in a format. -/
def FFmt.accumulate (f : FFmt) (x : FVal × BitVec 6) (y : FVal) : FVal × BitVec 6 :=
  let r := f.put (x.1.add y)
  (f.read r.1, x.2 ||| r.2)

/-- The lane of a row that starts at element `j`. -/
def laneOf (n j : Nat) (xs : List FVal) : List FVal :=
  (indexed xs).filterMap fun x => if x.1 % n = j then some x.2 else none

/-- One lane summed in ascending order. -/
def FFmt.lane (f : FFmt) : List FVal → Option (FVal × BitVec 6)
  | [] => none
  | x :: t => some (t.foldl f.accumulate (x, 0#6))

/-- Join two lanes of the tree; an absent one passes the other. -/
def FFmt.join (f : FFmt) : Option (FVal × BitVec 6) → Option (FVal × BitVec 6) → Option (FVal × BitVec 6)
  | some x, some y => let r := f.accumulate x y.1
                      some (r.1, r.2 ||| y.2)
  | some x, none => some x
  | none, y => y

/-- One level of the pairwise tree. -/
def FFmt.joinPairs (f : FFmt) : List (Option (FVal × BitVec 6)) → List (Option (FVal × BitVec 6))
  | x :: y :: t => f.join x y :: f.joinPairs t
  | l => l

/-- The sum of a row in the fixed order, in the lane format. -/
def FFmt.rowSum (f : FFmt) (lanes : Nat) (xs : List FVal) : FVal × BitVec 6 :=
  let ls := (List.range lanes).map fun j => f.lane (laneOf lanes j xs)
  ((((f.joinPairs ∘ f.joinPairs ∘ f.joinPairs ∘ f.joinPairs) ls).headD none).getD (.nan, 0#6))

/-- VRSUM of a row of patterns (R324). -/
def sumRow (src dst : Elem) (xs : List Nat) : FRes :=
  match src with
  | .flt f =>
    let r := if f.width = 64 then fp64.rowSum 8 (xs.map f.read) else fp32.rowSum 16 (xs.map f.read)
    match dst with
    | .flt g => g.put r
    | .int i => let c := toInt i r.1
                (c.1, c.2 ||| r.2)
  | .int i =>
    let n : Int := xs.foldl (fun a x => a + i.read x) 0
    match dst with
    | .flt g => g.deliver (.ofInt n)
    | .int j => let x := j.sat n
                (x.1, if x.2 then fOF else 0#6)

/-- VRMAX and VRMIN of a row. -/
def extremeRow (e : Elem) (isMax : Bool) (xs : List Nat) : Nat :=
  match xs with
  | [] => 0
  | x :: t => t.foldl (fun a b => (e.vecOp (if isMax then .max else .min) a b 0).1) (e.vecOp (if isMax then .max else .min) x x 0).1

/-! ### Completion -/

/-- The pattern of an element in memory. -/
def State.elemAt (s : State) (v : View) (x : Shape) (i : Nat × Nat × Nat × Nat) : Nat :=
  leNat (s.peek v (x.addr i).toNat x.z)

/-- The elements an operation writes, in order: address, bytes; with its flags and the number of bad indices. -/
structure VecOut where
  writes : List (Nat × List Byte) := []
  flags : BitVec 6 := 0#6
  oob : Nat := 0

/-- Put results at a destination. -/
def outOf (d : Shape) (rs : List ((Nat × Nat × Nat × Nat) × FRes)) : VecOut :=
  { writes := rs.map fun r => ((d.addr r.1).toNat, leBytes d.z r.2.1), flags := rs.foldl (fun f r => f ||| r.2.2) 0#6 }

/-- Random draw as an element (R350). -/
def drawElem (e : Elem) (r : Word) : Nat :=
  match e with
  | .flt f => (f.round false (r.toNat / 2 ^ (64 - (f.frac + 1))) (-((f.frac : Int) + 1)) false).1
  | .int i => r.toNat % 2 ^ i.width

/-- What an operation computes from memory as it finds it (R321 to R325, R350). -/
def State.vecOut (s : State) (v : View) (k : VecKind) (d : Shape) (srcs : List Shape) (a b : Word) : VecOut :=
  let de := (elemOf d.ty).getD (.flt fp32)
  let s1 := srcs.headD d
  let se := (elemOf s1.ty).getD (.flt fp32)
  let scalar := a.toNat % 2 ^ (8 * s1.z)
  let x (i : Nat × Nat × Nat × Nat) : Nat := s.elemAt v s1 i
  let y (i : Nat × Nat × Nat × Nat) : Nat := match srcs with
    | _ :: t :: _ => s.elemAt v t i
    | _ => scalar
  let each (f : Nat × Nat × Nat × Nat → FRes) : VecOut := outOf d ((indicesOf d.e).map fun i => (i, f i))
  let row (i : Nat × Nat × Nat × Nat) : List Nat := (List.range s1.e.1).map fun j => x (j, i.2)
  match k with
  | .cmp c => each fun i => ((VCond.holds c se (x i) (y i)).toNat, 0#6)
  | .sel =>
    let m := srcs.getLast?.getD d
    let z (i : Nat × Nat × Nat × Nat) : Nat := match srcs with
      | [_, t, _] => s.elemAt v t i
      | _ => scalar
    each fun i => (if s.elemAt v m i ≠ 0 then x i else z i, 0#6)
  | .cvt => each fun i => convert se de (x i)
  | .fill => each fun _ => (a.toNat % 2 ^ (8 * d.z), 0#6)
  | .rng => outOf d ((indexed (indicesOf d.e)).map fun j => (j.2, (drawElem de (rng64 a (b + BitVec.ofNat 64 j.1)), 0#6)))
  | .rsum => each fun i => sumRow se de (row i)
  | .rmax => each fun i => (extremeRow se true (row i), 0#6)
  | .rmin => each fun i => (extremeRow se false (row i), 0#6)
  | .perm =>
    let ix := srcs.getLast?.getD d
    let at_ (i : Nat) : Int := match elemOf ix.ty with
      | some (.int f) => f.read (s.elemAt v ix (i, 0, 0, 0))
      | _ => 0
    let bad (i : Nat) : Bool := decide (at_ i < 0) || decide ((s1.e.1 : Int) ≤ at_ i)
    { each (fun i => (if bad i.1 then 0 else x ((at_ i.1).toNat, i.2), 0#6)) with
      oob := ((List.range d.e.1).filter bad).length }
  | .trn => each fun i => (x (i.2.1, i.1, i.2.2), 0#6)
  | .xch => {}
  | _ => each fun i => de.vecOp k (x i) (y i) (s.elemAt v d i)

/-- Write the elements one by one through the view. -/
def State.pokeAll (s : State) (v : View) (ws : List (Nat × List Byte)) : Got :=
  ws.foldl (fun g w => g.bind fun s => s.poke v w.1 w.2) (.ok s)

/-- The bytes of slice `k` of VXCH, packed in element order (R326). -/
def State.sliceBytes (s : State) (v : View) (d : Shape) (k : Nat) : List Byte :=
  let dim (i : Nat × Nat × Nat × Nat) : Nat := match d.rank with
    | 1 => i.1
    | 2 => i.2.1
    | 3 => i.2.2.1
    | _ => i.2.2.2
  ((indicesOf d.e).filter fun i => decide (dim i = k)).flatMap fun i => leBytes d.z (s.elemAt v d i)

/-- The slices of a VXCH in the order of their sending, from the issuer's neighbour round, without those of a zero key (R328).
-/
def EngOp.slicesFrom (o : EngOp) (core : Nat) : List Nat :=
  ((List.range 16).map fun i => (coreIdx core + 1 + i) % 16).filter fun k => o.keys.getD k 0#64 != 0#64

/-- Send slices of a VXCH as counted remote stores while the outbound queue takes them (R194, R328). -/
def State.sendSlices (s : State) (core : Nat) (o : EngOp) (d : Shape) (ctl : Word) : List Nat → State
  | [] => s.modOp core o fun x => { x with sent := true }
  | k :: rest =>
    if (s.core core).pieceWaits o then s
    else
      let piece : WinPiece := { key := o.keys.getD k 0#64, off := bits ctl.toNat 0 32, at_ := k, len := d.slice }
      ((s.sendPiece core o { dk := 3, cnt := true, dst := 0 } piece (s.sliceBytes (o.view core) d k)).modOp core o fun x =>
        { x with pieces := x.pieces + 1 }).sendSlices core o d ctl rest

/-- The operation leaves the vector engine. -/
def Core.dropVec (k : Core) (id : Nat) : Core := { k with vec := k.vec.filter fun o => decide (o.id ≠ id) }

/-- An operation completes (R319): its elements are written, its flags and counters set. -/
def State.finishVec (s : State) (core : Nat) (o : EngOp) (r : VecOut) : Res :=
  (s.pokeAll (o.view core) r.writes).orWait s fun s =>
    let s := if r.oob = 0 then s else s.count core o.tenant 0x019
    ((s.opFlags core o r.flags).modCore core fun k => k.dropVec o.id).settleCells core

/-- The local counter of a VXCH whose slices have all been answered (R328). -/
def State.endXch (s : State) (core : Nat) (o : EngOp) (ctl : Word) : State :=
  let s := s.modCore core fun k => k.dropVec o.id
  let s := if ctl.getLsbD 38 then
    (if (s.core core).joinOf (bits ctl.toNat 32 6) o.name then s.advanceJoin core (bits ctl.toNat 32 6) o.name 1
     else s.count core o.tenant 0x036) else s
  s.settleFences core

/-- The next completion of the vector engine: an exchange whose slices are answered, else the next operation in order. -/
def execVectorOpComplete (core : Nat) (s : State) : Res :=
  let k := s.core core
  match k.vec.find? (·.landed) with
  | some o =>
    match o.body with
    | .vec _ _ _ ctl _ => .next (s.endXch core o ctl)
    | _ => s.idle
  | none =>
    match k.vec.find? fun o => !o.sent with
    | none => s.idle
    | some o =>
      if !o.begun || !s.engineMay core o then s.idle
      else
        let x := s.opReady core o
        let o := x.2.2
        if !x.1 then .next x.2.1
        else
          let s := x.2.1.touchSpans (o.view core) o.reads
          match o.body with
          | .vec .xch d _ ctl _ =>
            .next (s.sendSlices core o (shapeOf d) ctl ((o.slicesFrom core).drop o.pieces))
          | .vec kind d srcs a b => s.finishVec core o (s.vecOut (o.view core) kind (shapeOf d) (srcs.map shapeOf) a b)
          | _ => s.idle

end Sys2Proof.Machine
end

