-- ==== Sys2Proof/Machine/Matrix.lean ====
section
/-! DEFINITION. The matrix unit (chapter 16, with R141, R152 to R155): the issue checks of its forms, what each computes, and
the completion of its queue. -/

namespace Sys2Proof.Machine

open Sys2Proof

/-! ### Formats (R333, R336, R338) -/

/-- The accumulator kind of a pair of operand formats, none where R333 does not allow it. -/
def mulKind (fa fb : Nat) : Option AccKind :=
  if fa = fb ∧ (fa = 0 ∨ fa = 1) then some .f32
  else if [2, 3, 6].contains fa ∧ [2, 3, 6].contains fb then some .f32
  else if [4, 5].contains fa ∧ [4, 5].contains fb then some .i32
  else if fa = 8 ∧ fb = 8 then some .f64
  else none

/-- The formats MLD and MST take for each kind (R338). -/
def loadFormats : AccKind → List Nat
  | .f32 => [7, 0, 1, 2, 3]
  | .i32 => [9, 4, 5]
  | .f64 => [8, 7]
def storeFormats : AccKind → List Nat
  | .f32 => [7, 0, 1, 2, 3, 6, 4, 5, 9]
  | .i32 => [9, 4, 5, 7, 0]
  | .f64 => [8, 7]

/-- Format code, rows and columns of a kind's tile (R330). -/
def kindFormat : AccKind → Elem
  | .f32 => .flt fp32
  | .i32 => .int { width := 32, signed := true }
  | .f64 => .flt fp64
def kindSide : AccKind → Nat
  | .f32 => 16
  | .i32 => 16
  | .f64 => 8

/-! ### Operand layout (R332) -/

/-- An operand in memory: format code, address, rows, elements in a row, and the stride field. -/
structure MatOperand where
  fmt : Nat
  addr : Nat
  rows : Nat
  cols : Nat
  stride : Nat
  deriving DecidableEq, Repr

/-- Length of a row, and the distance between rows. -/
def MatOperand.rowLen (m : MatOperand) : Nat := m.cols * elemSize m.fmt
def MatOperand.pitch (m : MatOperand) : Nat := if m.stride = 0 then m.rowLen else m.stride

/-- The bounding range; an EXF8 operand is taken as 400 bytes. -/
def MatOperand.extent (m : MatOperand) : Nat := if m.fmt = 6 then 400 else (m.rows - 1) * m.pitch + m.rowLen

/-- Check 3 of R334. -/
def MatOperand.strideOk (m : MatOperand) : Bool :=
  decide (m.stride = 0) || (decide (m.fmt ≠ 6) && decide (m.rowLen ≤ m.stride) && decide (m.stride % elemSize m.fmt = 0))

/-- Check 5 of R334. -/
def MatOperand.aligned (m : MatOperand) : Bool := decide (m.addr % elemSize m.fmt = 0)

/-- Its rows, or the 400 bytes, as address and length. -/
def MatOperand.parts (m : MatOperand) : List (Nat × Nat) :=
  if m.fmt = 6 then [(m.addr, 400)] else (List.range m.rows).map fun i => (m.addr + i * m.pitch, m.rowLen)

def MatOperand.span (m : MatOperand) (core : Nat) : Span := { home := localHome core m.addr, len := m.extent }

/-- The A and B operands of a multiply form. -/
def mulA (sparse : Bool) (ctl : Ctl) (q a c : Nat) : MatOperand :=
  { fmt := ctl.fmta.toNat, addr := a, rows := q, cols := if sparse then 8 else q, stride := bits c 0 16 }
def mulB (ctl : Ctl) (q b c : Nat) : MatOperand :=
  { fmt := ctl.fmtb.toNat, addr := b, rows := q, cols := q, stride := bits c 16 16 }

/-- The image of MLD and MST. -/
def imageOf (k : AccKind) (ctl : Ctl) (b c : Nat) : MatOperand :=
  { fmt := ctl.fmtc.toNat, addr := b, rows := kindSide k, cols := kindSide k, stride := bits c 0 16 }

/-! ### Issue (R334, R339) -/

/-- Check one range by R94. -/
def State.checkRange (s : State) (addr len : Nat) (need : Right) : Option FaultCode :=
  match s.checkLocal s.cur.core s.hd.entry addr len need 1 with
  | .error c => some c
  | .ok _ => none

/-- The range of one local extent. -/
def State.spanAt (s : State) (addr len : Nat) : Span := { home := localHome s.cur.core addr, len := len }

/-- Queue a matrix operation. -/
def State.pushMat (s : State) (op : EngOp) : State :=
  ((s.modHere fun k => { k with matq := k.matq ++ [op] }).bumpId s.cur.core).bumpSeq s.cur.core

/-- A form without memory operands. -/
def State.matTile (s : State) (k : MatKind) (d a : AccReg) : Res :=
  if 2 ≤ s.here.matq.length then .next s.stall else (s.pushMat (s.newOp [] [] (.mat k d a 0 0 0))).done

/-- Operands in the order of their check: address, length, the right needed. -/
def State.checkRanges (s : State) (l : List (Nat × Nat)) : Option FaultCode :=
  l.findSome? fun x => s.checkRange x.1 x.2 .rd

/-- The arrays a multiply form reads beside its operands: scales for the narrow floating formats, indices for a sparse
form. -/
def mulArrays (sparse : Bool) (kind : AccKind) (ctl : Ctl) : List (Nat × Nat) :=
  (if kind = .f32 ∧ ctl.scla ≠ 0#32 then [(ctl.scla.toNat, 16)] else []) ++
    (if kind = .f32 ∧ ctl.sclb ≠ 0#32 then [(ctl.sclb.toNat, 16)] else []) ++
    (if sparse then [(ctl.sparse.toNat, 32)] else [])

/-- A multiply form: the checks of R334, then the interlock and the queue. -/
def State.matMul (s : State) (sparse : Bool) (kind : MatKind) (n : AccReg) (a b c : Reg) : Res :=
  s.guardRegs [a, b, c]
    (let ctl := s.hd.ctl
     match mulKind ctl.fmta.toNat ctl.fmtb.toNat with
     | none => s.fault .format
     | some k =>
       if sparse ∧ (k = .f64 ∨ ctl.fmta.toNat = 6 ∨ ctl.fmtb.toNat = 6) then s.fault .format
       else
         let st := (s.reg c).toNat
         let x := mulA sparse ctl (kindSide k) (s.reg a).toNat st
         let y := mulB ctl (kindSide k) (s.reg b).toNat st
         let arrays := mulArrays sparse k ctl
         if 2 ^ 32 ≤ st then s.fault .bounds
         else if !(x.strideOk && y.strideOk) then s.fault .shape
         else if 2 ^ 32 ≤ x.addr ∨ 2 ^ 32 ≤ y.addr then s.fault .bounds
         else if !(x.aligned && y.aligned) ∨ (sparse ∧ ctl.sparse.toNat % 2 ≠ 0) then s.fault .align
         else match s.checkRanges ([(x.addr, x.extent), (y.addr, y.extent)] ++ arrays) with
           | some f => s.fault f
           | none =>
             let reads := [x.span s.cur.core, y.span s.cur.core] ++ arrays.map fun r => s.spanAt r.1 r.2
             if s.engineHeld reads [] || decide (2 ≤ s.here.matq.length) then .next s.stall
             else (s.pushMat (s.newOp reads [] (.mat kind n 0#2 x.addr y.addr st))).done)

/-- The checks of MLD and MST up to the ranges. -/
def imageFault (formats : List Nat) (m : MatOperand) (st : Nat) : Option FaultCode :=
  if !formats.contains m.fmt then some .format
  else if 2 ^ 16 ≤ st then some .bounds
  else if !m.strideOk then some .shape
  else if 2 ^ 32 ≤ m.addr then some .bounds
  else if !m.aligned then some .align
  else none

def execMma (n : AccReg) (a b c : Reg) (s : State) : Res := s.matMul false (.mma false) n a b c
def execMmat (n : AccReg) (a b c : Reg) (s : State) : Res := s.matMul false (.mma true) n a b c
def execMsp (n : AccReg) (a b c : Reg) (s : State) : Res := s.matMul true (.msp false) n a b c
def execMspt (n : AccReg) (a b c : Reg) (s : State) : Res := s.matMul true (.msp true) n a b c
def execMzero (n : AccReg) (s : State) : Res := s.matTile .zero n 0#2
def execMcp (d a : AccReg) (s : State) : Res := s.matTile .cp d a
def execMadd (k : AccKind) (d a : AccReg) (s : State) : Res := s.matTile (.addAcc k) d a
def execMtrn (d a : AccReg) (s : State) : Res := s.matTile .trn d a
def execMtrnD (d a : AccReg) (s : State) : Res := s.matTile .trnD d a

def execMld (k : AccKind) (n : AccReg) (b c : Reg) (s : State) : Res :=
  s.guardRegs [b, c]
    (let st := (s.reg c).toNat
     let m := imageOf k s.hd.ctl (s.reg b).toNat st
     match imageFault (loadFormats k) m st with
     | some f => s.fault f
     | none =>
       match s.checkRange m.addr m.extent .rd with
       | some f => s.fault f
       | none =>
         let reads := [m.span s.cur.core]
         if s.engineHeld reads [] || decide (2 ≤ s.here.matq.length) then .next s.stall
         else (s.pushMat (s.newOp reads [] (.mat (.ld k) n 0#2 0 m.addr st))).done)

def execMst (k : AccKind) (e5 : Bool) (n : AccReg) (b c : Reg) (s : State) : Res :=
  s.guardRegs [b, c]
    (let st := (s.reg c).toNat
     let m := imageOf k s.hd.ctl (s.reg b).toNat st
     match imageFault (storeFormats k) m st with
     | some f => s.fault f
     | none =>
       match s.checkLocal s.cur.core s.hd.entry m.addr m.extent .wr 1 with
       | .error f => s.fault f
       | .ok (h, r) =>
         let writes := [m.span s.cur.core]
         if s.engineHeld [] writes || decide (2 ≤ s.here.matq.length) then .next s.stall
         else s.got (s.reserveView s.hdView h r m.addr m.extent) fun s =>
           (s.pushMat (s.newOp [] writes (.mat (.st k e5) n 0#2 0 m.addr st))).done)

/-! ### Tiles (R330) -/

/-- Elements of `w` bits, first lowest. -/
def packElems (w : Nat) : List Nat → Nat
  | [] => 0
  | x :: t => x % 2 ^ w + 2 ^ w * packElems w t

/-- The element at (i, j) of a tile read as a kind. -/
def tileElem (k : AccKind) (t : BitVec 8192) (i j : Nat) : Nat :=
  bits t.toNat ((kindFormat k).width * (kindSide k * i + j)) (kindFormat k).width

/-- The places of a square tile, by rows. -/
def places (q : Nat) : List (Nat × Nat) := (List.range q).flatMap fun i => (List.range q).map fun j => (i, j)

/-- A tile with every element of a kind replaced; what lies behind them stays. -/
def tilePut (k : AccKind) (t : BitVec 8192) (els : List Nat) : BitVec 8192 :=
  let n := (kindFormat k).width * kindSide k * kindSide k
  BitVec.ofNat 8192 (packElems (kindFormat k).width els + t.toNat / 2 ^ n * 2 ^ n)

/-! ### Multiplication (R152 to R155, R335, R336) -/

/-- Values of an operand in element order, and whether an EXF8 block of it is malformed. -/
def State.matValues (s : State) (v : View) (m : MatOperand) : List FVal × Bool :=
  if m.fmt = 6 then
    let r := exfDecode 4 (s.peek v m.addr 400)
    (r.1.map fun x => FFmt.read (if x.1 then e5m2 else e4m3) x.2, r.2.2)
  else
    let e := (elemOf m.fmt).getD (.flt fp32)
    let z := elemSize m.fmt
    ((List.range m.rows).flatMap fun i =>
      let row := s.peek v (m.addr + i * m.pitch) m.rowLen
      (List.range m.cols).map fun j => e.value (field row (z * j) z), false)

/-- The E8 scales of an operand (R141): 127 where the address is 0. -/
def State.scales (s : State) (v : View) (a : BitVec 32) : List Nat :=
  if a = 0#32 then List.replicate 16 127 else (s.peek v a.toNat 16).map BitVec.toNat

/-- Row `i` of A as pairs of value and k: all of it for the dense forms; for the sparse ones the values at their indices,
and +0 at every position that no index names. -/
def aRow (sparse : Bool) (q : Nat) (vals : List FVal) (index i : Nat) : List (FVal × Nat) :=
  if sparse then
    let pos (n : Nat) : Nat := 4 * (n / 2) + bits index (2 * n) 2
    let named := (List.range 8).map fun n => (vals.getD (8 * i + n) .nan, pos n)
    named ++ ((List.range 16).filter fun k => !named.any fun x => decide (x.2 = k)).map fun k => (FVal.fin false 0 0, k)
  else (List.range q).map fun k => (vals.getD (q * i + k) .nan, k)

/-- Element b[k][j] of the B operand. -/
def bElem (t : Bool) (q : Nat) (vals : List FVal) (k j : Nat) : FVal :=
  vals.getD (if t then q * j + k else q * k + j) .nan

/-- The exact sum of products (R153), with the NV that its creation raises. A block with a NaN product raises NV for its 0 *
inf products and none for infinities of both signs beside it. (DESIGN CHOICE, log 71.) -/
def exactSum (ps : List (FVal × BitVec 6)) : FVal × BitVec 6 :=
  let nv := ps.foldl (fun f p => f ||| p.2) 0#6
  if ps.any (·.1.isNan) then (.nan, nv)
  else match ps with
    | [] => (.fin false 0 0, 0#6)
    | p :: t => t.foldl (fun a x => let r := a.1.add x.1
                                    (r.1, a.2 ||| r.2)) (p.1, nv)

/-- A value times 2^k. -/
def FVal.shift (v : FVal) (k : Int) : FVal :=
  match v with
  | .fin a m e => .fin a m (e + k)
  | x => x

/-- The FP32 step of one element (R152, R153); a NaN scale makes the sum NaN, and raises NV (R149). -/
def mulF32 (acc : Nat) (ps : List (FVal × FVal)) (sa sb : Nat) : FRes :=
  let r := exactSum (ps.map fun p => p.1.mul p.2)
  let r : FVal × BitVec 6 := if sa = 255 ∨ sb = 255 then (.nan, r.2 ||| fNV) else (r.1.shift ((sa : Int) + sb - 254), r.2)
  let t := (fp32.read acc).add r.1
  fp32.put (t.1, t.2 ||| r.2)

/-- A finite integer value. -/
def FVal.toInt : FVal → Int
  | .fin a m e => unitsAt a m e 0
  | _ => 0

/-- The INT32 step of one element (R154). -/
def mulI32 (acc : Nat) (ps : List (FVal × FVal)) : FRes :=
  let i : IFmt := { width := 32, signed := true }
  let x := i.sat (ps.foldl (fun a p => a + p.1.toInt * p.2.toInt) (i.read acc))
  (x.1, if x.2 then fOF else 0#6)

/-- The FP64 steps of one element (R155). -/
def mulF64 (acc : Nat) (ps : List (FVal × FVal)) : FRes :=
  ps.foldl (fun a p => let r := fp64.put ((fp64.read a.1).fma p.1 p.2)
                       (r.1, a.2 ||| r.2)) (acc, 0#6)

/-- One K block applied to a tile: the tile, the flags, and whether an EXF8 operand was malformed. -/
def State.multiply (s : State) (v : View) (ctl : Ctl) (sparse t : Bool) (acc : BitVec 8192) (a b c : Nat) :
    BitVec 8192 × BitVec 6 × Bool :=
  let k := (mulKind ctl.fmta.toNat ctl.fmtb.toNat).getD .f32
  let q := kindSide k
  let x := s.matValues v (mulA sparse ctl q a c)
  let y := s.matValues v (mulB ctl q b c)
  let index := s.peek v ctl.sparse.toNat 32
  let sa := s.scales v ctl.scla
  let sb := s.scales v ctl.sclb
  let rows := (List.range q).map fun i => aRow sparse q x.1 (if sparse then field index (2 * i) 2 else 0) i
  let one (ij : Nat × Nat) : FRes :=
    let old := tileElem k acc ij.1 ij.2
    let ps := (rows.getD ij.1 []).map fun e => (e.1, bElem t q y.1 e.2 ij.2)
    match k with
    | .f32 => mulF32 old ps (sa.getD ij.1 127) (sb.getD ij.2 127)
    | .i32 => mulI32 old ps
    | .f64 => mulF64 old ps
  let rs := (places q).map one
  (tilePut k acc (rs.map (·.1)), rs.foldl (fun f r => f ||| r.2) 0#6, x.2 || y.2)

/-! ### Moves and conversions (R337, R338) -/

/-- MADD of one element. -/
def addElem (k : AccKind) (x y : Nat) : FRes :=
  match k with
  | .f32 => fp32.put ((fp32.read x).add (fp32.read y))
  | .f64 => fp64.put ((fp64.read x).add (fp64.read y))
  | .i32 =>
    let i : IFmt := { width := 32, signed := true }
    let r := i.sat (i.read x + i.read y)
    (r.1, if r.2 then fOF else 0#6)

def addTiles (k : AccKind) (d a : BitVec 8192) : BitVec 8192 × BitVec 6 :=
  let rs := (places (kindSide k)).map fun p => addElem k (tileElem k d p.1 p.2) (tileElem k a p.1 p.2)
  (tilePut k d (rs.map (·.1)), rs.foldl (fun f r => f ||| r.2) 0#6)

/-- The transpose of a kind's elements, over a tile. -/
def transposeTile (k : AccKind) (d a : BitVec 8192) : BitVec 8192 :=
  tilePut k d ((places (kindSide k)).map fun p => tileElem k a p.2 p.1)

/-- Convert a pattern, unchanged where the formats are one. -/
def imageElem (src dst : Elem) (v : Nat) : FRes := if src = dst then (v, 0#6) else convert src dst v

/-- MLD. -/
def State.loadTile (s : State) (v : View) (k : AccKind) (m : MatOperand) (t : BitVec 8192) : BitVec 8192 :=
  let e := (elemOf m.fmt).getD (.flt fp32)
  let z := elemSize m.fmt
  tilePut k t ((List.range m.rows).flatMap fun i =>
    let row := s.peek v (m.addr + i * m.pitch) m.rowLen
    (List.range m.cols).map fun j => (imageElem e (kindFormat k) (field row (z * j) z)).1)

/-- What MST writes, as (address, bytes), and its flags. -/
def storeTile (k : AccKind) (e5 : Bool) (m : MatOperand) (t : BitVec 8192) : List (Nat × List Byte) × BitVec 6 :=
  let q := kindSide k
  let dst : Elem := if m.fmt = 6 then .flt (if e5 then e5m2 else e4m3) else (elemOf m.fmt).getD (.flt fp32)
  let rs := (places q).map fun p => imageElem (kindFormat k) dst (tileElem k t p.1 p.2)
  let flags := rs.foldl (fun f r => f ||| r.2) 0#6
  if m.fmt = 6 then ([(m.addr, (chunks 64 4 (rs.map (·.1))).flatMap (exfEncode e5))], flags)
  else
    let z := elemSize m.fmt
    ((chunks q q rs).mapIdx fun i row => (m.addr + i * m.pitch, row.flatMap fun r => leBytes z r.1), flags)

/-! ### Completion (R339, R340) -/

/-- The tiles an operation acts on: of its handler's record, or, behind a DONE, those kept for the queue. -/
def Core.tilesOf (k : Core) (o : EngOp) : Vector (BitVec 8192) 4 :=
  match Tab.get? k.handlers o.rec_ with
  | some h => if h.serial = o.serial then h.acc else (Tab.get? k.tiles o.serial).getD (Vector.replicate 4 0#8192)
  | none => (Tab.get? k.tiles o.serial).getD (Vector.replicate 4 0#8192)

/-- The handler of an operation still has its record. -/
def Core.holdsRec (k : Core) (o : EngOp) : Bool :=
  match Tab.get? k.handlers o.rec_ with
  | some h => decide (h.serial = o.serial)
  | none => false

/-- Write one tile: of the handler's slot or record (R16), or of those kept for the queue (R340). -/
def State.putTile (s : State) (core : Nat) (o : EngOp) (d : AccReg) (t : BitVec 8192) : State :=
  if (s.core core).holdsRec o then s.modTile core o.rec_ d.toFin t
  else s.modCore core fun k => { k with tiles := Tab.adjust k.tiles o.serial fun a => a.set d.toNat t }

/-- The operation leaves the matrix unit; kept tiles go with the last one. -/
def Core.dropMat (k : Core) (id : Nat) : Core :=
  let q := k.matq.filter fun o => decide (o.id ≠ id)
  { k with matq := q, tiles := k.tiles.filter fun e => q.any fun o => decide (o.serial = e.1) }

/-- Flags of a matrix operation: one that a DONE left behind, working only on tiles that ceased to exist, shows nothing; one
begun before the death of its actor completes in full, its FLAGS lost with the handler (R340). -/
def State.matFlags (s : State) (core : Nat) (o : EngOp) (f : BitVec 6) : State :=
  if o.ended then s else s.opFlags core o f

/-- Put a tile with its flags. -/
def State.matPut (s : State) (core : Nat) (o : EngOp) (d : AccReg) (r : BitVec 8192 × BitVec 6) : State :=
  (s.matFlags core o r.2).putTile core o d r.1

/-- A multiply completes; a malformed EXF8 operand sets NV and counts once (R145). -/
def State.matMulDone (s : State) (core : Nat) (o : EngOp) (d : AccReg) (r : BitVec 8192 × BitVec 6 × Bool) : State :=
  let s := s.matPut core o d (r.1, r.2.1 ||| (if r.2.2 then fNV else 0#6))
  if r.2.2 && !o.ended then s.count core o.tenant 0x017 else s

/-- What an operation does. -/
def State.runMat (s : State) (core : Nat) (o : EngOp) (k : MatKind) (d a : AccReg) (x y c : Nat) : Got :=
  let ts := (s.core core).tilesOf o
  let acc := ts[d.toNat]
  let v := o.view core
  match k with
  | .mma t => .ok <| s.matMulDone core o d (s.multiply v o.ctl false t acc x y c)
  | .msp t => .ok <| s.matMulDone core o d (s.multiply v o.ctl true t acc x y c)
  | .zero => .ok <| s.matPut core o d (0#8192, 0#6)
  | .ld k => .ok <| s.matPut core o d (s.loadTile v k (imageOf k o.ctl y c) acc, 0#6)
  | .st k e5 =>
    let r := storeTile k e5 (imageOf k o.ctl y c) acc
    (s.pokeAll v r.1).bind fun s => .ok (s.opFlags core o r.2)
  | .cp => .ok <| s.matPut core o d (ts[a.toNat], 0#6)
  | .addAcc k => .ok <| s.matPut core o d (addTiles k acc ts[a.toNat])
  | .trn => .ok <| s.matPut core o d (transposeTile .f32 acc ts[a.toNat], 0#6)
  | .trnD => .ok <| s.matPut core o d (transposeTile .f64 acc ts[a.toNat], 0#6)

/-- The oldest operation of the matrix unit completes. -/
def execMatrixOpComplete (core : Nat) (s : State) : Res :=
  match (s.core core).matq with
  | [] => s.idle
  | o :: _ =>
    if !o.begun || !s.engineMay core o then s.idle
    else
      let x := s.opReady core o
      let o := x.2.2
      if !x.1 then .next x.2.1
      else
        let s := x.2.1.touchSpans (o.view core) o.reads
        match o.body with
        | .mat k d a x y c => (s.runMat core o k d a x y c).orWait s fun s => (s.modCore core fun k => k.dropMat o.id).settleCells core
        | _ => s.idle

end Sys2Proof.Machine
end

