-- ==== Sys2Proof/Machine/Sorrel.lean ====
section
/-! DEFINITION. The Sorrel summary unit: the layouts, merges, coins and queries of chapter 07 and the forms of chapter 17
(R342 to R348). -/

namespace Sys2Proof.Machine

open Sys2Proof

/-! ### The common header (R161 to R163) -/

/-- The kinds of summary. -/
inductive SumType where
  | qsk | hhl | dcr
  deriving DecidableEq, Repr

def SumType.code : SumType → Nat
  | .qsk => 1 | .hhl => 2 | .dcr => 3

/-- Extent of a summary. -/
def SumType.extent : SumType → Nat
  | .qsk => 4224 | .hhl => 1088 | .dcr => 1088

/-- Element types admitted for insertion (R165), and key formats of a valid summary. -/
def SumType.admits : SumType → Nat → Bool
  | .qsk, t => [7, 0, 1, 2, 3].contains t
  | .hhl, t => [4, 5, 9, 7].contains t
  | .dcr, t => decide (t ≠ 6) && decide (t < 11)
def SumType.kfmtOk : SumType → Nat → Bool
  | .qsk, t => decide (t = 7)
  | k, t => k.admits t

/-- The header of a valid summary. -/
structure SumHead where
  kfmt : Nat
  entropy : Bool := false
  sat : Bool := false
  id : Nat
  seed : Nat
  serial : Nat := 0
  n : Nat := 0
  deriving DecidableEq, Repr

def sumHead (bs : List Byte) : SumHead :=
  { kfmt := field bs 1 1, entropy := decide (bits (field bs 2 1) 1 1 = 1), sat := decide (bits (field bs 2 1) 2 1 = 1),
    id := field bs 4 4, seed := field bs 8 8, serial := field bs 16 8, n := field bs 24 8 }

def headBytes (k : SumType) (h : SumHead) : List Byte :=
  leBytes 1 k.code ++ leBytes 1 h.kfmt ++ leBytes 1 (2 * h.entropy.toNat + 4 * h.sat.toNat) ++ leBytes 1 0 ++ leBytes 4 h.id ++
    leBytes 8 h.seed ++ leBytes 8 h.serial ++ leBytes 8 h.n

/-- The parts of R163 common to all kinds. -/
def headValid (k : SumType) (bs : List Byte) : Bool :=
  decide (field bs 0 1 = k.code) && k.kfmtOk (field bs 1 1) && decide (bits (field bs 2 1) 0 1 = 0) &&
    decide (bits (field bs 2 1) 3 5 = 0) && decide (field bs 3 1 = 0)

/-- Addition that stops at 2^64 - 1. -/
def sat64 (a b : Nat) : Nat := satAdd (2 ^ 64 - 1) a b
def sat32 (a b : Nat) : Nat := satAdd (2 ^ 32 - 1) a b

/-- The header of a merge: N adds up, and the source's ENTROPY is ORed in, whatever the kind (R168). -/
def SumHead.join (d t : SumHead) : SumHead := { d with n := sat64 d.n t.n, entropy := d.entropy || t.entropy }

/-! ### Keys (R165, R167) -/

/-- Canonical NaN and -0 of a floating-point key taken away. -/
def plainKey (f : FFmt) (v : Nat) : Nat := if (f.read v).isNan then f.nan else if v = f.sign true then 0 else v

/-- A key of each kind from an element's pattern. -/
def keyOf (k : SumType) (ty v : Nat) : Nat :=
  match k, elemOf ty with
  | .qsk, some e => (convert e (.flt fp32) v).1
  | .hhl, some (.int i) => IFmt.wrap { width := 32, signed := true } (i.read v)
  | _, some (.flt f) => plainKey f v
  | _, _ => v

/-- The key order: ascending value, +0 before -0. -/
def keyRank (v : Nat) : Int :=
  if v < 2 ^ 31 then 2 * (v : Int) else if v = 2 ^ 31 then 1 else -2 * ((v - 2 ^ 31 : Nat) : Int)

/-- Insert into a sorted list behind what is not greater. -/
def insertKey (x : Nat) : List Nat → List Nat
  | [] => [x]
  | y :: t => if keyRank y ≤ keyRank x then y :: insertKey x t else x :: y :: t

def sortKeys (l : List Nat) : List Nat := l.foldl (fun a x => insertKey x a) []

/-! ### QSK (R169 to R173) -/

/-- A quantile sketch, with where coins come from: `ctr` numbers the entropy draws, `entropic` is COINSEL. -/
structure Qsk where
  head : SumHead
  min : Nat
  max : Nat
  e : Nat
  nans : Nat
  levels : List (List Nat)
  ctr : Nat
  entropic : Bool
  excess : Bool := false
  deriving DecidableEq, Repr

def Qsk.level (q : Qsk) (h : Nat) : List Nat := q.levels.getD h []
def Qsk.setLevel (q : Qsk) (h : Nat) (l : List Nat) : Qsk := { q with levels := q.levels.set h l }

def qskOf (bs : List Byte) (ctr : Nat) (entropic : Bool) : Qsk :=
  { head := sumHead bs, min := field bs 32 4, max := field bs 36 4, e := field bs 40 1, nans := field bs 56 8,
    levels := (List.range 8).map fun h => (List.range (field bs (48 + h) 1)).map fun i => field bs (128 + 512 * h + 4 * i) 4,
    ctr := ctr, entropic := entropic }

def Qsk.bytes (q : Qsk) : List Byte :=
  headBytes .qsk q.head ++ leBytes 4 q.min ++ leBytes 4 q.max ++ leBytes 1 q.e ++ leBytes 7 0 ++
    q.levels.flatMap (fun l => leBytes 1 l.length) ++ leBytes 8 q.nans ++ leBytes 64 0 ++
    q.levels.flatMap fun l => l.flatMap (leBytes 4) ++ List.replicate (512 - 4 * l.length) 0#8

def isNan32 (v : Nat) : Bool := (fp32.read v).isNan

def qskValid (bs : List Byte) : Bool :=
  headValid .qsk bs && decide (field bs 40 1 ≤ 63) && decide (field bs 41 7 = 0) && decide (field bs 64 64 = 0) &&
    (List.range 8).all (fun h => decide (field bs (48 + h) 1 ≤ 128)) && !isNan32 (field bs 32 4) && !isNan32 (field bs 36 4) &&
    (qskOf bs 0 false).levels.all fun l => l.all fun x => !isNan32 x

/-- The coin (R168). -/
def Qsk.coin (q : Qsk) : Bool × Qsk :=
  let h := { q.head with serial := (q.head.serial + 1) % 2 ^ 64 }
  if q.entropic then
    ((Config.entropy q.ctr).getLsbD 0, { q with head := { h with entropy := true }, ctr := q.ctr + 1 })
  else
    ((mix64 (BitVec.ofNat 64 q.head.seed ^^^ (BitVec.ofNat 64 q.head.id <<< 32) ^^^ BitVec.ofNat 64 q.head.serial)).getLsbD 0,
     { q with head := h })

/-- Every second key, from the first or the second. -/
def everyOther (b : Bool) : List Nat → List Nat
  | [] => []
  | [x] => if b then [] else [x]
  | x :: y :: t => (if b then y else x) :: everyOther b t

/-- A sorted list cut to even length, with the last key where it was odd. -/
def evenPart (l : List Nat) : List Nat × List Nat := if l.length % 2 = 1 then (l.dropLast, l.drop (l.length - 1)) else (l, [])

/-- `halve_top` on a level 7, its coins from `q` (R170, R172). -/
def halveTop (l : List Nat) (q : Qsk) : List Nat × Qsk :=
  let p := evenPart (sortKeys l)
  let k := if p.2.isEmpty then (false, q) else q.coin
  let c := if p.1.isEmpty then (false, k.2) else k.2.coin
  (everyOther c.1 p.1 ++ (if k.1 then p.2 else []), c.2)

/-- Level 7 of the sketch itself is halved. -/
def Qsk.halve (q : Qsk) : Qsk :=
  let r := halveTop (q.level 7) q
  { r.2.setLevel 7 r.1 with e := q.e + 1 }

/-- A key's weight is lost: SAT and OF. -/
def Qsk.lose (q : Qsk) : Qsk := { q with head := { q.head with sat := true }, excess := true }

/-- Push one key into level 7. -/
def Qsk.pushTop (q : Qsk) (x : Nat) : Qsk :=
  if (q.level 7).length = 128 then
    if q.e = 63 then q.lose
    else let q := q.halve
         q.setLevel 7 (q.level 7 ++ [x])
  else q.setLevel 7 (q.level 7 ++ [x])

/-- Push keys into the level `k` below the top (R170). -/
def Qsk.push : Nat → Qsk → List Nat → Qsk
  | 0, q, items => items.foldl Qsk.pushTop q
  | k + 1, q, items =>
    let h := 6 - k
    let one (q : Qsk) (x : Nat) : Qsk :=
      let q := if (q.level h).length = 128 then
          let p := evenPart (sortKeys (q.level h))
          let c := (q.setLevel h p.2).coin
          Qsk.push k c.2 (everyOther c.1 p.1)
        else q
      q.setLevel h (q.level h ++ [x])
    items.foldl one q

/-- `qsk_insert` (R171). -/
def Qsk.insert (q : Qsk) (k : Nat) : Qsk :=
  if isNan32 k then { q with nans := sat64 q.nans 1 }
  else if q.head.n = 2 ^ 64 - 1 then q.lose
  else
    let q := { q with head := { q.head with n := q.head.n + 1 },
                      min := if keyRank k < keyRank q.min then k else q.min,
                      max := if keyRank q.max < keyRank k then k else q.max }
    Qsk.push 7 q [k]

/-- Raise the exponent of a sketch. -/
def Qsk.raise : Nat → Qsk → Qsk
  | 0, q => q
  | n + 1, q => Qsk.raise n q.halve

/-- Raise the exponent of a copy's level 7, its coins from `q`. -/
def raiseCopy : Nat → List Nat → Qsk → List Nat × Qsk
  | 0, l, q => (l, q)
  | n + 1, l, q => let r := halveTop l q
                   raiseCopy n r.1 r.2

/-- One level of a merge: the carry of the level below, then its own. -/
def Qsk.mergeLevel (t : Qsk) (x : Qsk × List Nat) (h : Nat) : Qsk × List Nat :=
  let l := sortKeys (x.1.level h ++ t.level h ++ x.2)
  if l.length ≤ 128 then (x.1.setLevel h l, [])
  else
    let p := evenPart l
    let c := (x.1.setLevel h p.2).coin
    (c.2, everyOther c.1 p.1)

/-- Bring level 7 to at most 128 keys. -/
def Qsk.fitTop : Nat → Qsk → Qsk
  | 0, q => q
  | n + 1, q =>
    if (q.level 7).length ≤ 128 then q
    else if q.e = 63 then (q.setLevel 7 ((q.level 7).take 128)).lose
    else Qsk.fitTop n q.halve

/-- `qsk_merge` (R172). -/
def Qsk.merge (d t : Qsk) : Qsk :=
  let d := d.raise (t.e - d.e)
  let r := raiseCopy (d.e - t.e) (t.level 7) d
  let m := (List.range 7).foldl (Qsk.mergeLevel t) (r.2, [])
  let d := (m.1.setLevel 7 (sortKeys (m.1.level 7 ++ r.1 ++ m.2))).fitTop 8
  { d with head := d.head.join t.head,
           nans := sat64 d.nans t.nans,
           min := if keyRank t.min < keyRank d.min then t.min else d.min,
           max := if keyRank d.max < keyRank t.max then t.max else d.max }

/-- Stored keys with their weights, in key order. -/
def Qsk.weighted (q : Qsk) : List (Nat × Nat) :=
  let w (h : Nat) : Nat := if h = 7 then 2 ^ (7 + q.e) else 2 ^ h
  let put (a : List (Nat × Nat)) (x : Nat × Nat) : List (Nat × Nat) :=
    a.takeWhile (fun y => decide (keyRank y.1 ≤ keyRank x.1)) ++ [x] ++ a.dropWhile fun y => decide (keyRank y.1 ≤ keyRank x.1)
  ((q.levels.mapIdx fun h l => l.map fun k => (k, w h)).flatten).foldl put []

/-- The first key whose cumulated weight reaches m * 2^e. -/
def reach (m : Nat) (e : Int) : Nat → List (Nat × Nat) → Nat
  | _, [] => 0x7FC00000
  | c, (k, w) :: t => if decide (unitsAt false m e (min e 0) ≤ unitsAt false (c + w) 0 (min e 0)) then k else reach m e (c + w) t

/-- `qsk_quantile` (R173). -/
def Qsk.quantile (q : Qsk) (f : Nat) : FRes :=
  let ws := q.weighted
  let total := ws.foldl (fun a x => a + x.2) 0
  match fp32.read f with
  | .fin neg m e =>
    if total = 0 then (0x7FC00000, fNV)
    else if m = 0 then (q.min, 0#6)
    else if neg then (0x7FC00000, fNV)
    else if (FVal.fin false 1 0).lt (.fin neg m e) then (0x7FC00000, fNV)
    else if (FVal.fin false 1 0).eqv (.fin neg m e) then (q.max, 0#6)
    else (reach (m * total) e 0 ws, 0#6)
  | _ => (0x7FC00000, fNV)

/-- The weighted rank (R173). -/
def Qsk.rank (q : Qsk) (v : Nat) : FRes :=
  if isNan32 v then (0, fNV)
  else
    let f (x : Nat) : Bool := (fp32.read x).lt (fp32.read v) || (fp32.read x).eqv (fp32.read v)
    let r := q.weighted.foldl (fun a x => if f x.1 then a + x.2 else a) 0
    if r ≤ 2 ^ 64 - 1 then (r, 0#6) else (2 ^ 64 - 1, fOF)

/-! ### HHL (R174 to R177) -/

/-- An entry: key, count, error. -/
structure Heavy where
  key : Nat
  count : Nat
  err : Nat
  deriving DecidableEq, Repr

structure Hhl where
  head : SumHead
  es : List Heavy
  deriving DecidableEq, Repr

def hhlOf (bs : List Byte) : Hhl :=
  { head := sumHead bs,
    es := (List.range (field bs 32 1)).map fun i =>
      { key := field bs (64 + 16 * i) 4, count := field bs (72 + 16 * i) 4, err := field bs (76 + 16 * i) 4 } }

def heavyBytes (e : Heavy) : List Byte := leBytes 4 e.key ++ leBytes 4 1 ++ leBytes 4 e.count ++ leBytes 4 e.err

def Hhl.bytes (h : Hhl) : List Byte :=
  headBytes .hhl h.head ++ leBytes 1 h.es.length ++ leBytes 31 0 ++ h.es.flatMap heavyBytes ++
    List.replicate (1024 - 16 * h.es.length) 0#8

def hhlValid (bs : List Byte) : Bool :=
  headValid .hhl bs && decide (field bs 32 1 ≤ 64) && decide (field bs 33 31 = 0) &&
    (List.range 64).all fun i => decide (field bs (68 + 16 * i) 4 = if i < field bs 32 1 then 1 else 0)

/-- The lowest index of the least count. -/
def leastHeavy (es : List Heavy) : Nat :=
  let c := es.foldl (fun a e => min a e.count) (2 ^ 32)
  (es.findIdx? fun e => decide (e.count = c)).getD 0

/-- `hh_insert` (R175). -/
def Hhl.insert (h : Hhl) (k : Nat) : Hhl :=
  let head := { h.head with n := sat64 h.head.n 1 }
  match h.es.findIdx? fun e => decide (e.key = k) with
  | some i => { head := head, es := modifyAt h.es i fun e => { e with count := sat32 e.count 1 } }
  | none =>
    if h.es.length < 64 then { head := head, es := h.es ++ [({ key := k, count := 1, err := 0 } : Heavy)] }
    else { head := head, es := modifyAt h.es (leastHeavy h.es) fun e => { key := k, count := sat32 e.count 1, err := e.count } }

/-- The minimum count of a full list, else 0. -/
def Hhl.floor (h : Hhl) : Nat := if h.es.length = 64 then h.es.foldl (fun a e => min a e.count) (2 ^ 32) else 0

/-- Insert by descending count, behind equals. -/
def insertHeavy (x : Heavy) : List Heavy → List Heavy
  | [] => [x]
  | y :: t => if x.count ≤ y.count then y :: insertHeavy x t else x :: y :: t

def sortHeavy (l : List Heavy) : List Heavy := l.foldl (fun a x => insertHeavy x a) []

/-- The merge of R176. -/
def Hhl.merge (d t : Hhl) : Hhl :=
  let credit (e : Heavy) (c r : Nat) : Heavy := { e with count := sat32 e.count c, err := sat32 e.err r }
  let mine := d.es.map fun e =>
    match t.es.find? fun x => decide (x.key = e.key) with
    | some x => credit e x.count x.err
    | none => credit e t.floor t.floor
  let others := (t.es.filter fun x => !d.es.any fun e => decide (e.key = x.key)).map fun x => credit x d.floor d.floor
  { head := d.head.join t.head, es := (sortHeavy (mine ++ others)).take 64 }

/-! ### DCR (R178 to R180) -/

structure Dcr where
  head : SumHead
  m : List Nat
  deriving DecidableEq, Repr

def dcrOf (bs : List Byte) : Dcr := { head := sumHead bs, m := ((bs.drop 64).take 1024).map BitVec.toNat }

def Dcr.bytes (d : Dcr) : List Byte := headBytes .dcr d.head ++ leBytes 32 0 ++ d.m.flatMap (leBytes 1)

def dcrValid (bs : List Byte) : Bool := headValid .dcr bs && decide (field bs 32 32 = 0) && (dcrOf bs).m.all fun x => decide (x ≤ 55)

/-- `dcr_insert` (R179). -/
def Dcr.insert (d : Dcr) (k : Nat) : Dcr :=
  let h := (mix64 (BitVec.ofNat 64 k)).toNat
  let w := bits h 0 54
  let v := if w = 0 then 55 else 54 - w.log2
  { head := { d.head with n := sat64 d.head.n 1 }, m := modifyAt d.m (bits h 54 10) (max v) }

def Dcr.merge (d t : Dcr) : Dcr :=
  { head := d.head.join t.head, m := List.zipWith max d.m t.m }

/-- An FP64 operation on patterns. -/
def mul64 (x y : Nat) : Nat := (fp64.put ((fp64.read x).mul (fp64.read y))).1
def div64 (x y : Nat) : Nat := (fp64.div (fp64.read x) (fp64.read y)).1
def add64 (x y : Nat) : Nat := (fp64.put ((fp64.read x).add (fp64.read y))).1
def nat64 (n : Nat) : Nat := (fp64.deliver (.ofInt n)).1

/-- `dcr_estimate` (R180): FP32 pattern and flags. -/
def Dcr.estimate (d : Dcr) : FRes :=
  let m := nat64 1024
  let alpha := div64 0x3FE714E3BCD35A86 (add64 (nat64 1) (div64 0x3FF14395810624DD m))
  let z := (fp64.round false (d.m.foldl (fun a x => a + 2 ^ (55 - x)) 0) (-55) false).1
  let e := div64 (mul64 (mul64 alpha m) m) z
  let v := (d.m.filter fun x => decide (x = 0)).length
  let small := !(fp64.read (nat64 2560)).lt (fp64.read e)
  let r := if small && decide (0 < v) then mul64 m (fp64.log (div64 m (nat64 v))).1 else e
  fp32.deliver (fp64.read r)

/-! ### Operations on bytes (R162, R166, R345, R346) -/

/-- A summary as reset writes it. -/
def resetBytes (k : SumType) (fmt id : Nat) (seed : Word) : List Byte :=
  let h : SumHead := { kfmt := fmt, id := id, seed := seed.toNat }
  match k with
  | .qsk => Qsk.bytes { head := h, min := 0x7F800000, max := 0xFF800000, e := 0, nans := 0, levels := List.replicate 8 [],
                        ctr := 0, entropic := false }
  | .hhl => Hhl.bytes { head := h, es := [] }
  | .dcr => Dcr.bytes { head := h, m := List.replicate 1024 0 }

def sumValid (k : SumType) (bs : List Byte) : Bool :=
  match k with
  | .qsk => qskValid bs
  | .hhl => hhlValid bs
  | .dcr => dcrValid bs

/-- What an insert or merge answers: the bytes, the counter of draws, whether OF is set; none for an invalid operand. -/
abbrev SumRes := Option (List Byte × Nat × Bool)

def insertAll (k : SumType) (bs : List Byte) (ty : Nat) (keys : List Nat) (ctr : Nat) (coin : Bool) : SumRes :=
  if !sumValid k bs || (decide (k ≠ .qsk) && decide (field bs 1 1 ≠ ty)) then none
  else match k with
  | .qsk => let q := keys.foldl Qsk.insert (qskOf bs ctr coin)
            some (q.bytes, q.ctr, q.excess)
  | .hhl => some ((keys.foldl Hhl.insert (hhlOf bs)).bytes, ctr, false)
  | .dcr => some ((keys.foldl Dcr.insert (dcrOf bs)).bytes, ctr, false)

def mergeAll (k : SumType) (d t : List Byte) (ctr : Nat) (coin : Bool) : SumRes :=
  if !sumValid k d || !sumValid k t || decide (field d 1 1 ≠ field t 1 1) then none
  else match k with
  | .qsk => let q := (qskOf d ctr coin).merge (qskOf t ctr coin)
            some (q.bytes, q.ctr, q.excess)
  | .hhl => some (((hhlOf d).merge (hhlOf t)).bytes, ctr, false)
  | .dcr => some (((dcrOf d).merge (dcrOf t)).bytes, ctr, false)

/-! ### Issue (R343, R344) -/

/-- Queue a summary operation. -/
def State.pushSum (s : State) (op : EngOp) : State :=
  ((s.modHere fun k => { k with sumq := k.sumq ++ [op] }).bumpId s.cur.core).bumpSeq s.cur.core

/-- An address of 64-byte alignment: BOUNDS, then ALIGN (step 4). -/
def sumAddr (l : List (Word × Nat)) : Option FaultCode :=
  if l.any fun x => decide (2 ^ 32 ≤ x.1.toNat) then some .bounds
  else if l.any fun x => decide (x.1.toNat % x.2 ≠ 0) then some .align
  else none

/-- Two extents share a byte. -/
def extentsMeet (a n b m : Nat) : Bool := decide (a < b + m) && decide (b < a + n)

/-- Ranges in the order of their check. -/
def State.checkNeeds (s : State) (l : List (Nat × Nat × Right)) : Option FaultCode :=
  l.findSome? fun x => s.checkRange x.1 x.2.1 x.2.2

/-- Reserve the cells of an extent. -/
def State.reserveExtent (s : State) (addr n : Nat) : Got :=
  match s.checkLocal s.cur.core s.hd.entry addr n .wr 1 with
  | .ok (h, r) => s.reserveView s.hdView h r addr n
  | .error _ => .ok s

/-- Interlock, queue, cells and the queueing of a form that lands nothing. -/
def State.sumIssue (s : State) (k : SumKind) (dst : Nat) (ext : Nat) (reads : List Span) (a b c : Word) (sh : BitVec 256) : Res :=
  let writes := [s.spanAt dst ext]
  if s.engineHeld reads writes || decide (2 ≤ s.here.sumq.length) then .next s.stall
  else s.got (s.reserveExtent dst ext) fun s => (s.pushSum (s.newOp reads writes (.sum k a b c sh))).done

/-- An insert form. -/
def State.sumInsert (s : State) (t : SumType) (k : SumKind) (a : Reg) (d : ShapeReg) : Res :=
  s.guardRegs [a]
    (match s.hd.shapes[d.toNat] with
     | none => s.fault .shape
     | some r =>
       let x := shapeOf r
       let dst := s.reg a
       if !t.admits x.ty then s.fault .format
       else match sumAddr [(dst, 64)] with
       | some f => s.fault f
       | none =>
         if x.n = 0 then s.done
         else if !x.inSpace then s.fault .bounds
         else if extentsMeet x.range.1 x.range.2 dst.toNat t.extent then s.fault .shape
         else match s.checkNeeds [(dst.toNat, t.extent, .rw), (x.range.1, x.range.2, .rd)] with
         | some f => s.fault f
         | none => s.sumIssue k dst.toNat t.extent [x.span s.cur.core] dst 0#64 0#64 r)

/-- A merge form. -/
def State.sumMerge (s : State) (t : SumType) (k : SumKind) (a b : Reg) : Res :=
  s.guardRegs [a, b]
    (let dst := s.reg a
     let src := s.reg b
     match sumAddr [(dst, 64), (src, 64)] with
     | some f => s.fault f
     | none =>
       if dst ≠ src ∧ extentsMeet dst.toNat t.extent src.toNat t.extent then s.fault .shape
       else match s.checkNeeds [(dst.toNat, t.extent, .rw), (src.toNat, t.extent, .rd)] with
       | some f => s.fault f
       | none => s.sumIssue k dst.toNat t.extent [s.spanAt src.toNat t.extent] dst src 0#64 0#256)

/-- A reset form. -/
def State.sumReset (s : State) (t : SumType) (k : SumKind) (fmt : Nat) (a b : Reg) : Res :=
  s.guardRegs [a, b]
    (let dst := s.reg a
     if !t.kfmtOk fmt then s.fault .format
     else if 2 ^ 32 ≤ (s.reg b).toNat then s.fault .bounds
     else match sumAddr [(dst, 64)] with
     | some f => s.fault f
     | none =>
       match s.checkNeeds [(dst.toNat, t.extent, .wr)] with
       | some f => s.fault f
       | none => s.sumIssue k dst.toNat t.extent [] dst 0#64 (s.reg b) 0#256)

/-- The queueing of a query: its landing entry is the lowest free one (R22, R344). -/
def State.sumQuery (s : State) (k : SumKind) (a : Reg) (src : Word) (ext : Nat) (c : Word) (writes : List (Nat × Nat)) : Res :=
  let reads := [s.spanAt src.toNat ext]
  let ws := writes.map fun x => s.spanAt x.1 x.2
  if s.engineHeld reads ws || decide (2 ≤ s.here.sumq.length) then .next s.stall
  else if !s.hd.landFree 1 then s.fault .bounds
  else s.got (writes.foldl (fun g x => g.bind fun s => s.reserveExtent x.1 x.2) (.ok s)) fun s =>
    s.landing (some a) 0#3 none fun i _ s =>
      (s.pushSum { s.newOp reads ws (.sum k src 0#64 c 0#256) with land := i }).done

/-- A query with a 32-bit operand, or none. -/
def State.sumAsk (s : State) (t : SumType) (k : SumKind) (a b : Reg) (c : Word) : Res :=
  let src := s.reg b
  if 2 ^ 32 ≤ c.toNat then s.fault .bounds
  else match sumAddr [(src, 64)] with
  | some f => s.fault f
  | none =>
    match s.checkNeeds [(src.toNat, t.extent, .rd)] with
    | some f => s.fault f
    | none => s.sumQuery k a src t.extent c []

def execQski (a : Reg) (d : ShapeReg) (s : State) : Res := s.sumInsert .qsk .qski a d
def execQskm (a b : Reg) (s : State) : Res := s.sumMerge .qsk .qskm a b
def execQskq (a b c : Reg) (s : State) : Res := s.guardRegs [a, b, c] (s.sumAsk .qsk .qskq a b (s.reg c))
def execQskr (a b c : Reg) (s : State) : Res := s.guardRegs [a, b, c] (s.sumAsk .qsk .qskr a b (s.reg c))
def execQskn (a b : Reg) (s : State) : Res := s.sumReset .qsk .qskn 7 a b
def execHhi (a : Reg) (d : ShapeReg) (s : State) : Res := s.sumInsert .hhl .hhi a d
def execHhm (a b : Reg) (s : State) : Res := s.sumMerge .hhl .hhm a b
def execHhn (fmt : BitVec 6) (a b : Reg) (s : State) : Res := s.sumReset .hhl (.hhn fmt) fmt.toNat a b
def execDci (a : Reg) (d : ShapeReg) (s : State) : Res := s.sumInsert .dcr .dci a d
def execDcm (a b : Reg) (s : State) : Res := s.sumMerge .dcr .dcm a b
def execDce (a b : Reg) (s : State) : Res := s.guardRegs [a, b] (s.sumAsk .dcr .dce a b 0#64)
def execDcn (fmt : BitVec 6) (a b : Reg) (s : State) : Res := s.sumReset .dcr (.dcn fmt) fmt.toNat a b

def execHhq (a b c : Reg) (s : State) : Res :=
  s.guardRegs [a, b, c]
    (let src := s.reg b
     let dst := s.reg c
     match sumAddr [(src, 64), (dst, 16)] with
     | some f => s.fault f
     | none =>
       if extentsMeet src.toNat 1088 dst.toNat 1024 then s.fault .shape
       else match s.checkNeeds [(src.toNat, 1088, .rd), (dst.toNat, 1024, .wr)] with
       | some f => s.fault f
       | none => s.sumQuery .hhq a src 1088 dst [(dst.toNat, 1024)])

/-! ### Completion -/

def SumKind.type : SumKind → SumType
  | .qski | .qskm | .qskq | .qskr | .qskn => .qsk
  | .hhi | .hhm | .hhq | .hhn _ => .hhl
  | .dci | .dcm | .dce | .dcn _ => .dcr

/-- FLAGS bits that advance no counter of their own (R166). -/
def State.quietFlags (s : State) (core : Nat) (o : EngOp) (f : BitVec 6) : State :=
  match Tab.get? (s.core core).handlers o.rec_ with
  | some h => if h.serial = o.serial then s.modCtl core o.rec_ fun h => { h with flags := h.flags ||| f } else s
  | none => s

/-- The operation met an invalid summary (R166): NV and SUM_BAD. -/
def State.sumBad (s : State) (core : Nat) (o : EngOp) : State := (s.quietFlags core o fNV).count core o.tenant 0x018

/-- INVALID set in a destination of the right kind. -/
def State.markInvalid (s : State) (core : Nat) (o : EngOp) (t : SumType) (a : Nat) : Got :=
  let v := o.view core
  let bs := s.peek v a 3
  if field bs 0 1 = t.code then s.poke v (a + 2) [BitVec.ofNat 8 (field bs 2 1) ||| 1#8] else .ok s

/-- Write an insert's or merge's result. -/
def State.sumWrite (s : State) (core : Nat) (o : EngOp) (t : SumType) (a : Nat) (r : SumRes) : Got :=
  match r with
  | none => (s.markInvalid core o t a).bind fun s => .ok (s.sumBad core o)
  | some (bs, ctr, excess) =>
    let s := { s with freeCtr := ctr }
    (s.poke (o.view core) a bs).bind fun s => .ok (s.opFlags core o (if excess then fOF else 0#6))

/-- Land a query's value. -/
def State.sumLand (s : State) (core : Nat) (o : EngOp) (v : Nat) : State :=
  match o.land with
  | some i => s.result core o.rec_ o.serial i (BitVec.ofNat 64 v)
  | none => s

/-- A query: the value where the summary is valid, else the one of R166. The NV and OF of R170 to R173 advance ARITH_NV and
ARITH_OF like those of R157's table. (DESIGN CHOICE, log 72.) -/
def State.sumAnswer (s : State) (core : Nat) (o : EngOp) (valid : Bool) (bad : Nat) (r : FRes) : State :=
  if valid then (s.opFlags core o r.2).sumLand core o r.1 else (s.sumBad core o).sumLand core o bad

/-- Keys of an insert in element order. -/
def State.sumKeys (s : State) (v : View) (t : SumType) (x : Shape) : List Nat :=
  (indicesOf x.e).map fun i => keyOf t x.ty (s.elemAt v x i)

/-- What an operation does. -/
def State.runSum (s : State) (core : Nat) (o : EngOp) (k : SumKind) (a b c : Nat) (sh : BitVec 256) : Got :=
  let t := k.type
  let v := o.view core
  let bs := s.peek v a t.extent
  let coin := o.ctl.coinsel
  match k with
  | .qski | .hhi | .dci =>
    let x := shapeOf sh
    s.sumWrite core o t a (insertAll t bs x.ty (s.sumKeys v t x) s.freeCtr coin)
  | .qskm | .hhm | .dcm => s.sumWrite core o t a (mergeAll t bs (s.peek v b t.extent) s.freeCtr coin)
  | .qskn => s.poke v a (resetBytes t 7 c o.ctl.seed)
  | .hhn f => s.poke v a (resetBytes t f.toNat c o.ctl.seed)
  | .dcn f => s.poke v a (resetBytes t f.toNat c o.ctl.seed)
  | .qskq => .ok <| s.sumAnswer core o (sumValid t bs) 0x7FC00000 ((qskOf bs 0 false).quantile c)
  | .qskr => .ok <| s.sumAnswer core o (sumValid t bs) 0 ((qskOf bs 0 false).rank c)
  | .dce => .ok <| s.sumAnswer core o (sumValid t bs) 0x7FC00000 (dcrOf bs).estimate
  | .hhq =>
    let es := sortHeavy (hhlOf bs).es
    (if sumValid t bs then s.poke v c (es.flatMap heavyBytes) else .ok s).bind fun s =>
      .ok (s.sumAnswer core o (sumValid t bs) 0 (es.length, 0#6))

/-- The operation leaves the summary unit. -/
def Core.dropSum (k : Core) (id : Nat) : Core := { k with sumq := k.sumq.filter fun o => decide (o.id ≠ id) }

/-- The oldest operation of the summary unit completes. -/
def execSummaryOpComplete (core : Nat) (s : State) : Res :=
  match (s.core core).sumq with
  | [] => s.idle
  | o :: _ =>
    if !o.begun || !s.engineMay core o then s.idle
    else
      let x := s.opReady core o
      let o := x.2.2
      if !x.1 then .next x.2.1
      else
        let s := x.2.1.touchSpans (o.view core) o.reads
        match o.body with
        | .sum k a b c sh => (s.runSum core o k a.toNat b.toNat c.toNat sh).orWait s fun s =>
            (s.modCore core fun x => x.dropSum o.id).settleCells core
        | _ => s.idle

end Sys2Proof.Machine
end

