-- ==== Sys2Proof/Machine/Dispatch.lean ====
section
/-! DEFINITION. Which meaning each instruction and event has: one arm per constructor of `Instr`. -/

namespace Sys2Proof.Machine

open Sys2Proof

def exec (i : Instr) (s : State) : Host.Outcome State Fault Refusal :=
  match i with
  | .add a b c w => Sys2Proof.Machine.execAdd a b c w s
  | .sub a b c w => Sys2Proof.Machine.execSub a b c w s
  | .and a b c w => Sys2Proof.Machine.execAnd a b c w s
  | .or a b c w => Sys2Proof.Machine.execOr a b c w s
  | .xor a b c w => Sys2Proof.Machine.execXor a b c w s
  | .shl a b c w => Sys2Proof.Machine.execShl a b c w s
  | .shr a b c w => Sys2Proof.Machine.execShr a b c w s
  | .sra a b c w => Sys2Proof.Machine.execSra a b c w s
  | .mul a b c w => Sys2Proof.Machine.execMul a b c w s
  | .mulh a b c w => Sys2Proof.Machine.execMulh a b c w s
  | .mulhu a b c w => Sys2Proof.Machine.execMulhu a b c w s
  | .div a b c w => Sys2Proof.Machine.execDiv a b c w s
  | .divu a b c w => Sys2Proof.Machine.execDivu a b c w s
  | .rem a b c w => Sys2Proof.Machine.execRem a b c w s
  | .remu a b c w => Sys2Proof.Machine.execRemu a b c w s
  | .addi a imm => Sys2Proof.Machine.execAddi a imm s
  | .andi a imm => Sys2Proof.Machine.execAndi a imm s
  | .shli a imm => Sys2Proof.Machine.execShli a imm s
  | .shri a imm => Sys2Proof.Machine.execShri a imm s
  | .srai a imm => Sys2Proof.Machine.execSrai a imm s
  | .li a imm => Sys2Proof.Machine.execLi a imm s
  | .ori a imm => Sys2Proof.Machine.execOri a imm s
  | .xori a imm => Sys2Proof.Machine.execXori a imm s
  | .cmp cond p b c => Sys2Proof.Machine.execCmp cond p b c s
  | .cmpu cond p b c => Sys2Proof.Machine.execCmpu cond p b c s
  | .sel a b p => Sys2Proof.Machine.execSel a b p s
  | .plog op p b c => Sys2Proof.Machine.execPlog op p b c s
  | .extu a b pos len => Sys2Proof.Machine.execExtu a b pos len s
  | .exts a b pos len => Sys2Proof.Machine.execExts a b pos len s
  | .ins a b pos len => Sys2Proof.Machine.execIns a b pos len s
  | .clz a b w => Sys2Proof.Machine.execClz a b w s
  | .ctz a b w => Sys2Proof.Machine.execCtz a b w s
  | .popc a b w => Sys2Proof.Machine.execPopc a b w s
  | .ldB a b off ord => Sys2Proof.Machine.execLdB a b off ord s
  | .ldH a b off ord => Sys2Proof.Machine.execLdH a b off ord s
  | .ldW a b off ord => Sys2Proof.Machine.execLdW a b off ord s
  | .ldD a b off ord => Sys2Proof.Machine.execLdD a b off ord s
  | .stB a b off ord => Sys2Proof.Machine.execStB a b off ord s
  | .stH a b off ord => Sys2Proof.Machine.execStH a b off ord s
  | .stW a b off ord => Sys2Proof.Machine.execStW a b off ord s
  | .stD a b off ord => Sys2Proof.Machine.execStD a b off ord s
  | .ldx size a b c off ord => Sys2Proof.Machine.execLdx size a b c off ord s
  | .stx size a b c off ord => Sys2Proof.Machine.execStx size a b c off ord s
  | .aadd a b c off ord => Sys2Proof.Machine.execAadd a b c off ord s
  | .aswp a b c off ord => Sys2Proof.Machine.execAswp a b c off ord s
  | .acas a b c off ord => Sys2Proof.Machine.execAcas a b c off ord s
  | .br off => Sys2Proof.Machine.execBr off s
  | .call off => Sys2Proof.Machine.execCall off s
  | .brp p off => Sys2Proof.Machine.execBrp p off s
  | .brpF p off => Sys2Proof.Machine.execBrpF p off s
  | .jr b => Sys2Proof.Machine.execJr b s
  | .callr b => Sys2Proof.Machine.execCallr b s
  | .send a b ctx ord => Sys2Proof.Machine.execSend a b ctx ord s
  | .reply b ctx ord => Sys2Proof.Machine.execReply b ctx ord s
  | .done => Sys2Proof.Machine.execDone s
  | .fadd a b c => Sys2Proof.Machine.execFadd a b c s
  | .fsub a b c => Sys2Proof.Machine.execFsub a b c s
  | .fmul a b c => Sys2Proof.Machine.execFmul a b c s
  | .fma a b c => Sys2Proof.Machine.execFma a b c s
  | .fcmp cond p b c => Sys2Proof.Machine.execFcmp cond p b c s
  | .unassignedEncoding => Sys2Proof.Machine.execUnassignedEncoding s
  | .fdiv a b c => Sys2Proof.Machine.execFdiv a b c s
  | .fsqrt a b => Sys2Proof.Machine.execFsqrt a b s
  | .fmin a b c => Sys2Proof.Machine.execFmin a b c s
  | .fmax a b c => Sys2Proof.Machine.execFmax a b c s
  | .fcvt code a b => Sys2Proof.Machine.execFcvt code a b s
  | .dadd a b c => Sys2Proof.Machine.execDadd a b c s
  | .dsub a b c => Sys2Proof.Machine.execDsub a b c s
  | .dmul a b c => Sys2Proof.Machine.execDmul a b c s
  | .dfma a b c => Sys2Proof.Machine.execDfma a b c s
  | .dcmp cond p b c => Sys2Proof.Machine.execDcmp cond p b c s
  | .ddiv a b c => Sys2Proof.Machine.execDdiv a b c s
  | .dsqrt a b => Sys2Proof.Machine.execDsqrt a b s
  | .dmin a b c => Sys2Proof.Machine.execDmin a b c s
  | .dmax a b c => Sys2Proof.Machine.execDmax a b c s
  | .dld d b off => Sys2Proof.Machine.execDld d b off s
  | .dldBase d b off c => Sys2Proof.Machine.execDldBase d b off c s
  | .vadd a b c => Sys2Proof.Machine.execVadd a b c s
  | .vsub a b c => Sys2Proof.Machine.execVsub a b c s
  | .vmul a b c => Sys2Proof.Machine.execVmul a b c s
  | .vfma a b c => Sys2Proof.Machine.execVfma a b c s
  | .vdiv a b c => Sys2Proof.Machine.execVdiv a b c s
  | .vmin a b c => Sys2Proof.Machine.execVmin a b c s
  | .vmax a b c => Sys2Proof.Machine.execVmax a b c s
  | .vabs a b => Sys2Proof.Machine.execVabs a b s
  | .vneg a b => Sys2Proof.Machine.execVneg a b s
  | .vand a b c => Sys2Proof.Machine.execVand a b c s
  | .vor a b c => Sys2Proof.Machine.execVor a b c s
  | .vxor a b c => Sys2Proof.Machine.execVxor a b c s
  | .vshl a b c => Sys2Proof.Machine.execVshl a b c s
  | .vshr a b c => Sys2Proof.Machine.execVshr a b c s
  | .vsra a b c => Sys2Proof.Machine.execVsra a b c s
  | .vexp a b => Sys2Proof.Machine.execVexp a b s
  | .vlog a b => Sys2Proof.Machine.execVlog a b s
  | .vsqrt a b => Sys2Proof.Machine.execVsqrt a b s
  | .vrsq a b => Sys2Proof.Machine.execVrsq a b s
  | .vrcp a b => Sys2Proof.Machine.execVrcp a b s
  | .vtanh a b => Sys2Proof.Machine.execVtanh a b s
  | .vsig a b => Sys2Proof.Machine.execVsig a b s
  | .vcmp cond a b c => Sys2Proof.Machine.execVcmp cond a b c s
  | .vsel a m b c => Sys2Proof.Machine.execVsel a m b c s
  | .vcvt a b => Sys2Proof.Machine.execVcvt a b s
  | .vfill a b => Sys2Proof.Machine.execVfill a b s
  | .vrsum a b => Sys2Proof.Machine.execVrsum a b s
  | .vrmax a b => Sys2Proof.Machine.execVrmax a b s
  | .vrmin a b => Sys2Proof.Machine.execVrmin a b s
  | .vperm a b c => Sys2Proof.Machine.execVperm a b c s
  | .vtrn a b => Sys2Proof.Machine.execVtrn a b s
  | .vxch a b c => Sys2Proof.Machine.execVxch a b c s
  | .mma n a b c => Sys2Proof.Machine.execMma n a b c s
  | .mmat n a b c => Sys2Proof.Machine.execMmat n a b c s
  | .msp n a b c => Sys2Proof.Machine.execMsp n a b c s
  | .mspt n a b c => Sys2Proof.Machine.execMspt n a b c s
  | .mzero n => Sys2Proof.Machine.execMzero n s
  | .mld k n b c => Sys2Proof.Machine.execMld k n b c s
  | .mst k e5 n b c => Sys2Proof.Machine.execMst k e5 n b c s
  | .mcp d src => Sys2Proof.Machine.execMcp d src s
  | .madd k d src => Sys2Proof.Machine.execMadd k d src s
  | .mtrn d src => Sys2Proof.Machine.execMtrn d src s
  | .mtrnD d src => Sys2Proof.Machine.execMtrnD d src s
  | .qski a b => Sys2Proof.Machine.execQski a b s
  | .qskm a b => Sys2Proof.Machine.execQskm a b s
  | .qskq a b c => Sys2Proof.Machine.execQskq a b c s
  | .qskr a b c => Sys2Proof.Machine.execQskr a b c s
  | .qskn a b => Sys2Proof.Machine.execQskn a b s
  | .hhi a b => Sys2Proof.Machine.execHhi a b s
  | .hhm a b => Sys2Proof.Machine.execHhm a b s
  | .hhq a b c => Sys2Proof.Machine.execHhq a b c s
  | .hhn fmt a b => Sys2Proof.Machine.execHhn fmt a b s
  | .dci a b => Sys2Proof.Machine.execDci a b s
  | .dcm a b => Sys2Proof.Machine.execDcm a b s
  | .dce a b => Sys2Proof.Machine.execDce a b s
  | .dcn fmt a b => Sys2Proof.Machine.execDcn fmt a b s
  | .rngd a b c => Sys2Proof.Machine.execRngd a b c s
  | .rngv a b c => Sys2Proof.Machine.execRngv a b c s
  | .sendp b ord => Sys2Proof.Machine.execSendp b ord s
  | .spawn a b c => Sys2Proof.Machine.execSpawn a b c s
  | .kill a b => Sys2Proof.Machine.execKill a b s
  | .exit b => Sys2Proof.Machine.execExit b s
  | .link b => Sys2Proof.Machine.execLink b s
  | .unlink b => Sys2Proof.Machine.execUnlink b s
  | .mon a b => Sys2Proof.Machine.execMon a b s
  | .demon b => Sys2Proof.Machine.execDemon b s
  | .trapx a b => Sys2Proof.Machine.execTrapx a b s
  | .timer a b c => Sys2Proof.Machine.execTimer a b c s
  | .tcancel p b => Sys2Proof.Machine.execTcancel p b s
  | .watch b => Sys2Proof.Machine.execWatch b s
  | .wkick => Sys2Proof.Machine.execWkick s
  | .fork a b => Sys2Proof.Machine.execFork a b s
  | .join => Sys2Proof.Machine.execJoin s
  | .arm a b c => Sys2Proof.Machine.execArm a b c s
  | .dec a b ord => Sys2Proof.Machine.execDec a b ord s
  | .jcget a => Sys2Proof.Machine.execJcget a s
  | .jcput b => Sys2Proof.Machine.execJcput b s
  | .rstart a b => Sys2Proof.Machine.execRstart a b s
  | .supv b => Sys2Proof.Machine.execSupv b s
  | .selfq sel a b => Sys2Proof.Machine.execSelfq sel a b s
  | .rdln p b => Sys2Proof.Machine.execRdln p b s
  | .ctxnew a => Sys2Proof.Machine.execCtxnew a s
  | .ctxset p b => Sys2Proof.Machine.execCtxset p b s
  | .ctxret b => Sys2Proof.Machine.execCtxret b s
  | .ctxq byId a b => Sys2Proof.Machine.execCtxq byId a b s
  | .ctxpf p b => Sys2Proof.Machine.execCtxpf p b s
  | .commit n => Sys2Proof.Machine.execCommit n s
  | .ralloc a b c => Sys2Proof.Machine.execRalloc a b c s
  | .rfree b => Sys2Proof.Machine.execRfree b s
  | .give a b c => Sys2Proof.Machine.execGive a b c s
  | .grant a b => Sys2Proof.Machine.execGrant a b s
  | .revoke b => Sys2Proof.Machine.execRevoke b s
  | .publish withdraw b => Sys2Proof.Machine.execPublish withdraw b s
  | .cpy b => Sys2Proof.Machine.execCpy b s
  | .cpyc b ord => Sys2Proof.Machine.execCpyc b ord s
  | .deal b ord => Sys2Proof.Machine.execDeal b ord s
  | .gath b => Sys2Proof.Machine.execGath b s
  | .rst n a b c ord => Sys2Proof.Machine.execRst n a b c ord s
  | .rstc n a b c ord => Sys2Proof.Machine.execRstc n a b c ord s
  | .rld p a b c ord => Sys2Proof.Machine.execRld p a b c ord s
  | .ratom op p a b c ord => Sys2Proof.Machine.execRatom op p a b c ord s
  | .mcst b ord => Sys2Proof.Machine.execMcst b ord s
  | .pull b => Sys2Proof.Machine.execPull b s
  | .wqQuery a b => Sys2Proof.Machine.execWqQuery a b s
  | .wqOpen a b => Sys2Proof.Machine.execWqOpen a b s
  | .wqClose b => Sys2Proof.Machine.execWqClose b s
  | .fenceR sc p => Sys2Proof.Machine.execFenceR sc p s
  | .cpye m b => Sys2Proof.Machine.execCpye m b s
  | .crd a n => Sys2Proof.Machine.execCrd a n s
  | .crdFlags a => Sys2Proof.Machine.execCrdFlags a s
  | .crdEntr a => Sys2Proof.Machine.execCrdEntr a s
  | .cwr n b => Sys2Proof.Machine.execCwr n b s
  | .cwrMbox b => Sys2Proof.Machine.execCwrMbox b s
  | .cwrTrapx b => Sys2Proof.Machine.execCwrTrapx b s
  | .cwrWatch b => Sys2Proof.Machine.execCwrWatch b s
  | .cwrFlags b => Sys2Proof.Machine.execCwrFlags b s
  | .fence sc => Sys2Proof.Machine.execFence sc s
  | .tfence sc => Sys2Proof.Machine.execTfence sc s
  | .sysreq b ord => Sys2Proof.Machine.execSysreq b ord s
  | .brk n => Sys2Proof.Machine.execBrk n s
  | .nop => Sys2Proof.Machine.execNop s
  | .strd p a b => Sys2Proof.Machine.execStrd p a b s
  | .stwr p b c => Sys2Proof.Machine.execStwr p b c s
  | .sliceTableWrite n => Sys2Proof.Machine.execSliceTableWrite n s
  | .coreConfigurationWrite n => Sys2Proof.Machine.execCoreConfigurationWrite n s
  | .tagAllocatorWrite n => Sys2Proof.Machine.execTagAllocatorWrite n s
  | .pageTableRootWrite n => Sys2Proof.Machine.execPageTableRootWrite n s
  | .membershipWrite n => Sys2Proof.Machine.execMembershipWrite n s
  | .groupTableWrite n => Sys2Proof.Machine.execGroupTableWrite n s
  | .keyset p b => Sys2Proof.Machine.execKeyset p b s
  | .keydel p b => Sys2Proof.Machine.execKeydel p b s
  | .waveShootdown b c => Sys2Proof.Machine.execWaveShootdown b c s
  | .waveRetire b c => Sys2Proof.Machine.execWaveRetire b c s
  | .waveModuleLoss b c => Sys2Proof.Machine.execWaveModuleLoss b c s
  | .prmtPreempt b => Sys2Proof.Machine.execPrmtPreempt b s
  | .prmtHold b => Sys2Proof.Machine.execPrmtHold b s
  | .prmtRelease b => Sys2Proof.Machine.execPrmtRelease b s
  | .prmtArrival n => Sys2Proof.Machine.execPrmtArrival n s
  | .stewardAccessArrival n => Sys2Proof.Machine.execStewardAccessArrival n s
  | .messageArrival n => Sys2Proof.Machine.execMessageArrival n s
  | .poolArrival n => Sys2Proof.Machine.execPoolArrival n s
  | .dispatch core => Sys2Proof.Machine.execDispatch core s
  | .dispatchRecallDone core num => Sys2Proof.Machine.execDispatchRecallDone core num s
  | .resumption core => Sys2Proof.Machine.execResumption core s
  | .budgetExhausted core num => Sys2Proof.Machine.execBudgetExhausted core num s
  | .sliceEnd core => Sys2Proof.Machine.execSliceEnd core s
  | .stealRequest core num => Sys2Proof.Machine.execStealRequest core num s
  | .stealRequestArrival n => Sys2Proof.Machine.execStealRequestArrival n s
  | .stealReplyArrival n => Sys2Proof.Machine.execStealReplyArrival n s
  | .counterAdvance n => Sys2Proof.Machine.execCounterAdvance n s
  | .timerExpiry core num => Sys2Proof.Machine.execTimerExpiry core num s
  | .watchdogExpiry core num => Sys2Proof.Machine.execWatchdogExpiry core num s
  | .replyDeadlineExpiry core num => Sys2Proof.Machine.execReplyDeadlineExpiry core num s
  | .killArrival n => Sys2Proof.Machine.execKillArrival n s
  | .exitSignalArrival n => Sys2Proof.Machine.execExitSignalArrival n s
  | .overflowWalkEnd core num => Sys2Proof.Machine.execOverflowWalkEnd core num s
  | .regionsReturned core num => Sys2Proof.Machine.execRegionsReturned core num s
  | .resolutionRequest n => Sys2Proof.Machine.execResolutionRequest n s
  | .resolutionAnswer n => Sys2Proof.Machine.execResolutionAnswer n s
  | .resolveTmo core num => Sys2Proof.Machine.execResolveTmo core num s
  | .yarrowRestartStart core num => Sys2Proof.Machine.execYarrowRestartStart core num s
  | .yarrowImageLoaded core num => Sys2Proof.Machine.execYarrowImageLoaded core num s
  | .spawnRequestArrival n => Sys2Proof.Machine.execSpawnRequestArrival n s
  | .spawnAckArrival n => Sys2Proof.Machine.execSpawnAckArrival n s
  | .spawnNameArrival n => Sys2Proof.Machine.execSpawnNameArrival n s
  | .linkRequestArrival n => Sys2Proof.Machine.execLinkRequestArrival n s
  | .linkAnswerArrival n => Sys2Proof.Machine.execLinkAnswerArrival n s
  | .unlinkArrival n => Sys2Proof.Machine.execUnlinkArrival n s
  | .replicaHashArrival n => Sys2Proof.Machine.execReplicaHashArrival n s
  | .campionTimeout core num => Sys2Proof.Machine.execCampionTimeout core num s
  | .outboundRelease core num => Sys2Proof.Machine.execOutboundRelease core num s
  | .vectorOpComplete core => Sys2Proof.Machine.execVectorOpComplete core s
  | .matrixOpComplete core => Sys2Proof.Machine.execMatrixOpComplete core s
  | .summaryOpComplete core => Sys2Proof.Machine.execSummaryOpComplete core s
  | .copyComplete core id => Sys2Proof.Machine.execCopyComplete core id s
  | .resultArrival core num => Sys2Proof.Machine.execResultArrival core num s
  | .remoteOpArrival n => Sys2Proof.Machine.execRemoteOpArrival n s
  | .remoteResponseArrival n => Sys2Proof.Machine.execRemoteResponseArrival n s
  | .remoteTimeout core num => Sys2Proof.Machine.execRemoteTimeout core num s
  | .heldLandingRelease core num => Sys2Proof.Machine.execHeldLandingRelease core num s
  | .transferComplete n => Sys2Proof.Machine.execTransferComplete n s
  | .combineFlush num => Sys2Proof.Machine.execCombineFlush num s
  | .writeBackComplete core num => Sys2Proof.Machine.execWriteBackComplete core num s
  | .prefetchFill core num => Sys2Proof.Machine.execPrefetchFill core num s
  | .retireWaveArrival wave place => Sys2Proof.Machine.execRetireWaveArrival wave place s
  | .retireWaveComplete wave => Sys2Proof.Machine.execRetireWaveComplete wave s
  | .shootdownArrival wave place => Sys2Proof.Machine.execShootdownArrival wave place s
  | .shootdownComplete wave => Sys2Proof.Machine.execShootdownComplete wave s
  | .moduleLossWaveArrival wave place => Sys2Proof.Machine.execModuleLossWaveArrival wave place s
  | .waveCompleteMessage wave => Sys2Proof.Machine.execWaveCompleteMessage wave s
  | .coreSleep core => Sys2Proof.Machine.execCoreSleep core s
  | .coreWake core => Sys2Proof.Machine.execCoreWake core s
  | .wakeComplete core => Sys2Proof.Machine.execWakeComplete core s
  | .tagRefill core => Sys2Proof.Machine.execTagRefill core s
  | .wakingQuery core id => Sys2Proof.Machine.execWakingQuery core id s
  | .wqQueryArrival n => Sys2Proof.Machine.execWqQueryArrival n s
  | .wqCloseArrival n => Sys2Proof.Machine.execWqCloseArrival n s
  | .multicastArrival n => Sys2Proof.Machine.execMulticastArrival n s
  | .mergedAckArrival n => Sys2Proof.Machine.execMergedAckArrival n s
  | .pullReadArrival n => Sys2Proof.Machine.execPullReadArrival n s
  | .reducedLineArrival n => Sys2Proof.Machine.execReducedLineArrival n s
  | .groupInstallAck entry => Sys2Proof.Machine.execGroupInstallAck entry s
  | .groupInstallTimeout entry => Sys2Proof.Machine.execGroupInstallTimeout entry s
  | .flitReceive flit => Sys2Proof.Machine.execFlitReceive flit s
  | .flitCrcFail port => Sys2Proof.Machine.execFlitCrcFail port s
  | .portDown port => Sys2Proof.Machine.execPortDown port s
  | .maskHoldExpiry num => Sys2Proof.Machine.execMaskHoldExpiry num s
  | .laneRotation port => Sys2Proof.Machine.execLaneRotation port s
  | .laneRetire port lane margin => Sys2Proof.Machine.execLaneRetire port lane margin s
  | .laneDegrade port => Sys2Proof.Machine.execLaneDegrade port s
  | .heartbeatSend => Sys2Proof.Machine.execHeartbeatSend s
  | .heartbeatArrival module => Sys2Proof.Machine.execHeartbeatArrival module s
  | .suspect module => Sys2Proof.Machine.execSuspect module s
  | .probeTimeout module => Sys2Proof.Machine.execProbeTimeout module s
  | .selfLost tenant => Sys2Proof.Machine.execSelfLost tenant s
  | .timeSync podTime => Sys2Proof.Machine.execTimeSync podTime s
  | .inputLow milliVolts micros => Sys2Proof.Machine.execInputLow milliVolts micros s
  | .inputUndervoltage milliVolts micros => Sys2Proof.Machine.execInputUndervoltage milliVolts micros s
  | .inputOvervoltage milliVolts micros => Sys2Proof.Machine.execInputOvervoltage milliVolts micros s
  | .inputRecovery milliVolts micros => Sys2Proof.Machine.execInputRecovery milliVolts micros s
  | .inputLimit milliWatts => Sys2Proof.Machine.execInputLimit milliWatts s
  | .dvfsChangeDone die => Sys2Proof.Machine.execDvfsChangeDone die s
  | .railSample rail milliVolts tenMilliAmps deciWatts => Sys2Proof.Machine.execRailSample rail milliVolts tenMilliAmps deciWatts s
  | .lidSample die region temp => Sys2Proof.Machine.execLidSample die region temp s
  | .clampRelease die => Sys2Proof.Machine.execClampRelease die s
  | .energyApportion die microJoules => Sys2Proof.Machine.execEnergyApportion die microJoules s
  | .moduleReset => Sys2Proof.Machine.execModuleReset s
  | .sendApertureWrite req off bytes => Sys2Proof.Machine.execSendApertureWrite req off bytes s
  | .bar2Write fn off bytes sealed => Sys2Proof.Machine.execBar2Write fn off bytes sealed s
  | .bar2Read fn off len sealed => Sys2Proof.Machine.execBar2Read fn off len sealed s
  | .fstatClear req value => Sys2Proof.Machine.execFstatClear req value s
  | .hqheadWrite req value => Sys2Proof.Machine.execHqheadWrite req value s
  | .hostRegisterWrite req off value => Sys2Proof.Machine.execHostRegisterWrite req off value s
  | .hostQueueDelivery fn => Sys2Proof.Machine.execHostQueueDelivery fn s
  | .functionLevelReset fn => Sys2Proof.Machine.execFunctionLevelReset fn s
  | .tenantCreate n => Sys2Proof.Machine.execTenantCreate n s
  | .tenantDestroy n => Sys2Proof.Machine.execTenantDestroy n s
  | .map n => Sys2Proof.Machine.execMap n s
  | .unmap n => Sys2Proof.Machine.execUnmap n s
  | .startRoot n => Sys2Proof.Machine.execStartRoot n s
  | .query n => Sys2Proof.Machine.execQuery n s
  | .mcastSet n => Sys2Proof.Machine.execMcastSet n s
  | .mcastDel n => Sys2Proof.Machine.execMcastDel n s
  | .groupCreate n => Sys2Proof.Machine.execGroupCreate n s
  | .groupRead n => Sys2Proof.Machine.execGroupRead n s
  | .groupDelete n => Sys2Proof.Machine.execGroupDelete n s
  | .serviceBadRequest n => Sys2Proof.Machine.execServiceBadRequest n s
  | .membershipLossUpdate module => Sys2Proof.Machine.execMembershipLossUpdate module s
  | .getVersion fn => Sys2Proof.Machine.execGetVersion fn s
  | .getCapabilities fn => Sys2Proof.Machine.execGetCapabilities fn s
  | .negotiateAlgorithms fn algs => Sys2Proof.Machine.execNegotiateAlgorithms fn algs s
  | .getDigests fn => Sys2Proof.Machine.execGetDigests fn s
  | .getCertificate fn => Sys2Proof.Machine.execGetCertificate fn s
  | .challenge fn nonce => Sys2Proof.Machine.execChallenge fn nonce s
  | .getMeasurements fn index nonce => Sys2Proof.Machine.execGetMeasurements fn index nonce s
  | .keyExchange fn nonce => Sys2Proof.Machine.execKeyExchange fn nonce s
  | .finish fn session => Sys2Proof.Machine.execFinish fn session s
  | .endSession fn session => Sys2Proof.Machine.execEndSession fn session s
  | .mctpControl cmd => Sys2Proof.Machine.execMctpControl cmd s
  | .pldmSensorRead id => Sys2Proof.Machine.execPldmSensorRead id s
  | .capWrite die watts => Sys2Proof.Machine.execCapWrite die watts s
  | .tsatWrite value => Sys2Proof.Machine.execTsatWrite value s
  | .feedWrite value => Sys2Proof.Machine.execFeedWrite value s
  | .firmwareUpdate image => Sys2Proof.Machine.execFirmwareUpdate image s
  | .linkBringUp port isSwitch reaches => Sys2Proof.Machine.execLinkBringUp port isSwitch reaches s
  | .tdispRequest fn req => Sys2Proof.Machine.execTdispRequest fn req s
  | .ideStreamSetup fn selective enable => Sys2Proof.Machine.execIdeStreamSetup fn selective enable s
  | .vfEnable count => Sys2Proof.Machine.execVfEnable count s
  | .fusedSvnAdvance svn => Sys2Proof.Machine.execFusedSvnAdvance svn s
  | .dieCounterSelect die counter source => Sys2Proof.Machine.execDieCounterSelect die counter source s
  | .routerCombining core comb => Sys2Proof.Machine.execRouterCombining core comb s

end Sys2Proof.Machine
end

