-- ==== Sys2Proof/Machine/Clock.lean ====
section
/-! DEFINITION. The passing of time: CYCLE and TIME at their reference rates, the cycles of each die at its operating point
(01 R2, 28 R443, R444), budgets (02 R60), the counters of cycles (29 R453, 28 R450), the update of sensors (R459), and errors of
memory words (04 R90, R97). -/

namespace Sys2Proof.Machine

open Sys2Proof

/-- CYCLE counts 1.2 GHz cycles, TIME nanoseconds (R2, R444). -/
def Module.pass (m : Module) (n : Nat) : Module :=
  { m with cycle := (m.cycle + n) % 2 ^ 64, timeNs := m.timeNs + (5 * n + m.timeFrac) / 6, timeFrac := (5 * n + m.timeFrac) % 6 }

/-- Cycles of a die in `n` reference cycles (R443). -/
def Die.cyclesIn (d : Die) (n : Nat) : Nat := (n * d.clock + d.cycleRest) / 8
def Die.pass (d : Die) (n : Nat) : Die :=
  { d with cycles := d.cycles + d.cyclesIn n, cycleRest := (n * d.clock + d.cycleRest) % 8 }

/-- Every compute die counts its cycles. -/
def State.passDies (s : State) (n : Nat) : State := (List.range 16).foldl (fun s d => s.modDie d fun x => x.pass n) s

/-- A number of a table rises. -/
def Tab.bump (t : Tab Nat) (k n : Nat) : Tab Nat := Tab.put t k ((Tab.get? t k).getD 0 + n)

/-- The engines of a core at work on an operation (R450). -/
def Core.engines (k : Core) : Nat := ([k.vec, k.matq, k.sumq, k.teasel].filter fun l => l.any fun o => o.begun && !o.sent).length

/-- What a core keeps of time: used budgets, busy cycles by tenant with 4,096 for idle ones, cycles of engines, and since when
it finds no candidate (in its die's cycles) and is idle (R2, R57, R60, R134, R450). -/
def Core.pass (k : Core) (n : Nat) (running : List Tenant) (none_ : Bool) (cycle now : Nat) : Core :=
  let used (h : Handler) : Handler := if h.status.slot?.isSome then { h with used := h.used + n } else h
  let idle := k.idle
  { k with
    handlers := Tab.mapVals k.handlers fun _ h => used h
    busyCycles := if running.isEmpty then Tab.bump k.busyCycles 4096 n else running.foldl (fun t x => Tab.bump t x.toNat n) k.busyCycles
    engineCycles := k.engineCycles + k.engines * n
    noCandSince := if none_ then some (k.noCandSince.getD cycle) else none
    idleSince := if idle then some (k.idleSince.getD now) else none }

/-- The first operation of an engine that has not been sent begins where it may (R69, R351). -/
def beginFirst (l : List EngOp) (may : EngOp → Bool) : List EngOp :=
  match l.find? fun o => !o.sent with
  | some o => if may o then l.map fun x => if x.id = o.id then { x with begun := true } else x else l
  | none => l

/-- Each engine takes its first step on the operation at its head by the end of a cycle, unless something orders it behind
others (R69). (DESIGN CHOICE, log 19.) -/
def State.beginOps (s : State) (core : Nat) : State :=
  let k := s.core core
  s.modCore core fun x => { x with
    vec := beginFirst k.vec (s.engineMay core), matq := beginFirst k.matq (s.engineMay core), sumq := beginFirst k.sumq (s.engineMay core)
    teasel := beginFirst k.teasel fun o => s.copyMay core (k.teasel.takeWhile fun x => decide (x.id ≠ o.id)) o }

/-- At the end of a cycle: what Campion holds for actors that have died in it goes unsent (R69, R87), as do the parts of
operations whose other flits have not come within the time that their issuer waits (R113, R194). -/
def Core.drop (k : Core) (now : Nat) : Core :=
  let alive (e : Nat) : Bool := decide ((k.actor e).state = .live)
  { k with campion := k.campion.filter fun c => c.ok || alive c.entry
           hashes := k.hashes.filter fun h => alive h.1
           openOps := k.openOps.filter fun y => decide (now < y.since + waitLimit) }

/-- What waits at a core only for time to pass or for room goes on: messages that Campion has found equal, and fences (R87,
R310). -/
def State.flow (s : State) (core : Nat) : State :=
  let s := s.campionFlow core
  if (s.core core).fenceWaits.isEmpty then s else s.settleFences core

/-- `n` reference cycles pass at a core that does not sleep; the dispatcher tries to map the contexts of waiting messages
(R51). (DEDUCED, log 25.) -/
def State.passCore (s : State) (core n : Nat) : State :=
  let k := s.core core
  if k.asleep then s.modCore core Core.settleEvents
  else
    let c := (s.die (dieOf core)).cyclesIn n
    let tenantsOf (l : Tab Handler) : List Tenant := l.map fun h => (k.actor h.2.entry).tenant
    let running := tenantsOf (k.handlers.filter fun h => h.2.status.slot?.isSome)
    let stalled := tenantsOf (k.handlers.filter fun h => match h.2.status with | .stalled _ => true | _ => false)
    let none_ := (s.choice core).isNone
    let s := running.eraseDups.foldl (fun s t => s.countN core t 0x001 c) s
    let s := stalled.foldl (fun s t => s.countN core t 0x005 c) s
    let s := s.modCore core fun k => (k.pass c running none_ (s.now core) s.mod.timeNs).drop s.mod.timeNs
    (((s.flow core).beginOps core).noteStalls core).modCore core Core.settleEvents

/-! ### Errors of memory words (R90, R97, R457) -/

/-- The core that an on-package word's errors count at: the owner of its TCM, the lowest core of its cluster or of its die.
(DESIGN CHOICE, log 44.) -/
def coreOfHome (home : Nat) : Nat :=
  if home < 0x10000000000 then home / 0x100000
  else if home < 0x20000000000 then
    let c := (home - 0x10000000000) / 0x100000
    let d := c / 256
    if 4096 ≤ c then 65536 + 2 * (c - 4096)
    else (d / 4 * 64 + c % 256 / 16 * 4) * 256 + d % 4 * 64 + c % 16 * 4
  else
    let d := (home - 0x20000000000) / 0x4000000
    d / 4 * 64 * 256 + d % 4 * 64

/-- Kind 6 of R457: more than 100 corrected errors of a die in one hour. -/
def State.noteCorrected (s : State) (die : Nat) : State :=
  let now := s.mod.timeNs
  let s := s.modDie die fun d => { d with corrected := (d.corrected.filter fun t => decide (now < t + 3600000000000)) ++ [now] }
  let n := (s.die die).corrected.length
  if 100 < n then s.prefail 6 die 0xFF n else s

/-- A word shows an error: one that ECC corrects changes no value and is counted (R90); one that it cannot correct reads as zero
from now on (R97), and ends a copy that meets it (R109). Errors of HBM count nowhere. (DESIGN CHOICE, log 44.) -/
def State.softError (s : State) (home : Nat) (lost : Bool) : State :=
  let core := coreOfHome home
  let bad : State := { s with badWords := home / 8 :: s.badWords }
  if hbmBase ≤ home then (if lost then bad else s)
  else if lost then bad.count core 0#12 0x051
  else (s.count core 0#12 0x050).noteCorrected (dieOf core)

/-- At the end of the cycle the lines of such words lose their line-valid bits (R97). -/
def State.dropBadLines (s : State) : State :=
  { s with lineValid := s.badWords.foldl (fun t w => if w * 8 < hbmBase then Tab.del t (w / 8) else t) s.lineValid, badWords := [] }

/-! ### Sensors (R459) -/

/-- Once per second every sensor is updated. -/
def State.updateSensors (s : State) (before : Nat) : State :=
  if before / 1000000000 = s.mod.timeNs / 1000000000 then s
  else
    let all : Tab (List Reading) := (List.range 0x2000).filterMap fun i => (s.sensor i).map fun v => (i, v)
    s.modMod fun m => { m with sensed := some all }

/-- `n` reference cycles pass; a module held in reset only keeps time (R441). What the host gateway has accepted leaves
(R398). (DESIGN CHOICE, log 27; DEDUCED, log 43.) -/
def State.tick (s : State) (n : Nat) : State :=
  if s.mod.heldReset then s.modMod fun m => m.pass n
  else
    let s := s.hostFns.foldl (fun s f => s.sendHost f.1) s
    let s := s.cores.foldl (fun s k => s.passCore k.1 n) s
    ((s.dropBadLines.passDies n).modMod fun m => m.pass n).updateSensors s.mod.timeNs

end Sys2Proof.Machine
end

