-- ==== Sys2Proof/WellFormed.lean ====
section
/-! DEFINITION. Which instructions the encodings admit: orderings a form admits (R189), immediates its prefixes reach
(R210), register numbers that exist (R24), and values the tables reserve (R223, R291, R352). -/

namespace Sys2Proof

open Machine

/-- Control-register numbers that CRD may carry: those of R24, and any from 0x40 (checked as privileged when run). -/
def crdAssigned (n : BitVec 8) : Bool :=
  decide (n.toNat ≤ 0x14) || (decide (0x20 ≤ n.toNat) && decide (n.toNat ≤ 0x23)) ||
    (decide (0x28 ≤ n.toNat) && decide (n.toNat ≤ 0x2B)) || decide (0x40 ≤ n.toNat)

/-- Control-register numbers that CWR may carry: the RW ones of R24, and any from 0x40. -/
def cwrAssigned (n : BitVec 8) : Bool :=
  (decide (0x06 ≤ n.toNat) && decide (n.toNat ≤ 0x0D)) || (decide (0x10 ≤ n.toNat) && decide (n.toNat ≤ 0x13)) ||
    (decide (0x20 ≤ n.toNat) && decide (n.toNat ≤ 0x23)) || (decide (0x28 ≤ n.toNat) && decide (n.toNat ≤ 0x2B)) ||
    decide (0x40 ≤ n.toNat)

/-- The immediate lies in the signed range of `n` bits: what PFX.I words and the own field reach, of four prefix words at most
(R207, R210). -/
def immReach (n : Nat) (imm : Word) : Bool := decide (-(2 ^ (n - 1) : Int) ≤ imm.toInt) && decide (imm.toInt < 2 ^ (n - 1))

/-- An offset of PFX.I words alone: of `n` prefix words that it may take, one is a PFX.R where a register or an ordering
needs it (R207, R209, R210). -/
def offReach (n : Nat) (c : Reg) (o : MemOrd) (off : Word) : Bool :=
  immReach (10 * (if c = 0#5 ∧ o = .relaxed then n else n - 1)) off

/-- Orderings of loads and remote loads (R189). -/
def MemOrd.loads : MemOrd → Bool
  | .relaxed => true
  | .acquire _ => true
  | .release _ => false
  | .acqRel _ => false

/-- Orderings of stores, messages and copies (R189). -/
def MemOrd.stores : MemOrd → Bool
  | .relaxed => true
  | .acquire _ => false
  | .release _ => true
  | .acqRel _ => false

/-- The check of one instruction. An event is well formed when its numbers lie in the ranges of the tables they index. -/
def Instr.wf : Instr → Bool
  | .addi _ i | .andi _ i | .shli _ i | .shri _ i | .srai _ i | .li _ i | .ori _ i | .xori _ i => immReach 45 i
  | .ldB _ _ off o | .ldH _ _ off o | .ldW _ _ off o | .ldD _ _ off o => offReach 4 0#5 o off && o.loads
  | .stB _ _ off o | .stH _ _ off o | .stW _ _ off o | .stD _ _ off o => offReach 4 0#5 o off && o.stores
  | .ldx _ _ _ _ off o => immReach 30 off && o.loads
  | .stx _ _ _ _ off o => immReach 30 off && o.stores
  | .aadd _ _ c off o | .aswp _ _ c off o | .acas _ _ c off o => offReach 4 c o off
  | .br off | .call off => immReach 50 off
  | .brp _ off | .brpF _ off => immReach 45 off
  | .send _ _ _ o | .reply _ _ o | .sendp _ o | .sysreq _ o | .dec _ _ o | .cpyc _ o | .deal _ o | .mcst _ o => o.stores
  | .rst _ _ _ _ o | .rstc _ _ _ _ o => o.stores
  | .rld _ _ _ _ o => o.loads
  | .dld _ _ off => immReach 30 off
  | .dldBase _ _ off c => offReach 3 c .relaxed off
  | .selfq k _ b => k == 6#3 || b == 0#5
  | .brk n => decide (n.toNat < 0x3C)
  | .hhn f _ _ | .dcn f _ _ => decide (f.toNat < 0x3C)
  | .crd _ n => crdAssigned n && n != 0x13#8 && n != 0x41#8
  | .cwr n _ => cwrAssigned n && !(decide (0x10 ≤ n.toNat) && decide (n.toNat ≤ 0x13))
  | .railSample rail _ _ _ => decide (rail < 256)
  | .lidSample die region _ => decide (die < 16) && decide (region < 8)
  | .dvfsChangeDone die | .clampRelease die => decide (die < 16)
  | .energyApportion die _ | .capWrite die _ => decide (die < 16)
  | .dieCounterSelect die n _ => decide (die < 20) && decide (n < 16)
  | .flitCrcFail p | .portDown p | .laneDegrade p => decide (p < 24)
  | .laneRotation p => decide (p < 48)
  | .laneRetire p l _ => decide (p < 48) && decide (l < 9)
  | .linkBringUp p _ _ => decide (p < 24)
  | .flitReceive f | .heartbeatArrival f | .groupInstallAck f => decide (f.port < 24)
  | .suspect m | .probeTimeout m | .membershipLossUpdate m => decide (m < 1024)
  | .vfEnable n => decide (n ≤ 64)
  | .sendApertureWrite q _ _ => decide (q.fn ≤ 64)
  | .bar2Write fn _ _ _ => decide (fn ≤ 64)
  | .bar2Read fn _ _ _ => decide (fn ≤ 64)
  | .fstatClear q _ | .hqheadWrite q _ => decide (q.fn ≤ 64)
  | .hostRegisterWrite q _ _ => decide (q.fn ≤ 64)
  | .hostQueueDelivery fn | .functionLevelReset fn => decide (fn ≤ 64)
  | _ => true

end Sys2Proof
end

