-- ==== Sys2Proof/Decode.lean ====
section
/-! DEFINITION. From instruction words to instructions and back (09 R206-R215, 10 R223-R229, and the encoding table of
each instruction chapter). The decoder is total on any words: it answers an instruction with the number of words of its
group, the PREFIX fault of R208, or that the words given end inside the group. Every encoding that the tables leave out,
and every value they reserve, decodes to UNASSIGNED_ENCODING (R228). -/

namespace Sys2Proof

open Machine

/-- Field major of an instruction word, bits [15:10] (R206). -/
def fMajor (w : Half) : BitVec 6 := w.extractLsb' 10 6
/-- Field A, bits [9:5] (R206). -/
def fA (w : Half) : BitVec 5 := w.extractLsb' 5 5
/-- Field B, bits [4:0] (R206). -/
def fB (w : Half) : BitVec 5 := w.extractLsb' 0 5
/-- The ten bits below the major: a PFX.I payload, or PAGE and SUB of a PFX.P (R206). -/
def fLow (w : Half) : BitVec 10 := w.extractLsb' 0 10
/-- An instruction word from its fields. -/
def mkWord (m : BitVec 6) (a b : BitVec 5) : Half := m ++ (a ++ b)
/-- A prefix word from its major and ten bits. -/
def mkPfx (m : BitVec 6) (p : BitVec 10) : Half := m ++ p

/-- The prefixes of a group (R206, R208): PFX.I payloads in order, PFX.R (field C and MOD), PFX.P (PAGE and SUB). -/
structure Group where
  imms : List (BitVec 10) := []
  r : Option (BitVec 5 × BitVec 5) := none
  p : Option (BitVec 2 × BitVec 8) := none
  deriving DecidableEq, Repr

/-- What the words of a group come to. -/
inductive Scan where
  | word (g : Group) (w : Half) (len : Nat)
  | prefixFault
  | more
  deriving DecidableEq, Repr

/-- Collect a group's prefixes up to its instruction word, with the PREFIX checks of R208; `n` counts the prefixes so far. -/
def scanGroup : List Half → Nat → Group → Scan
  | [], _, _ => .more
  | w :: t, n, g =>
    if fMajor w = 0x3C#6 then
      if n = 4 then .prefixFault else scanGroup t (n + 1) { g with imms := g.imms ++ [fLow w] }
    else if fMajor w = 0x3D#6 then
      if n = 4 ∨ g.r.isSome then .prefixFault else scanGroup t (n + 1) { g with r := some (fA w, fB w) }
    else if fMajor w = 0x3E#6 then
      if n = 4 ∨ g.p.isSome then .prefixFault
      else scanGroup t (n + 1) { g with p := some ((fLow w).extractLsb' 8 2, (fLow w).extractLsb' 0 8) }
    else .word g w (n + 1)

/-- `sext(v, n)` of R209 on the low `n` bits of a number. -/
def sextNat (v n : Nat) : Word :=
  if n = 0 then 0#64
  else if (v % 2 ^ n).testBit (n - 1) then BitVec.ofNat 64 (v % 2 ^ n + (2 ^ 64 - 2 ^ n))
  else BitVec.ofNat 64 (v % 2 ^ n)

/-- The payloads of the PFX.I words read as one number, the first most significant (R210). -/
def payloadBits (imms : List (BitVec 10)) : Nat := imms.foldl (fun acc p => acc * 1024 + p.toNat) 0

/-- The immediate of a group from its payloads and the form's own field `f` of width `w` (R210). -/
def formImm (signed : Bool) (imms : List (BitVec 10)) (w f : Nat) : Word :=
  if imms.isEmpty then (if signed then sextNat f w else BitVec.ofNat 64 (f % 2 ^ w))
  else sextNat (payloadBits imms * 2 ^ w + f) (10 * imms.length + w)

/-- Class S of R211: field C and the operation width; a group that carries PFX.I, or a reserved MOD, is none. -/
def modS (g : Group) : Option (Reg × OpWidth) :=
  if g.imms ≠ [] then none else
  match g.r with
  | none => some (0#5, .w64)
  | some (c, m) =>
    if m = 0#5 then some (c, .w64) else if m = 1#5 then some (c, .w32)
    else if m = 2#5 then some (c, .w16) else if m = 3#5 then some (c, .w8) else none

/-- Class N of R211: field C, with MOD 0. -/
def modN (g : Group) : Option Reg :=
  match g.r with
  | none => some 0#5
  | some (c, m) => if m = 0#5 then some c else none

/-- The scope code of R189. -/
def scopeOf (b : BitVec 2) : Scope :=
  if b = 0#2 then .cl else if b = 1#2 then .di else if b = 2#2 then .mo else .pd

/-- Class M of R211: field C, the ordering with its scope, and X; a relaxed ordering with a scope is none (R189). -/
def modM (g : Group) : Option (Reg × MemOrd × Bool) :=
  match g.r with
  | none => some (0#5, .relaxed, false)
  | some (c, m) =>
    let x : Bool := m.getLsbD 0
    let sc := m.extractLsb' 1 2
    let o := m.extractLsb' 3 2
    if o = 0#2 then (if sc = 0#2 then some (c, .relaxed, x) else none)
    else if o = 1#2 then some (c, .acquire (scopeOf sc), x)
    else if o = 2#2 then some (c, .release (scopeOf sc), x)
    else some (c, .acqRel (scopeOf sc), x)

/-- Orderings 0 and 1 (loads, remote loads), 0 and 2 (stores, sends, copies), 0 to 3 (atomics): R189. -/
def MemOrd.forLoad : MemOrd → Bool
  | .relaxed => true
  | .acquire _ => true
  | _ => false
def MemOrd.forStore : MemOrd → Bool
  | .relaxed => true
  | .release _ => true
  | _ => false

/-- No PFX.I and no PFX.R stand in the group. -/
def Group.bare (g : Group) : Bool := g.imms.isEmpty && g.r.isNone
/-- No PFX.I stands in the group. -/
def Group.noImm (g : Group) : Bool := g.imms.isEmpty

/-- An instruction where a check holds. -/
def onlyIf (b : Bool) (i : Instr) : Option Instr := if b then some i else none

/-- Integer register forms with two sources (R231). -/
def decInt (g : Group) (k : Reg → OpWidth → Instr) : Option Instr := (modS g).map fun x => k x.1 x.2
/-- Counting forms: field C must be 0 (R231). -/
def decCount (g : Group) (k : OpWidth → Instr) : Option Instr :=
  match modS g with
  | some (c, w) => onlyIf (c == 0#5) (k w)
  | none => none
/-- Immediate forms of R234: B is the own field, w = 5. -/
def decImm (signed : Bool) (g : Group) (b : BitVec 5) (k : Word → Instr) : Option Instr :=
  onlyIf g.r.isNone (k (formImm signed g.imms 5 b.toNat))
/-- Forms of class N that admit no PFX.I. -/
def decN (g : Group) (k : Reg → Option Instr) : Option Instr :=
  if g.noImm then (modN g).bind k else none
/-- Forms that admit neither PFX.I nor PFX.R. -/
def decBare (g : Group) (ok : Bool) (i : Instr) : Option Instr := onlyIf (g.bare && ok) i
/-- Bit-field forms (R238): the immediate must lie in [11:0]. -/
def decField (g : Group) (k : BitVec 6 → BitVec 6 → Instr) : Option Instr :=
  let imm := formImm false g.imms 0 0
  onlyIf (g.r.isNone && decide (imm.toNat < 4096)) (k (imm.extractLsb' 0 6) (imm.extractLsb' 6 6))
/-- Loads and stores (R249): X = 1 selects the context form. -/
def decMem (store : Bool) (g : Group) (plain : Word → MemOrd → Instr) (ctx : Reg → Word → MemOrd → Instr) : Option Instr :=
  match modM g with
  | some (c, o, x) =>
    let off := formImm true g.imms 0 0
    if (if store then o.forStore else o.forLoad) then (if x then some (ctx c off o) else onlyIf (c == 0#5) (plain off o)) else none
  | none => none
/-- Local atomics (R249): every ordering, X = 0. -/
def decAtom (g : Group) (k : Reg → Word → MemOrd → Instr) : Option Instr :=
  match modM g with
  | some (c, o, x) => onlyIf (!x) (k c (formImm true g.imms 0 0) o)
  | none => none
/-- SEND and REPLY (R267). -/
def decSend (g : Group) (k : Option Reg → MemOrd → Instr) : Option Instr :=
  if g.noImm then
    match modM g with
    | some (c, o, x) => if o.forStore then (if x then some (k (some c) o) else onlyIf (c == 0#5) (k none o)) else none
    | none => none
  else none
/-- Class M forms without a context form and without a use of C (R211): ordering 0 or 2. -/
def decRel (g : Group) (k : MemOrd → Instr) : Option Instr :=
  if g.noImm then
    match modM g with
    | some (c, o, x) => onlyIf (o.forStore && !x && (c == 0#5)) (k o)
    | none => none
  else none
/-- Class M forms that use C as an operand (R211, R291). -/
def decRemote (g : Group) (ok : MemOrd → Bool) (k : Reg → MemOrd → Instr) : Option Instr :=
  if g.noImm then
    match modM g with
    | some (c, o, x) => onlyIf (ok o && !x) (k c o)
    | none => none
  else none

/-- The low three, four and two bits of a field; the bits above them must be 0 (R223, R224). -/
def lo3 (f : BitVec 5) : BitVec 3 := f.extractLsb' 0 3
def lo4 (f : BitVec 5) : BitVec 4 := f.extractLsb' 0 4
def isP (f : BitVec 5) : Bool := f.extractLsb' 3 2 == 0#2
def isS (f : BitVec 5) : Bool := !f.getLsbD 4
def d3 (d : BitVec 6) : BitVec 3 := d.extractLsb' 0 3
def d2 (d : BitVec 6) : BitVec 2 := d.extractLsb' 0 2
def dHigh0 (d : BitVec 6) (n : Nat) : Bool := decide (d.toNat < 2 ^ n)

def cmpCond (b : BitVec 2) : CmpCond := if b = 0#2 then .eq else if b = 1#2 then .ne else if b = 2#2 then .lt else .ge
def plogOp (b : BitVec 2) : PlogOp := if b = 0#2 then .and else if b = 1#2 then .or else if b = 2#2 then .xor else .andn
def fCond (b : BitVec 2) : FCond := if b = 0#2 then .eq else if b = 1#2 then .lt else if b = 2#2 then .le else .un
def accKind? (b : BitVec 2) : Option AccKind :=
  if b = 0#2 then some .f32 else if b = 1#2 then some .i32 else if b = 2#2 then some .f64 else none
def vCond? (b : BitVec 3) : Option VCond :=
  if b = 0#3 then some .eq else if b = 1#3 then some .ne else if b = 2#3 then some .lt
  else if b = 3#3 then some .le else if b = 4#3 then some .un else none

/-- Page 0 (R223). -/
def decodePage0 (g : Group) (w : Half) : Option Instr :=
  let a := fA w
  let b := fB w
  match (fMajor w).toNat with
  | 0x01 => decInt g fun c ow => .add a b c ow
  | 0x02 => decInt g fun c ow => .sub a b c ow
  | 0x03 => decInt g fun c ow => .and a b c ow
  | 0x04 => decInt g fun c ow => .or a b c ow
  | 0x05 => decInt g fun c ow => .xor a b c ow
  | 0x06 => decInt g fun c ow => .shl a b c ow
  | 0x07 => decInt g fun c ow => .shr a b c ow
  | 0x08 => decInt g fun c ow => .sra a b c ow
  | 0x09 => decInt g fun c ow => .mul a b c ow
  | 0x0A => decInt g fun c ow => .mulh a b c ow
  | 0x0B => decInt g fun c ow => .mulhu a b c ow
  | 0x0C => decInt g fun c ow => .div a b c ow
  | 0x0D => decInt g fun c ow => .divu a b c ow
  | 0x0E => decInt g fun c ow => .rem a b c ow
  | 0x0F => decInt g fun c ow => .remu a b c ow
  | 0x10 => decImm true g b fun i => .addi a i
  | 0x11 => decImm false g b fun i => .andi a i
  | 0x12 => decImm false g b fun i => .shli a i
  | 0x13 => decImm false g b fun i => .shri a i
  | 0x14 => decImm false g b fun i => .srai a i
  | 0x15 => decImm true g b fun i => .li a i
  | 0x16 => decN g fun c => some (.cmp (cmpCond (a.extractLsb' 3 2)) (lo3 a) b c)
  | 0x17 => decN g fun c => if a.extractLsb' 3 2 = 0#2 then some (.cmpu .ltu (lo3 a) b c) else if a.extractLsb' 3 2 = 1#2 then some (.cmpu .geu (lo3 a) b c) else none
  | 0x18 => decN g fun c => onlyIf (isP c) (.sel a b (lo3 c))
  | 0x19 => decN g fun c => onlyIf (isP c && isP b) (.plog (plogOp (a.extractLsb' 3 2)) (lo3 a) (lo3 b) (lo3 c))
  | 0x1A => decField g fun pos len => .extu a b pos len
  | 0x1B => decField g fun pos len => .exts a b pos len
  | 0x1C => decField g fun pos len => .ins a b pos len
  | 0x1D => decCount g fun ow => .clz a b ow
  | 0x1E => decCount g fun ow => .ctz a b ow
  | 0x1F => decCount g fun ow => .popc a b ow
  | 0x20 => decMem false g (fun off o => .ldB a b off o) (fun c off o => .ldx .b a b c off o)
  | 0x21 => decMem false g (fun off o => .ldH a b off o) (fun c off o => .ldx .h a b c off o)
  | 0x22 => decMem false g (fun off o => .ldW a b off o) (fun c off o => .ldx .w a b c off o)
  | 0x23 => decMem false g (fun off o => .ldD a b off o) (fun c off o => .ldx .d a b c off o)
  | 0x24 => decMem true g (fun off o => .stB a b off o) (fun c off o => .stx .b a b c off o)
  | 0x25 => decMem true g (fun off o => .stH a b off o) (fun c off o => .stx .h a b c off o)
  | 0x26 => decMem true g (fun off o => .stW a b off o) (fun c off o => .stx .w a b c off o)
  | 0x27 => decMem true g (fun off o => .stD a b off o) (fun c off o => .stx .d a b c off o)
  | 0x28 => decAtom g fun c off o => .aadd a b c off o
  | 0x29 => decAtom g fun c off o => .aswp a b c off o
  | 0x2A => decAtom g fun c off o => .acas a b c off o
  | 0x2B => onlyIf g.r.isNone (.br (formImm true g.imms 10 (fLow w).toNat))
  | 0x2C => onlyIf g.r.isNone (.call (formImm true g.imms 10 (fLow w).toNat))
  | 0x2D => onlyIf (g.r.isNone && isS a) (if a.getLsbD 3 then .brpF (lo3 a) (formImm true g.imms 5 b.toNat) else .brp (lo3 a) (formImm true g.imms 5 b.toNat))
  | 0x2E => decBare g (a == 0#5) (.jr b)
  | 0x2F => decBare g (a == 0#5) (.callr b)
  | 0x30 => decSend g fun x o => .send a b x o
  | 0x31 => if a = 0#5 then decSend g fun x o => .reply b x o else none
  | 0x32 => decBare g (a == 0#5 && b == 0#5) .done
  | 0x33 => decN g fun c => some (.fadd a b c)
  | 0x34 => decN g fun c => some (.fsub a b c)
  | 0x35 => decN g fun c => some (.fmul a b c)
  | 0x36 => decN g fun c => some (.fma a b c)
  | 0x37 => decN g fun c => some (.fcmp (fCond (a.extractLsb' 3 2)) (lo3 a) b c)
  | 0x38 => decImm false g b fun i => .ori a i
  | 0x39 => decImm false g b fun i => .xori a i
  | _ => none

/-- Source 2 of a vector form: with S (bit 5 of D) a scalar register, else a shape (R315). -/
def decVecS (g : Group) (d : BitVec 6) (a b : BitVec 5) (k : VSrc → Instr) : Option Instr :=
  decN g fun c =>
    if isS a && isS b then
      (if d.getLsbD 5 then some (k (.scalar c)) else onlyIf (isS c) (k (.shape (lo4 c))))
    else none
/-- Binary elementwise forms: D[4:0] must be 0 (R315). -/
def decVec2 (g : Group) (d : BitVec 6) (a b : BitVec 5) (k : VSrc → Instr) : Option Instr :=
  if d.extractLsb' 0 5 = 0#5 then decVecS g d a b k else none

/-- Page 1 (R225, R313, R315). -/
def decodePage1 (g : Group) (sub : BitVec 8) (w : Half) : Option Instr :=
  let d := fMajor w
  let a := fA w
  let b := fB w
  let z := d == 0#6
  match sub.toNat with
  | 0x00 => if g.r.isSome && !dHigh0 d 1 then none else (modN g).bind fun c => if isS a && dHigh0 d 1 then (if d = 1#6 then some (.dldBase (lo4 a) b (formImm true g.imms 0 0) c) else onlyIf (c == 0#5) (.dld (lo4 a) b (formImm true g.imms 0 0))) else none
  | 0x08 => decVec2 g d a b fun s => .vadd (lo4 a) (lo4 b) s
  | 0x09 => decVec2 g d a b fun s => .vsub (lo4 a) (lo4 b) s
  | 0x0A => decVec2 g d a b fun s => .vmul (lo4 a) (lo4 b) s
  | 0x0B => decVec2 g d a b fun s => .vfma (lo4 a) (lo4 b) s
  | 0x0C => decVec2 g d a b fun s => .vdiv (lo4 a) (lo4 b) s
  | 0x0D => decVec2 g d a b fun s => .vmin (lo4 a) (lo4 b) s
  | 0x0E => decVec2 g d a b fun s => .vmax (lo4 a) (lo4 b) s
  | 0x0F => decBare g (z && isS a && isS b) (.vabs (lo4 a) (lo4 b))
  | 0x10 => decBare g (z && isS a && isS b) (.vneg (lo4 a) (lo4 b))
  | 0x11 => decVec2 g d a b fun s => .vand (lo4 a) (lo4 b) s
  | 0x12 => decVec2 g d a b fun s => .vor (lo4 a) (lo4 b) s
  | 0x13 => decVec2 g d a b fun s => .vxor (lo4 a) (lo4 b) s
  | 0x14 => decVec2 g d a b fun s => .vshl (lo4 a) (lo4 b) s
  | 0x15 => decVec2 g d a b fun s => .vshr (lo4 a) (lo4 b) s
  | 0x16 => decVec2 g d a b fun s => .vsra (lo4 a) (lo4 b) s
  | 0x18 => decBare g (z && isS a && isS b) (.vexp (lo4 a) (lo4 b))
  | 0x19 => decBare g (z && isS a && isS b) (.vlog (lo4 a) (lo4 b))
  | 0x1A => decBare g (z && isS a && isS b) (.vsqrt (lo4 a) (lo4 b))
  | 0x1B => decBare g (z && isS a && isS b) (.vrsq (lo4 a) (lo4 b))
  | 0x1C => decBare g (z && isS a && isS b) (.vrcp (lo4 a) (lo4 b))
  | 0x1D => decBare g (z && isS a && isS b) (.vtanh (lo4 a) (lo4 b))
  | 0x1E => decBare g (z && isS a && isS b) (.vsig (lo4 a) (lo4 b))
  | 0x20 => match vCond? (d3 d) with
    | some cc => if d.extractLsb' 3 2 = 0#2 then decVecS g d a b fun s => .vcmp cc (lo4 a) (lo4 b) s else none
    | none => none
  | 0x21 => if d.getLsbD 4 then none else decVecS g d a b fun s => .vsel (lo4 a) (d.extractLsb' 0 4) (lo4 b) s
  | 0x22 => decBare g (z && isS a && isS b) (.vcvt (lo4 a) (lo4 b))
  | 0x23 => decBare g (z && isS a) (.vfill (lo4 a) b)
  | 0x28 => decBare g (z && isS a && isS b) (.vrsum (lo4 a) (lo4 b))
  | 0x29 => decBare g (z && isS a && isS b) (.vrmax (lo4 a) (lo4 b))
  | 0x2A => decBare g (z && isS a && isS b) (.vrmin (lo4 a) (lo4 b))
  | 0x30 => decN g fun c => onlyIf (z && isS a && isS b && isS c) (.vperm (lo4 a) (lo4 b) (lo4 c))
  | 0x31 => decBare g (z && isS a && isS b) (.vtrn (lo4 a) (lo4 b))
  | 0x32 => decN g fun c => onlyIf (z && isS a) (.vxch (lo4 a) b c)
  | _ => none

/-- Page 2 (R226, R242, R331, R342). -/
def decodePage2 (g : Group) (sub : BitVec 8) (w : Half) : Option Instr :=
  let d := fMajor w
  let a := fA w
  let b := fB w
  let z := d == 0#6
  match sub.toNat with
  | 0x00 => decN g fun c => onlyIf (dHigh0 d 2) (.mma (d2 d) a b c)
  | 0x01 => decN g fun c => onlyIf (dHigh0 d 2) (.mmat (d2 d) a b c)
  | 0x02 => decN g fun c => onlyIf (dHigh0 d 2) (.msp (d2 d) a b c)
  | 0x03 => decN g fun c => onlyIf (dHigh0 d 2) (.mspt (d2 d) a b c)
  | 0x04 => decBare g (dHigh0 d 2 && a == 0#5 && b == 0#5) (.mzero (d2 d))
  | 0x05 => decN g fun c => match accKind? (d.extractLsb' 3 2) with
    | some k => onlyIf (!d.getLsbD 5 && !d.getLsbD 2 && a == 0#5) (.mld k (d2 d) b c)
    | none => none
  | 0x06 => decN g fun c => match accKind? (d.extractLsb' 3 2) with
    | some k => onlyIf (!d.getLsbD 5 && a == 0#5) (.mst k (d.getLsbD 2) (d2 d) b c)
    | none => none
  | 0x07 => decBare g (dHigh0 d 4 && a == 0#5 && b == 0#5) (.mcp (d2 d) (d.extractLsb' 2 2))
  | 0x08 => match accKind? (d.extractLsb' 4 2) with
    | some k => decBare g (a == 0#5 && b == 0#5) (.madd k (d2 d) (d.extractLsb' 2 2))
    | none => none
  | 0x09 => decBare g (!d.getLsbD 5 && a == 0#5 && b == 0#5) (if d.getLsbD 4 then .mtrnD (d2 d) (d.extractLsb' 2 2) else .mtrn (d2 d) (d.extractLsb' 2 2))
  | 0x40 => decBare g (z && isS b) (.qski a (lo4 b))
  | 0x41 => decBare g z (.qskm a b)
  | 0x42 => decN g fun c => onlyIf z (.qskq a b c)
  | 0x43 => decN g fun c => onlyIf z (.qskr a b c)
  | 0x44 => decBare g z (.qskn a b)
  | 0x48 => decBare g (z && isS b) (.hhi a (lo4 b))
  | 0x49 => decBare g z (.hhm a b)
  | 0x4A => decN g fun c => onlyIf z (.hhq a b c)
  | 0x4B => decBare g true (.hhn d a b)
  | 0x50 => decBare g (z && isS b) (.dci a (lo4 b))
  | 0x51 => decBare g z (.dcm a b)
  | 0x52 => decBare g z (.dce a b)
  | 0x53 => decBare g true (.dcn d a b)
  | 0x58 => decN g fun c => onlyIf z (.rngd a b c)
  | 0x59 => decN g fun c => onlyIf (z && isS a) (.rngv (lo4 a) b c)
  | 0xC0 => decN g fun c => onlyIf z (.fdiv a b c)
  | 0xC1 => decBare g z (.fsqrt a b)
  | 0xC2 => decN g fun c => onlyIf z (.fmin a b c)
  | 0xC3 => decN g fun c => onlyIf z (.fmax a b c)
  | 0xC4 => decBare g (dHigh0 d 4) (.fcvt (d.extractLsb' 0 4) a b)
  | 0xC8 => decN g fun c => onlyIf z (.dadd a b c)
  | 0xC9 => decN g fun c => onlyIf z (.dsub a b c)
  | 0xCA => decN g fun c => onlyIf z (.dmul a b c)
  | 0xCB => decN g fun c => onlyIf z (.dfma a b c)
  | 0xCC => decN g fun c => onlyIf z (.dcmp (fCond (a.extractLsb' 3 2)) (lo3 a) b c)
  | 0xCD => decN g fun c => onlyIf z (.ddiv a b c)
  | 0xCE => decBare g z (.dsqrt a b)
  | 0xCF => decN g fun c => onlyIf z (.dmin a b c)
  | 0xD0 => decN g fun c => onlyIf z (.dmax a b c)
  | _ => none

/-- CRD of number `n` (R24, R352): a number below 0x40 that names no register is ILLEGAL by its encoding. -/
def decCrd (a : Reg) (n : BitVec 8) : Option Instr :=
  if n = 0x13#8 then some (.crdFlags a)
  else if n = 0x41#8 then some (.crdEntr a)
  else onlyIf (crdAssigned n) (.crd a n)
/-- CWR of number `n` (R24, R352): a read-only or unassigned number below 0x40 is ILLEGAL by its encoding. -/
def decCwr (n : BitVec 8) (b : Reg) : Option Instr :=
  if n = 0x10#8 then some (.cwrMbox b)
  else if n = 0x11#8 then some (.cwrTrapx b)
  else if n = 0x12#8 then some (.cwrWatch b)
  else if n = 0x13#8 then some (.cwrFlags b)
  else onlyIf (cwrAssigned n) (.cwr n b)

/-- Page 3 (R227, R257, R272, R291, R352). -/
def decodePage3 (g : Group) (sub : BitVec 8) (w : Half) : Option Instr :=
  let d := fMajor w
  let a := fA w
  let b := fB w
  let z := d == 0#6
  match sub.toNat with
  | 0x00 => if z && a == 0#5 then decRel g fun o => .sendp b o else none
  | 0x01 => decN g fun c => onlyIf z (.spawn a b c)
  | 0x02 => decBare g (z) (.kill a b)
  | 0x03 => decBare g (z && a == 0#5) (.exit b)
  | 0x04 => decBare g (z && a == 0#5) (.link b)
  | 0x05 => decBare g (z && a == 0#5) (.unlink b)
  | 0x06 => decBare g (z) (.mon a b)
  | 0x07 => decBare g (z && a == 0#5) (.demon b)
  | 0x08 => decBare g (z) (.trapx a b)
  | 0x09 => decN g fun c => onlyIf z (.timer a b c)
  | 0x0A => decBare g (z && isP a) (.tcancel (lo3 a) b)
  | 0x0B => decBare g (z && a == 0#5) (.watch b)
  | 0x0C => decBare g (z && a == 0#5 && b == 0#5) (.wkick)
  | 0x0D => decBare g (z) (.fork a b)
  | 0x0E => decBare g (z && a == 0#5 && b == 0#5) (.join)
  | 0x0F => decN g fun c => onlyIf z (.arm a b c)
  | 0x10 => if z then decRel g fun o => .dec a b o else none
  | 0x11 => decBare g (z && b == 0#5) (.jcget a)
  | 0x12 => decBare g (z && a == 0#5) (.jcput b)
  | 0x13 => decBare g (z) (.rstart a b)
  | 0x14 => decBare g (z && a == 0#5) (.supv b)
  | 0x15 => decBare g (dHigh0 d 3 && (d == 6#6 || b == 0#5)) (.selfq (d3 d) a b)
  | 0x16 => decBare g (z && isP a) (.rdln (lo3 a) b)
  | 0x20 => decBare g (z && b == 0#5) (.ctxnew a)
  | 0x21 => decBare g (z && isP a) (.ctxset (lo3 a) b)
  | 0x22 => decBare g (z && a == 0#5) (.ctxret b)
  | 0x23 => decBare g (dHigh0 d 1) (.ctxq (d.getLsbD 0) a b)
  | 0x24 => decBare g (z && isP a) (.ctxpf (lo3 a) b)
  | 0x25 => decBare g (z && a == 0#5 && isP b) (.commit (lo3 b))
  | 0x40 => decN g fun c => onlyIf z (.ralloc a b c)
  | 0x41 => decBare g (z && a == 0#5) (.rfree b)
  | 0x42 => decN g fun c => onlyIf z (.give a b c)
  | 0x43 => decBare g (z) (.grant a b)
  | 0x44 => decBare g (z && a == 0#5) (.revoke b)
  | 0x45 => decBare g (dHigh0 d 1 && a == 0#5) (.publish (d.getLsbD 0) b)
  | 0x46 => decBare g (z && a == 0#5) (.cpy b)
  | 0x47 => if z && a == 0#5 then decRel g fun o => .cpyc b o else none
  | 0x48 => if z && a == 0#5 then decRel g fun o => .deal b o else none
  | 0x49 => decBare g (z && a == 0#5) (.gath b)
  | 0x4A => if dHigh0 d 5 then decRemote g MemOrd.forStore fun c o => .rst (d.extractLsb' 0 5) a b c o else none
  | 0x4B => if dHigh0 d 5 then decRemote g MemOrd.forStore fun c o => .rstc (d.extractLsb' 0 5) a b c o else none
  | 0x4C => if dHigh0 d 3 then decRemote g MemOrd.forLoad fun c o => .rld (d3 d) a b c o else none
  | 0x4D => match (d.extractLsb' 3 3).toNat with
    | 0 => decRemote g (fun _ => true) fun c o => .ratom .add (d3 d) a b c o
    | 1 => decRemote g (fun _ => true) fun c o => .ratom .swp (d3 d) a b c o
    | 2 => decRemote g (fun _ => true) fun c o => .ratom .cas (d3 d) a b c o
    | _ => none
  | 0x4E => if z && a == 0#5 then decRel g fun o => .mcst b o else none
  | 0x4F => decBare g (z && a == 0#5) (.pull b)
  | 0x50 => if d = 0#6 then decBare g true (.wqQuery a b) else if d = 1#6 then decBare g true (.wqOpen a b) else decBare g (d == 2#6 && a == 0#5) (.wqClose b)
  | 0x51 => decBare g (dHigh0 d 2 && isP a && b == 0#5) (.fenceR (scopeOf (d2 d)) (lo3 a))
  | 0x52 => if d = 0#6 then decBare g (a == 0#5) (.cpye .encE4M3 b) else if d = 1#6 then decBare g (a == 0#5) (.cpye .encE5M2 b) else decBare g (d == 2#6 && a == 0#5) (.cpye .decode b)
  | 0x60 => if g.bare && dHigh0 d 3 then decCrd a (d3 d ++ b) else none
  | 0x61 => if g.bare && dHigh0 d 3 then decCwr (d3 d ++ a) b else none
  | 0x62 => decBare g (dHigh0 d 2 && a == 0#5 && b == 0#5) (.fence (scopeOf (d2 d)))
  | 0x63 => decBare g (dHigh0 d 2 && a == 0#5 && b == 0#5) (.tfence (scopeOf (d2 d)))
  | 0x64 => if z && a == 0#5 then decRel g fun o => .sysreq b o else none
  | 0x65 => decBare g (a == 0#5 && b == 0#5) (.brk d)
  | 0x66 => decBare g (z && a == 0#5 && b == 0#5) (.nop)
  | 0xC0 => decBare g (dHigh0 d 3) (.strd (d3 d) a b)
  | 0xC1 => decN g fun c => onlyIf (dHigh0 d 3 && a == 0#5) (.stwr (d3 d) b c)
  | 0xC2 => decBare g (dHigh0 d 3 && a == 0#5) (.keyset (d3 d) b)
  | 0xC3 => decBare g (dHigh0 d 3 && a == 0#5) (.keydel (d3 d) b)
  | 0xC4 => decN g fun c => if a = 0#5 then (if d = 0#6 then some (.waveShootdown b c) else if d = 1#6 then some (.waveRetire b c) else onlyIf (d == 2#6) (.waveModuleLoss b c)) else none
  | 0xC5 => if d = 0#6 then decBare g (a == 0#5) (.prmtPreempt b) else if d = 1#6 then decBare g (a == 0#5) (.prmtHold b) else decBare g (d == 2#6 && a == 0#5) (.prmtRelease b)
  | _ => none

/-- The instruction a group names (R208): page 0 by the word's major, pages 1 to 3 by SUB. A major of 0x3F and a PFX.P
naming page 0 name none (R207, R208). -/
def decodeGroup (g : Group) (w : Half) : Instr :=
  if fMajor w = 0x3F#6 then .unassignedEncoding
  else
    (match g.p with
      | none => decodePage0 g w
      | some (p, sub) =>
        if p = 1#2 then decodePage1 g sub w
        else if p = 2#2 then decodePage2 g sub w
        else if p = 3#2 then decodePage3 g sub w
        else none).getD .unassignedEncoding

/-- What decoding answers. -/
inductive Decoded where
  | instr (i : Instr) (len : Nat)
  | prefixFault
  | more
  deriving DecidableEq, Repr

/-- Decode the group that the words begin with (R206-R209, steps 1 and 2 of R229). -/
def decode (ws : List Half) : Decoded :=
  match scanGroup ws 0 {} with
  | .word g w len => .instr (decodeGroup g w) len
  | .prefixFault => .prefixFault
  | .more => .more

/-- A word is a prefix (R208). -/
def isPrefixWord (w : Half) : Bool := fMajor w == 0x3C#6 || fMajor w == 0x3D#6 || fMajor w == 0x3E#6

/-- The words of a table row's number: 16 bits are one word; 32 bits are a prefix and the word behind it. The table's rows
hold the prefix in the upper half; a number that holds it in the lower half alone is taken as well (notes/assumptions/26).
(DESIGN CHOICE, log 26.) -/
def tableWords (nbits w : Nat) : List Half :=
  let lo := BitVec.ofNat 16 w
  let hi := BitVec.ofNat 16 (w >>> 16)
  if nbits = 32 then (if isPrefixWord lo && !isPrefixWord hi then [lo, hi] else [hi, lo]) else [lo]

/-- The words as the hardware stores them: each word little-endian, the first at the lowest address (R4, R206).
(DESIGN CHOICE, log 26.) -/
def wordBytes : List Half → List Byte
  | [] => []
  | w :: t => w.extractLsb' 0 8 :: w.extractLsb' 8 8 :: wordBytes t

/-- The words read back from stored bytes. -/
def bytesWords : List Byte → List Half
  | lo :: hi :: t => (hi ++ lo) :: bytesWords t
  | _ => []

/-- The instruction that the decoder reads from a table row's bits. (DESIGN CHOICE, log 26.) -/
def decodeTableWord (nbits w : Nat) : Option Instr :=
  match decode (bytesWords (wordBytes (tableWords nbits w))) with
  | .instr i _ => some i
  | _ => none

/-! ### The encoder (R218: the fewest PFX.I words, then PFX.R where it is needed, then PFX.P) -/

/-- Whether `n` PFX.I words and an own field of width `w` reach the immediate (R210). -/
def immFits (signed : Bool) (n w : Nat) (imm : Word) : Bool :=
  if n = 0 then (if signed then sextNat imm.toNat w == imm else decide (imm.toNat < 2 ^ w))
  else sextNat imm.toNat (10 * n + w) == imm

/-- The least number of PFX.I words that reach the immediate, at most four. -/
def immWords (signed : Bool) (w : Nat) (imm : Word) : Option Nat :=
  (List.range 5).find? fun n => immFits signed n w imm

/-- `n` payloads of ten bits, the most significant first, of a number. -/
def payloads : Nat → Nat → List (BitVec 10)
  | 0, _ => []
  | n + 1, v => BitVec.ofNat 10 (v >>> (10 * n)) :: payloads n v

/-- PFX.I words and own field for an immediate. -/
def encImm (signed : Bool) (w : Nat) (imm : Word) : Option (List Half × Nat) :=
  (immWords signed w imm).map fun n =>
    ((payloads n (imm.toNat >>> w)).map (mkPfx 0x3C#6), imm.toNat % 2 ^ w)

/-- A PFX.R word, left out when C is s0 and MOD is 0 (R218). -/
def encR (c : BitVec 5) (m : BitVec 5) : List Half := if c = 0#5 ∧ m = 0#5 then [] else [mkWord 0x3D#6 c m]
/-- A PFX.P word. -/
def encP (page : BitVec 2) (sub : BitVec 8) : Half := mkPfx 0x3E#6 (page ++ sub)

def encWidth : OpWidth → BitVec 5
  | .w64 => 0#5 | .w32 => 1#5 | .w16 => 2#5 | .w8 => 3#5
def encScope : Scope → BitVec 2
  | .cl => 0#2 | .di => 1#2 | .mo => 2#2 | .pd => 3#2
def encOrd (o : MemOrd) (x : Bool) : BitVec 5 :=
  match o with
  | .relaxed => 0#2 ++ (0#2 ++ BitVec.ofBool x)
  | .acquire s => 1#2 ++ (encScope s ++ BitVec.ofBool x)
  | .release s => 2#2 ++ (encScope s ++ BitVec.ofBool x)
  | .acqRel s => 3#2 ++ (encScope s ++ BitVec.ofBool x)
def encCmp : CmpCond → BitVec 2
  | .eq => 0#2 | .ne => 1#2 | .lt => 2#2 | .ge => 3#2
def encPlog : PlogOp → BitVec 2
  | .and => 0#2 | .or => 1#2 | .xor => 2#2 | .andn => 3#2
def encFCond : FCond → BitVec 2
  | .eq => 0#2 | .lt => 1#2 | .le => 2#2 | .un => 3#2
def encVCond : VCond → BitVec 3
  | .eq => 0#3 | .ne => 1#3 | .lt => 2#3 | .le => 3#3 | .un => 4#3
def encKind : AccKind → BitVec 2
  | .f32 => 0#2 | .i32 => 1#2 | .f64 => 2#2
def encSize : Size → BitVec 6
  | .b => 0#6 | .h => 1#6 | .w => 2#6 | .d => 3#6
/-- A predicate or shape number in a five-bit field. -/
def encPred (p : Pred) : BitVec 5 := 0#2 ++ p
def encShape (d : ShapeReg) : BitVec 5 := 0#1 ++ d
/-- The S bit of D and field C of a vector source 2 (R315). -/
def encVSrc : VSrc → BitVec 1 × BitVec 5
  | .shape d => (0#1, encShape d)
  | .scalar r => (1#1, r)

def encInt (m : BitVec 6) (a b c : Reg) (w : OpWidth) : Option (List Half) := some (encR c (encWidth w) ++ [mkWord m a b])
def encImmForm (signed : Bool) (m : BitVec 6) (a : Reg) (imm : Word) : Option (List Half) :=
  (encImm signed 5 imm).map fun x => x.1 ++ [mkWord m a (BitVec.ofNat 5 x.2)]
def encN (m : BitVec 6) (a b c : BitVec 5) : Option (List Half) := some (encR c 0#5 ++ [mkWord m a b])
def encField (m : BitVec 6) (a b : Reg) (pos len : BitVec 6) : Option (List Half) :=
  (encImm false 0 ((len ++ pos).setWidth 64)).map fun x => x.1 ++ [mkWord m a b]
def encMem (m : BitVec 6) (a b c : Reg) (off : Word) (o : MemOrd) (x : Bool) : Option (List Half) :=
  (encImm true 0 off).map fun i => i.1 ++ encR c (encOrd o x) ++ [mkWord m a b]
def encBr (m : BitVec 6) (off : Word) : Option (List Half) :=
  (encImm true 10 off).map fun x => x.1 ++ [mkPfx m (BitVec.ofNat 10 x.2)]
def encBrp (f : BitVec 1) (p : Pred) (off : Word) : Option (List Half) :=
  (encImm true 5 off).map fun x => x.1 ++ [mkWord 0x2D#6 (0#1 ++ (f ++ p)) (BitVec.ofNat 5 x.2)]
def encSend (m : BitVec 6) (a b : Reg) (x : Option Reg) (o : MemOrd) : Option (List Half) :=
  some (encR (x.getD 0#5) (encOrd o x.isSome) ++ [mkWord m a b])
/-- A page 1 to 3 form without PFX.R. -/
def encB (page : BitVec 2) (sub : BitVec 8) (d : BitVec 6) (a b : BitVec 5) : Option (List Half) :=
  some [encP page sub, mkWord d a b]
/-- A page 1 to 3 form with field C of class N. -/
def encC (page : BitVec 2) (sub : BitVec 8) (d : BitVec 6) (a b c : BitVec 5) : Option (List Half) :=
  some (encR c 0#5 ++ [encP page sub, mkWord d a b])
/-- A page 3 form of class M. -/
def encM (sub : BitVec 8) (d : BitVec 6) (a b c : BitVec 5) (o : MemOrd) : Option (List Half) :=
  some (encR c (encOrd o false) ++ [encP 3#2 sub, mkWord d a b])
def encV (sub : BitVec 8) (lowD : BitVec 5) (a b : ShapeReg) (s : VSrc) : Option (List Half) :=
  encC 1#2 sub ((encVSrc s).1 ++ lowD) (encShape a) (encShape b) (encVSrc s).2

/-- The words of an instruction; none for an event, and for an instruction no encoding reaches. -/
def encode : Instr → Option (List Half)
  | .add a b c w => encInt 0x01#6 a b c w
  | .sub a b c w => encInt 0x02#6 a b c w
  | .and a b c w => encInt 0x03#6 a b c w
  | .or a b c w => encInt 0x04#6 a b c w
  | .xor a b c w => encInt 0x05#6 a b c w
  | .shl a b c w => encInt 0x06#6 a b c w
  | .shr a b c w => encInt 0x07#6 a b c w
  | .sra a b c w => encInt 0x08#6 a b c w
  | .mul a b c w => encInt 0x09#6 a b c w
  | .mulh a b c w => encInt 0x0A#6 a b c w
  | .mulhu a b c w => encInt 0x0B#6 a b c w
  | .div a b c w => encInt 0x0C#6 a b c w
  | .divu a b c w => encInt 0x0D#6 a b c w
  | .rem a b c w => encInt 0x0E#6 a b c w
  | .remu a b c w => encInt 0x0F#6 a b c w
  | .addi a imm => encImmForm true 0x10#6 a imm
  | .andi a imm => encImmForm false 0x11#6 a imm
  | .shli a imm => encImmForm false 0x12#6 a imm
  | .shri a imm => encImmForm false 0x13#6 a imm
  | .srai a imm => encImmForm false 0x14#6 a imm
  | .li a imm => encImmForm true 0x15#6 a imm
  | .ori a imm => encImmForm false 0x38#6 a imm
  | .xori a imm => encImmForm false 0x39#6 a imm
  | .cmp cc p b c => encN 0x16#6 (encCmp cc ++ p) b c
  | .cmpu cc p b c => encN 0x17#6 ((if cc = .ltu then 0#2 else 1#2) ++ p) b c
  | .sel a b p => encN 0x18#6 a b (encPred p)
  | .plog op p b c => encN 0x19#6 (encPlog op ++ p) (encPred b) (encPred c)
  | .extu a b pos len => encField 0x1A#6 a b pos len
  | .exts a b pos len => encField 0x1B#6 a b pos len
  | .ins a b pos len => encField 0x1C#6 a b pos len
  | .clz a b w => encInt 0x1D#6 a b 0#5 w
  | .ctz a b w => encInt 0x1E#6 a b 0#5 w
  | .popc a b w => encInt 0x1F#6 a b 0#5 w
  | .ldB a b off o => encMem 0x20#6 a b 0#5 off o false
  | .stB a b off o => encMem 0x24#6 a b 0#5 off o false
  | .ldH a b off o => encMem 0x21#6 a b 0#5 off o false
  | .stH a b off o => encMem 0x25#6 a b 0#5 off o false
  | .ldW a b off o => encMem 0x22#6 a b 0#5 off o false
  | .stW a b off o => encMem 0x26#6 a b 0#5 off o false
  | .ldD a b off o => encMem 0x23#6 a b 0#5 off o false
  | .stD a b off o => encMem 0x27#6 a b 0#5 off o false
  | .ldx sz a b c off o => encMem (0x20#6 + encSize sz) a b c off o true
  | .stx sz a b c off o => encMem (0x24#6 + encSize sz) a b c off o true
  | .aadd a b c off o => encMem 0x28#6 a b c off o false
  | .aswp a b c off o => encMem 0x29#6 a b c off o false
  | .acas a b c off o => encMem 0x2A#6 a b c off o false
  | .br off => encBr 0x2B#6 off
  | .call off => encBr 0x2C#6 off
  | .brp p off => encBrp 0#1 p off
  | .brpF p off => encBrp 1#1 p off
  | .jr b => some [mkWord 0x2E#6 0#5 b]
  | .callr b => some [mkWord 0x2F#6 0#5 b]
  | .send a b x o => encSend 0x30#6 a b x o
  | .reply b x o => encSend 0x31#6 0#5 b x o
  | .done => some [mkWord 0x32#6 0#5 0#5]
  | .fadd a b c => encN 0x33#6 a b c
  | .fsub a b c => encN 0x34#6 a b c
  | .fmul a b c => encN 0x35#6 a b c
  | .fma a b c => encN 0x36#6 a b c
  | .fcmp cc p b c => encN 0x37#6 (encFCond cc ++ p) b c
  | .unassignedEncoding => some [0x0000#16]
  | .dld d b off => (encImm true 0 off).map fun i => i.1 ++ [encP 1#2 0x00#8, mkWord 0#6 (encShape d) b]
  | .dldBase d b off c => (encImm true 0 off).map fun i => i.1 ++ encR c 0#5 ++ [encP 1#2 0x00#8, mkWord 1#6 (encShape d) b]
  | .vadd a b s => encV 0x08#8 0#5 a b s
  | .vsub a b s => encV 0x09#8 0#5 a b s
  | .vmul a b s => encV 0x0A#8 0#5 a b s
  | .vfma a b s => encV 0x0B#8 0#5 a b s
  | .vdiv a b s => encV 0x0C#8 0#5 a b s
  | .vmin a b s => encV 0x0D#8 0#5 a b s
  | .vmax a b s => encV 0x0E#8 0#5 a b s
  | .vand a b s => encV 0x11#8 0#5 a b s
  | .vor a b s => encV 0x12#8 0#5 a b s
  | .vxor a b s => encV 0x13#8 0#5 a b s
  | .vshl a b s => encV 0x14#8 0#5 a b s
  | .vshr a b s => encV 0x15#8 0#5 a b s
  | .vsra a b s => encV 0x16#8 0#5 a b s
  | .vabs a b => encB 1#2 0x0F#8 0#6 (encShape a) (encShape b)
  | .vneg a b => encB 1#2 0x10#8 0#6 (encShape a) (encShape b)
  | .vexp a b => encB 1#2 0x18#8 0#6 (encShape a) (encShape b)
  | .vlog a b => encB 1#2 0x19#8 0#6 (encShape a) (encShape b)
  | .vsqrt a b => encB 1#2 0x1A#8 0#6 (encShape a) (encShape b)
  | .vrsq a b => encB 1#2 0x1B#8 0#6 (encShape a) (encShape b)
  | .vrcp a b => encB 1#2 0x1C#8 0#6 (encShape a) (encShape b)
  | .vtanh a b => encB 1#2 0x1D#8 0#6 (encShape a) (encShape b)
  | .vsig a b => encB 1#2 0x1E#8 0#6 (encShape a) (encShape b)
  | .vcvt a b => encB 1#2 0x22#8 0#6 (encShape a) (encShape b)
  | .vrsum a b => encB 1#2 0x28#8 0#6 (encShape a) (encShape b)
  | .vrmax a b => encB 1#2 0x29#8 0#6 (encShape a) (encShape b)
  | .vrmin a b => encB 1#2 0x2A#8 0#6 (encShape a) (encShape b)
  | .vtrn a b => encB 1#2 0x31#8 0#6 (encShape a) (encShape b)
  | .vcmp cc a b s => encV 0x20#8 (0#2 ++ encVCond cc) a b s
  | .vsel a m b s => encV 0x21#8 (0#1 ++ m) a b s
  | .vfill a b => encB 1#2 0x23#8 0#6 (encShape a) b
  | .vperm a b c => encC 1#2 0x30#8 0#6 (encShape a) (encShape b) (encShape c)
  | .vxch a b c => encC 1#2 0x32#8 0#6 (encShape a) b c
  | .mma n a b c => encC 2#2 0x00#8 (0#4 ++ n) a b c
  | .mmat n a b c => encC 2#2 0x01#8 (0#4 ++ n) a b c
  | .msp n a b c => encC 2#2 0x02#8 (0#4 ++ n) a b c
  | .mspt n a b c => encC 2#2 0x03#8 (0#4 ++ n) a b c
  | .mzero n => encB 2#2 0x04#8 (0#4 ++ n) 0#5 0#5
  | .mld k n b c => encC 2#2 0x05#8 (0#1 ++ (encKind k ++ (0#1 ++ n))) 0#5 b c
  | .mst k e5 n b c => encC 2#2 0x06#8 (0#1 ++ (encKind k ++ (BitVec.ofBool e5 ++ n))) 0#5 b c
  | .mcp d s => encB 2#2 0x07#8 (0#2 ++ (s ++ d)) 0#5 0#5
  | .madd k d s => encB 2#2 0x08#8 (encKind k ++ (s ++ d)) 0#5 0#5
  | .mtrn d s => encB 2#2 0x09#8 (0#2 ++ (s ++ d)) 0#5 0#5
  | .mtrnD d s => encB 2#2 0x09#8 (1#2 ++ (s ++ d)) 0#5 0#5
  | .qski a b => encB 2#2 0x40#8 0#6 a (encShape b)
  | .hhi a b => encB 2#2 0x48#8 0#6 a (encShape b)
  | .dci a b => encB 2#2 0x50#8 0#6 a (encShape b)
  | .qskm a b => encB 2#2 0x41#8 0#6 a b
  | .qskn a b => encB 2#2 0x44#8 0#6 a b
  | .hhm a b => encB 2#2 0x49#8 0#6 a b
  | .dcm a b => encB 2#2 0x51#8 0#6 a b
  | .dce a b => encB 2#2 0x52#8 0#6 a b
  | .qskq a b c => encC 2#2 0x42#8 0#6 a b c
  | .qskr a b c => encC 2#2 0x43#8 0#6 a b c
  | .hhq a b c => encC 2#2 0x4A#8 0#6 a b c
  | .rngd a b c => encC 2#2 0x58#8 0#6 a b c
  | .hhn f a b => encB 2#2 0x4B#8 f a b
  | .dcn f a b => encB 2#2 0x53#8 f a b
  | .rngv a b c => encC 2#2 0x59#8 0#6 (encShape a) b c
  | .fdiv a b c => encC 2#2 0xC0#8 0#6 a b c
  | .fmin a b c => encC 2#2 0xC2#8 0#6 a b c
  | .fmax a b c => encC 2#2 0xC3#8 0#6 a b c
  | .dadd a b c => encC 2#2 0xC8#8 0#6 a b c
  | .dsub a b c => encC 2#2 0xC9#8 0#6 a b c
  | .dmul a b c => encC 2#2 0xCA#8 0#6 a b c
  | .dfma a b c => encC 2#2 0xCB#8 0#6 a b c
  | .ddiv a b c => encC 2#2 0xCD#8 0#6 a b c
  | .dmin a b c => encC 2#2 0xCF#8 0#6 a b c
  | .dmax a b c => encC 2#2 0xD0#8 0#6 a b c
  | .fsqrt a b => encB 2#2 0xC1#8 0#6 a b
  | .dsqrt a b => encB 2#2 0xCE#8 0#6 a b
  | .fcvt code a b => encB 2#2 0xC4#8 (0#2 ++ code) a b
  | .dcmp cc p b c => encC 2#2 0xCC#8 0#6 (encFCond cc ++ p) b c
  | .sendp b o => encM 0x00#8 0#6 0#5 b 0#5 o
  | .spawn a b c => encC 3#2 0x01#8 0#6 a b c
  | .timer a b c => encC 3#2 0x09#8 0#6 a b c
  | .arm a b c => encC 3#2 0x0F#8 0#6 a b c
  | .ralloc a b c => encC 3#2 0x40#8 0#6 a b c
  | .give a b c => encC 3#2 0x42#8 0#6 a b c
  | .kill a b => encB 3#2 0x02#8 0#6 a b
  | .mon a b => encB 3#2 0x06#8 0#6 a b
  | .trapx a b => encB 3#2 0x08#8 0#6 a b
  | .fork a b => encB 3#2 0x0D#8 0#6 a b
  | .rstart a b => encB 3#2 0x13#8 0#6 a b
  | .grant a b => encB 3#2 0x43#8 0#6 a b
  | .exit b => encB 3#2 0x03#8 0#6 0#5 b
  | .link b => encB 3#2 0x04#8 0#6 0#5 b
  | .unlink b => encB 3#2 0x05#8 0#6 0#5 b
  | .demon b => encB 3#2 0x07#8 0#6 0#5 b
  | .watch b => encB 3#2 0x0B#8 0#6 0#5 b
  | .jcput b => encB 3#2 0x12#8 0#6 0#5 b
  | .supv b => encB 3#2 0x14#8 0#6 0#5 b
  | .ctxret b => encB 3#2 0x22#8 0#6 0#5 b
  | .rfree b => encB 3#2 0x41#8 0#6 0#5 b
  | .revoke b => encB 3#2 0x44#8 0#6 0#5 b
  | .cpy b => encB 3#2 0x46#8 0#6 0#5 b
  | .gath b => encB 3#2 0x49#8 0#6 0#5 b
  | .pull b => encB 3#2 0x4F#8 0#6 0#5 b
  | .tcancel p b => encB 3#2 0x0A#8 0#6 (encPred p) b
  | .rdln p b => encB 3#2 0x16#8 0#6 (encPred p) b
  | .ctxset p b => encB 3#2 0x21#8 0#6 (encPred p) b
  | .ctxpf p b => encB 3#2 0x24#8 0#6 (encPred p) b
  | .wkick => encB 3#2 0x0C#8 0#6 0#5 0#5
  | .join => encB 3#2 0x0E#8 0#6 0#5 0#5
  | .nop => encB 3#2 0x66#8 0#6 0#5 0#5
  | .dec a b o => encM 0x10#8 0#6 a b 0#5 o
  | .jcget a => encB 3#2 0x11#8 0#6 a 0#5
  | .ctxnew a => encB 3#2 0x20#8 0#6 a 0#5
  | .selfq sel a b => encB 3#2 0x15#8 (0#3 ++ sel) a b
  | .ctxq byId a b => encB 3#2 0x23#8 (0#5 ++ BitVec.ofBool byId) a b
  | .commit n => encB 3#2 0x25#8 0#6 0#5 (encPred n)
  | .publish w b => encB 3#2 0x45#8 (0#5 ++ BitVec.ofBool w) 0#5 b
  | .cpyc b o => encM 0x47#8 0#6 0#5 b 0#5 o
  | .deal b o => encM 0x48#8 0#6 0#5 b 0#5 o
  | .mcst b o => encM 0x4E#8 0#6 0#5 b 0#5 o
  | .rst n a b c o => encM 0x4A#8 (0#1 ++ n) a b c o
  | .rstc n a b c o => encM 0x4B#8 (0#1 ++ n) a b c o
  | .rld p a b c o => encM 0x4C#8 (0#3 ++ p) a b c o
  | .ratom op p a b c o => encM 0x4D#8 ((match op with | .add => 0#3 | .swp => 1#3 | .cas => 2#3) ++ p) a b c o
  | .wqQuery a b => encB 3#2 0x50#8 0#6 a b
  | .wqOpen a b => encB 3#2 0x50#8 1#6 a b
  | .wqClose b => encB 3#2 0x50#8 2#6 0#5 b
  | .fenceR sc p => encB 3#2 0x51#8 (0#4 ++ encScope sc) (encPred p) 0#5
  | .cpye m b => encB 3#2 0x52#8 (match m with | .encE4M3 => 0#6 | .encE5M2 => 1#6 | .decode => 2#6) 0#5 b
  | .crd a n => encB 3#2 0x60#8 (0#3 ++ n.extractLsb' 5 3) a (n.extractLsb' 0 5)
  | .crdFlags a => encB 3#2 0x60#8 0#6 a 0x13#5
  | .crdEntr a => encB 3#2 0x60#8 2#6 a 1#5
  | .cwr n b => encB 3#2 0x61#8 (0#3 ++ n.extractLsb' 5 3) (n.extractLsb' 0 5) b
  | .cwrMbox b => encB 3#2 0x61#8 0#6 0x10#5 b
  | .cwrTrapx b => encB 3#2 0x61#8 0#6 0x11#5 b
  | .cwrWatch b => encB 3#2 0x61#8 0#6 0x12#5 b
  | .cwrFlags b => encB 3#2 0x61#8 0#6 0x13#5 b
  | .fence sc => encB 3#2 0x62#8 (0#4 ++ encScope sc) 0#5 0#5
  | .tfence sc => encB 3#2 0x63#8 (0#4 ++ encScope sc) 0#5 0#5
  | .sysreq b o => encM 0x64#8 0#6 0#5 b 0#5 o
  | .brk n => if n.toNat < 0x3C then encB 3#2 0x65#8 n 0#5 0#5 else none
  | .strd p a b => encB 3#2 0xC0#8 (0#3 ++ p) a b
  | .stwr p b c => encC 3#2 0xC1#8 (0#3 ++ p) 0#5 b c
  | .keyset p b => encB 3#2 0xC2#8 (0#3 ++ p) 0#5 b
  | .keydel p b => encB 3#2 0xC3#8 (0#3 ++ p) 0#5 b
  | .waveShootdown b c => encC 3#2 0xC4#8 0#6 0#5 b c
  | .waveRetire b c => encC 3#2 0xC4#8 1#6 0#5 b c
  | .waveModuleLoss b c => encC 3#2 0xC4#8 2#6 0#5 b c
  | .prmtPreempt b => encB 3#2 0xC5#8 0#6 0#5 b
  | .prmtHold b => encB 3#2 0xC5#8 1#6 0#5 b
  | .prmtRelease b => encB 3#2 0xC5#8 2#6 0#5 b
  | .sliceTableWrite _ => none
  | .coreConfigurationWrite _ => none
  | .tagAllocatorWrite _ => none
  | .pageTableRootWrite _ => none
  | .membershipWrite _ => none
  | .groupTableWrite _ => none
  | .prmtArrival _ => none
  | .stewardAccessArrival _ => none
  | .messageArrival _ => none
  | .poolArrival _ => none
  | .dispatch _ => none
  | .dispatchRecallDone _ _ => none
  | .resumption _ => none
  | .budgetExhausted _ _ => none
  | .sliceEnd _ => none
  | .stealRequest _ _ => none
  | .stealRequestArrival _ => none
  | .stealReplyArrival _ => none
  | .counterAdvance _ => none
  | .timerExpiry _ _ => none
  | .watchdogExpiry _ _ => none
  | .replyDeadlineExpiry _ _ => none
  | .killArrival _ => none
  | .exitSignalArrival _ => none
  | .overflowWalkEnd _ _ => none
  | .regionsReturned _ _ => none
  | .resolutionRequest _ => none
  | .resolutionAnswer _ => none
  | .resolveTmo _ _ => none
  | .yarrowRestartStart _ _ => none
  | .yarrowImageLoaded _ _ => none
  | .spawnRequestArrival _ => none
  | .spawnAckArrival _ => none
  | .spawnNameArrival _ => none
  | .linkRequestArrival _ => none
  | .linkAnswerArrival _ => none
  | .unlinkArrival _ => none
  | .replicaHashArrival _ => none
  | .campionTimeout _ _ => none
  | .outboundRelease _ _ => none
  | .vectorOpComplete _ => none
  | .matrixOpComplete _ => none
  | .summaryOpComplete _ => none
  | .copyComplete _ _ => none
  | .resultArrival _ _ => none
  | .remoteOpArrival _ => none
  | .remoteResponseArrival _ => none
  | .remoteTimeout _ _ => none
  | .heldLandingRelease _ _ => none
  | .transferComplete _ => none
  | .combineFlush _ => none
  | .writeBackComplete _ _ => none
  | .prefetchFill _ _ => none
  | .retireWaveArrival _ _ => none
  | .retireWaveComplete _ => none
  | .shootdownArrival _ _ => none
  | .shootdownComplete _ => none
  | .moduleLossWaveArrival _ _ => none
  | .waveCompleteMessage _ => none
  | .coreSleep _ => none
  | .coreWake _ => none
  | .wakeComplete _ => none
  | .tagRefill _ => none
  | .wakingQuery _ _ => none
  | .wqQueryArrival _ => none
  | .wqCloseArrival _ => none
  | .multicastArrival _ => none
  | .mergedAckArrival _ => none
  | .pullReadArrival _ => none
  | .reducedLineArrival _ => none
  | .groupInstallAck _ => none
  | .groupInstallTimeout _ => none
  | .flitReceive _ => none
  | .flitCrcFail _ => none
  | .portDown _ => none
  | .maskHoldExpiry _ => none
  | .laneRotation _ => none
  | .laneRetire _ _ _ => none
  | .laneDegrade _ => none
  | .heartbeatSend => none
  | .heartbeatArrival _ => none
  | .suspect _ => none
  | .probeTimeout _ => none
  | .selfLost _ => none
  | .timeSync _ => none
  | .inputLow _ _ => none
  | .inputUndervoltage _ _ => none
  | .inputOvervoltage _ _ => none
  | .inputRecovery _ _ => none
  | .inputLimit _ => none
  | .dvfsChangeDone _ => none
  | .railSample _ _ _ _ => none
  | .lidSample _ _ _ => none
  | .clampRelease _ => none
  | .energyApportion _ _ => none
  | .moduleReset => none
  | .sendApertureWrite _ _ _ => none
  | .bar2Write _ _ _ _ => none
  | .bar2Read _ _ _ _ => none
  | .fstatClear _ _ => none
  | .hqheadWrite _ _ => none
  | .hostRegisterWrite _ _ _ => none
  | .hostQueueDelivery _ => none
  | .functionLevelReset _ => none
  | .tenantCreate _ => none
  | .tenantDestroy _ => none
  | .map _ => none
  | .unmap _ => none
  | .startRoot _ => none
  | .query _ => none
  | .mcastSet _ => none
  | .mcastDel _ => none
  | .groupCreate _ => none
  | .groupRead _ => none
  | .groupDelete _ => none
  | .serviceBadRequest _ => none
  | .membershipLossUpdate _ => none
  | .getVersion _ => none
  | .getCapabilities _ => none
  | .negotiateAlgorithms _ _ => none
  | .getDigests _ => none
  | .getCertificate _ => none
  | .challenge _ _ => none
  | .getMeasurements _ _ _ => none
  | .keyExchange _ _ => none
  | .finish _ _ => none
  | .endSession _ _ => none
  | .mctpControl _ => none
  | .pldmSensorRead _ => none
  | .capWrite _ _ => none
  | .tsatWrite _ => none
  | .feedWrite _ => none
  | .firmwareUpdate _ => none
  | .linkBringUp _ _ _ => none
  | .tdispRequest _ _ => none
  | .ideStreamSetup _ _ _ => none
  | .vfEnable _ => none
  | .fusedSvnAdvance _ => none
  | .dieCounterSelect _ _ _ => none
  | .routerCombining _ _ => none

end Sys2Proof
end

