-- ==== Sys2Proof/Machine/Fetch.lean ====
section
/-! DEFINITION. Fetching a group (09 R206-R215, steps 1 and 2 of R229) and choosing which handler issues. -/

namespace Sys2Proof.Machine

open Sys2Proof

/-- A range that an operation queued before the dispatch of the current handler writes. -/
def State.late (s : State) (sp : Span) : Bool := s.hd.lateCode.any sp.overlaps

/-- An operation that an earlier handler of the actor queued, or a remote store of one, still writes a range: the fetch comes
behind it (R55, R188, R190). -/
def State.fetchWaits (s : State) (sp : Span) : Bool :=
  let earlier (n : Name) (serial : Nat) : Bool := n == s.self.name && decide (serial ≠ s.hd.serial)
  s.late sp && (s.here.ops.any (fun o => earlier o.name o.serial && o.writes.any sp.overlaps) ||
    s.here.remotes.any fun r => r.2.write && earlier r.2.name r.2.serial && stillCovers s.mod.timeNs r.2.at_ &&
      (r.2.spot.toList.flatMap (s.remoteSpans s.cur.core)).any sp.overlaps)

/-- What the fetch of a word answers; it may have to wait. -/
inductive WordRes where
  | fault (c : FaultCode)
  | wait
  | word (s : State) (w : Half)

/-- The word at an address of an EX region of the current handler, in its CTX view (R94, R121). What the region held at
the dispatch is what the handler fetches, with what operations queued before it wrote; of a word it has itself stored to since,
either (R215). (DEDUCED, log 20.) -/
def State.fetchWord (s : State) (addr : Nat) : WordRes :=
  match s.checkLocal s.cur.core s.hd.entry addr 2 .ex 2 with
  | .error c => .fault c
  | .ok (h, r) =>
    let word (bs : List Byte) : Half := BitVec.ofNat 16 (leNat bs)
    let now := word (s.localRead s.hdView h r addr 2)
    let sp : Span := { home := localHome s.cur.core addr, len := 2 }
    if s.fetchWaits sp then .wait
    else match Tab.get? s.hd.code h with
    | none => .word s now
    | some bs =>
      let old := word ((bs.drop (addr - r.base)).take 2)
      if old = now ∨ (r.tagged ∧ s.hd.ctx ≠ s.hd.msg.ctx) ∨ s.late sp then .word s now
      else if s.hd.coded.contains addr then .word s.draw (if Config.freeBool s.freeCtr then old else now)
      else .word s old

/-- What fetching a group answers. -/
inductive FetchRes where
  | fault (c : FaultCode)
  | wait
  | instr (s : State) (i : Instr) (len : Nat)

/-- Fetch words until they make a group; a group has at most five words (R206, R208). -/
def State.fetchGroup (s : State) (pc : Nat) : Nat → List Half → FetchRes
  | 0, _ => .fault .prefixMisuse
  | f + 1, ws =>
    match s.fetchWord (pc + 2 * ws.length) with
    | .fault c => .fault c
    | .wait => .wait
    | .word s w =>
      match decode (ws ++ [w]) with
      | .instr i len => .instr s i len
      | .prefixFault => .fault .prefixMisuse
      | .more => s.fetchGroup pc f (ws ++ [w])

/-- The record of the handler in a thread slot. -/
def Core.occupant (k : Core) (slot : Nat) : Option Nat :=
  (k.handlers.find? fun h => decide (h.2.status.slot? = some slot)).map (·.1)

/-- What issuing a slot comes to: nothing there, a fault of the fetch already taken or a stall, or an instruction to execute. -/
inductive Ready where
  | idle
  | faulted (s : State)
  | stalled (s : State)
  | run (i : Instr) (s : State)

/-- The slot's handler becomes the current one, and its next group is fetched; `npc` is the address after the group
(R213). A core in reset or asleep issues nothing (R33, R134). -/
def State.ready (s : State) (core slot : Nat) : Ready :=
  if s.mod.heldReset || (s.core core).asleep then .idle
  else match (s.core core).occupant slot with
    | none => .idle
    | some rec =>
      let s := { s with cur := { core := core, rec_ := rec } }
      match s.fetchGroup s.hd.pc 6 [] with
      | .fault c => .faulted (s.takeFault c)
      | .wait => .stalled s.stall
      | .instr s i len => .run i (s.modHd fun h => { h with npc := h.pc + 2 * len })

end Sys2Proof.Machine
end

