-- ==== Sys2Proof/Machine/Plan.lean ====
section
/-! DEFINITION. What acts next when the agenda names nothing: everything inside the module that may be able to act, once
round, then one cycle. The spec leaves this order open; an event that is not enabled changes nothing. -/

namespace Sys2Proof.Machine

open Sys2Proof

/-- The numbers below `n`, highest first, so that taking one leaves the others in place. -/
def downFrom (n : Nat) : List Nat := (List.range n).reverse

/-- The service request of a message (R400, R421). -/
def Msg.request (m : Msg) : Inner :=
  if !m.proper then .serviceBadRequest
  else match m.code with
    | 1 => .tenantCreate
    | 2 => .tenantDestroy
    | 3 => .map
    | 4 => .unmap
    | 5 => .startRoot
    | 6 => .query
    | 7 => .mcastSet
    | 8 => .mcastDel
    | 0x10 => .groupCreate
    | 0x11 => .groupRead
    | _ => .groupDelete

/-- The event by which a packet in flight arrives. (DESIGN CHOICE, log 1.) -/
def State.arrivalOf (s : State) (p : Packet) : Option Inner :=
  match p with
  | .msg m =>
    if m.dest = s.fw.svcName ∧ !ctxBad m.ctx then some m.request
    else if nameCore m.dest ≠ hostPlace ∧ s.toPool (nameCore m.dest) m then some .poolArrival
    else some .messageArrival
  | .kill .. => some .killArrival
  | .signal .. => some .exitSignalArrival
  | .linkReq .. => some .linkRequestArrival
  | .linkAns .. => some .linkAnswerArrival
  | .unlink .. => some .unlinkArrival
  | .advance .. => some .counterAdvance
  | .spawn _ => some .spawnRequestArrival
  | .spawnAck .. => some .spawnAckArrival
  | .spawnName .. => some .spawnNameArrival
  | .resReq .. => some .resolutionRequest
  | .resAns .. => some .resolutionAnswer
  | .hash .. => some .replicaHashArrival
  | .remote _ => some .remoteOpArrival
  | .combined _ => some .remoteOpArrival
  | .response .. => some .remoteResponseArrival
  | .transfer _ => some .transferComplete
  | .wqQuery .. => some .wqQueryArrival
  | .wqClose .. => some .wqCloseArrival
  | .mcastMember .. => some .multicastArrival
  | .mergedAck .. => some .mergedAckArrival
  | .pullRead .. => some .pullReadArrival
  | .reduced .. => some .reducedLineArrival
  | .steward _ => some .stewardAccessArrival
  | .prmt .. => some .prmtArrival
  | .stealReq .. => some .stealRequestArrival
  | .stealReply .. => some .stealReplyArrival
  | .multicast .. => none
  | .pullReq .. => none
  | .mcastAck .. => none
  | .pullReply .. => none
  | .retireWave .. => none
  | .waveDone .. => none
  | .retired .. => none
  | .tile .. => none
  | .wakeQuery .. => none
  | .wakeAns .. => none
  | .manage .. => none
  | .firmware .. => some .firmwareMessage
  | .copy .. => some .messageArrival

/-- The threads of a core that may issue. -/
def Core.issues (k : Core) (core : Nat) : List Move :=
  (List.range 8).filterMap fun n => if (k.occupant n).isSome then some (.issue core n) else none

/-- One event for each of a list of numbers. -/
def each (k : Inner) (a : Nat) (l : List Nat) : List Move := l.map fun i => .inner k a i
def eachOne (k : Inner) (l : List Nat) : List Move := l.map fun i => .inner k i 0

/-- The expiries of a core's timers: they come before a TCANCEL of the same cycle (R280). -/
def Core.expiries (k : Core) (core : Nat) : List Move := each .timerExpiry core ((k.timers.filter fun t => t.2.due.isSome).map (·.1))

/-- The events of a core. (DESIGN CHOICE, log 1.) -/
def Core.events_ (k : Core) (core : Nat) : List Move :=
  each .resultArrival core (downFrom k.results.length) ++
  each .outboundRelease core (downFrom k.outq.length) ++
  (if k.vec.isEmpty then [] else [.inner .vectorOpComplete core 0]) ++
  (if k.matq.isEmpty then [] else [.inner .matrixOpComplete core 0]) ++
  (if k.sumq.isEmpty then [] else [.inner .summaryOpComplete core 0]) ++
  each .copyComplete core ((k.teasel ++ k.apert).map (·.id)) ++
  each .heldLandingRelease core (downFrom k.heldLandings.length) ++
  each .dispatchRecallDone core (downFrom k.recalls.length) ++
  each .prefetchFill core (downFrom k.recalls.length) ++
  each .writeBackComplete core (downFrom k.evicts.length) ++
  each .overflowWalkEnd core (downFrom k.walks.length) ++
  each .regionsReturned core ((k.actors.filter fun a => decide (a.2.state = .exiting)).map (·.1)) ++
  each .resolveTmo core (downFrom k.resolving.length) ++
  each .yarrowRestartStart core (downFrom (k.starts.length + k.events.length)) ++
  each .yarrowImageLoaded core (downFrom k.starts.length) ++
  each .campionTimeout core (downFrom k.campion.length) ++
  each .remoteTimeout core (k.remotes.map (·.1) ++ k.opens.map (·.1)) ++
  each .watchdogExpiry core ((k.actors.filter fun a => decide (a.2.watch ≠ 0)).map (·.1)) ++
  each .replyDeadlineExpiry core (k.waits.map (·.1)) ++
  each .budgetExhausted core (k.handlers.map (·.1)) ++
  [.inner .sliceEnd core 0, .inner .dispatch core 0, .inner .resumption core 0, .inner .coreWake core 0, .inner .coreSleep core 0] ++
  each .wakingQuery core ((k.wakeAsk ++ k.wakeSent).map (·.toNat)) ++
  (if k.waking then [.inner .wakeComplete core 0] else []) ++
  (match k.nextVictim core with | some v => [.inner .stealRequest core v] | none => [])

/-- The events of a wave. -/
def Wave.events (w : Wave) (n : Nat) : List Move :=
  match w.kind with
  | .shootdown .. => each .shootdownArrival n w.todo ++ [.inner .shootdownComplete n 0]
  | .retire _ => each .retireWaveArrival n w.todo ++ [.inner .retireWaveComplete n 0, .inner .waveCompleteMessage n 0]
  | .moduleLoss _ => each .moduleLossWaveArrival n w.todo ++ [.inner .waveCompleteMessage n 0]

/-- The events of the module as a whole; where no switch is reached a group installation has nothing to wait for (R431).
(DESIGN CHOICE, log 44.) -/
def State.moduleEvents (s : State) : List Move :=
  s.waves.flatMap (fun w => w.2.events w.1) ++
  eachOne .combineFlush (downFrom s.combine.length) ++
  eachOne .maskHoldExpiry (downFrom s.holds.length) ++
  eachOne .hostQueueDelivery ((s.hostFns.filter fun f => !f.2.waiting.isEmpty).map (·.1)) ++
  eachOne .dvfsChangeDone ((s.dies.filter fun d => d.2.target.isSome).map (·.1)) ++
  eachOne .clampRelease ((s.dies.filter fun d => d.2.clamped).map (·.1)) ++
  eachOne .suspect (s.heard.map (·.1)) ++
  eachOne .probeTimeout (s.fw.probes.map (·.1)) ++
  eachOne .membershipLossUpdate s.fw.declared ++
  eachOne .laneRotation ((List.range 48).filter fun p => s.hasLanes p) ++
  eachOne .groupInstallTimeout ((s.groups.filter fun g => g.2.busy).map (·.1)) ++
  eachOne .groupInstallAck ((s.groups.filter fun g => g.2.busy && g.2.awaits.isEmpty).map (·.1)) ++
  eachOne .portDown ((s.ports.filter fun p => p.2.up && p.2.overdue s.mod.timeNs).map (·.1)) ++
  eachOne .selfLost (s.fabricKeys.map (·.1)) ++
  [.inner .heartbeatSend 0 0]

/-- One round of everything, then one cycle. What issues comes before what arrives or falls due in the same cycle, as R281,
R284, R290, R311 and R364 have it, but for the expiry of a timer (R280); the search for context tags comes after the end of a
wave (R422). (DESIGN CHOICE, log 1 and 45.) -/
def State.plan (s : State) : List Move :=
  let arrivals := (downFrom s.net.length).filterMap fun n =>
    ((s.net[n]?).bind s.arrivalOf).map fun k => Move.inner k n 0
  s.cores.flatMap (fun k => k.2.expiries k.1) ++ s.cores.flatMap (fun k => k.2.issues k.1) ++ arrivals ++
    s.cores.flatMap (fun k => k.2.events_ k.1) ++ s.moduleEvents ++ eachOne .tagRefill (s.cores.map (·.1)) ++ [.tick 1]

/-- An event of the module's own happens: `exec` of the step of that name. (DESIGN CHOICE, log 1.) -/
def State.happen (s : State) (k : Inner) (a b : Nat) : Res :=
  if s.mod.heldReset then s.idle else
  match k with
  | .prmtArrival => execPrmtArrival a s
  | .stewardAccessArrival => execStewardAccessArrival a s
  | .messageArrival => execMessageArrival a s
  | .poolArrival => execPoolArrival a s
  | .dispatch => execDispatch a s
  | .resumption => execResumption a s
  | .sliceEnd => execSliceEnd a s
  | .stealRequestArrival => execStealRequestArrival a s
  | .stealReplyArrival => execStealReplyArrival a s
  | .counterAdvance => execCounterAdvance a s
  | .killArrival => execKillArrival a s
  | .exitSignalArrival => execExitSignalArrival a s
  | .resolutionRequest => execResolutionRequest a s
  | .resolutionAnswer => execResolutionAnswer a s
  | .spawnRequestArrival => execSpawnRequestArrival a s
  | .spawnAckArrival => execSpawnAckArrival a s
  | .spawnNameArrival => execSpawnNameArrival a s
  | .linkRequestArrival => execLinkRequestArrival a s
  | .linkAnswerArrival => execLinkAnswerArrival a s
  | .unlinkArrival => execUnlinkArrival a s
  | .replicaHashArrival => execReplicaHashArrival a s
  | .vectorOpComplete => execVectorOpComplete a s
  | .matrixOpComplete => execMatrixOpComplete a s
  | .summaryOpComplete => execSummaryOpComplete a s
  | .remoteOpArrival => execRemoteOpArrival a s
  | .remoteResponseArrival => execRemoteResponseArrival a s
  | .transferComplete => execTransferComplete a s
  | .combineFlush => execCombineFlush a s
  | .retireWaveComplete => execRetireWaveComplete a s
  | .shootdownComplete => execShootdownComplete a s
  | .waveCompleteMessage => execWaveCompleteMessage a s
  | .coreSleep => execCoreSleep a s
  | .coreWake => execCoreWake a s
  | .wakeComplete => execWakeComplete a s
  | .tagRefill => execTagRefill a s
  | .wqQueryArrival => execWqQueryArrival a s
  | .wqCloseArrival => execWqCloseArrival a s
  | .multicastArrival => execMulticastArrival a s
  | .mergedAckArrival => execMergedAckArrival a s
  | .pullReadArrival => execPullReadArrival a s
  | .reducedLineArrival => execReducedLineArrival a s
  | .maskHoldExpiry => execMaskHoldExpiry a s
  | .suspect => execSuspect a s
  | .probeTimeout => execProbeTimeout a s
  | .dvfsChangeDone => execDvfsChangeDone a s
  | .clampRelease => execClampRelease a s
  | .hostQueueDelivery => execHostQueueDelivery a s
  | .tenantCreate => execTenantCreate a s
  | .tenantDestroy => execTenantDestroy a s
  | .map => execMap a s
  | .unmap => execUnmap a s
  | .startRoot => execStartRoot a s
  | .query => execQuery a s
  | .mcastSet => execMcastSet a s
  | .mcastDel => execMcastDel a s
  | .groupCreate => execGroupCreate a s
  | .groupRead => execGroupRead a s
  | .groupDelete => execGroupDelete a s
  | .serviceBadRequest => execServiceBadRequest a s
  | .membershipLossUpdate => execMembershipLossUpdate a s
  | .budgetExhausted => execBudgetExhausted a b s
  | .stealRequest => execStealRequest a b s
  | .timerExpiry => execTimerExpiry a b s
  | .watchdogExpiry => execWatchdogExpiry a b s
  | .replyDeadlineExpiry => execReplyDeadlineExpiry a b s
  | .overflowWalkEnd => execOverflowWalkEnd a b s
  | .regionsReturned => execRegionsReturned a b s
  | .resolveTmo => execResolveTmo a b s
  | .yarrowRestartStart => execYarrowRestartStart a b s
  | .yarrowImageLoaded => execYarrowImageLoaded a b s
  | .campionTimeout => execCampionTimeout a b s
  | .outboundRelease => execOutboundRelease a b s
  | .copyComplete => execCopyComplete a b s
  | .resultArrival => execResultArrival a b s
  | .remoteTimeout => execRemoteTimeout a b s
  | .heldLandingRelease => execHeldLandingRelease a b s
  | .writeBackComplete => execWriteBackComplete a b s
  | .prefetchFill => execPrefetchFill a b s
  | .dispatchRecallDone => execDispatchRecallDone a b s
  | .retireWaveArrival => execRetireWaveArrival a b s
  | .shootdownArrival => execShootdownArrival a b s
  | .moduleLossWaveArrival => execModuleLossWaveArrival a b s
  | .wakingQuery => execWakingQuery a (BitVec.ofNat 32 b) s
  | .heartbeatSend => execHeartbeatSend s
  | .selfLost => execSelfLost a s
  | .firmwareMessage => State.firmwareIn a s
  | .groupInstallAck => s.groupAlone a
  | .groupInstallTimeout => execGroupInstallTimeout a s
  | .laneRotation => execLaneRotation a s
  | .portDown => execPortDown a s

/-- The steps of the table that are no instruction of a handler. (DESIGN CHOICE, log 44.) -/
def isEvent (i : Instr) : Bool := i.wf && (encode i).isNone

/-- What can reach a module held in reset (R441). (DEDUCED, log 43.) -/
def reachesReset : Instr → Bool
  | .moduleReset => true
  | .inputUndervoltage .. => true
  | .inputOvervoltage .. => true
  | .inputRecovery .. => true
  | _ => false

/-- An event that the agenda names may happen. (DEDUCED, log 43.) -/
def State.admitsEvent (s : State) (i : Instr) : Bool := isEvent i && (!s.mod.heldReset || reachesReset i)

/-- A place that the agenda names and the module does not have. (DESIGN CHOICE, log 46.) -/
def noSlot (core slot : Nat) : Bool := decide (coreCount ≤ core) || decide (8 ≤ slot)

/-! ### Placing one instruction -/

/-- A handler of a steward core, about to issue from local address 0x8000, with every register it may name.
(DESIGN CHOICE, log 45.) -/
def placeBase : Nat := 0x8000
/-- (DESIGN CHOICE, log 45.) -/
def placedRegion : Region := { base := placeBase, size := 0x1000, rd := true, wr := true, ex := true }

/-- The actor, the handler and the bytes that the fetch of one instruction takes, placed on steward core 65536 (R405).
(DESIGN CHOICE, log 45.) -/
def State.place (s : State) (bs : List Byte) : State :=
  let c := 65536
  let n := s.mkName c 0 1#16 { tenant := 0#12 }
  let a : Actor := { state := .live, inc := 1#16, name := n, regions := [(0, placedRegion)] }
  let h : Handler := { serial := s.nextSerial, entry := 0, status := .running 0, pc := placeBase, npc := placeBase, count := 32 }
  let s := (s.modCore c fun k => { (k.setActor 0 a) with handlers := Tab.put k.handlers 0 h }).writeBytes (localHome c placeBase) bs
  { s with nextSerial := s.nextSerial + 1, agenda := .issue c 0 :: s.agenda }

end Sys2Proof.Machine
end

