-- ==== Sys2Proof/Machine/Step.lean ====
section
/-! DEFINITION. One step of the module: the next move of its agenda, or a new agenda where that is empty. -/

namespace Sys2Proof.Machine

open Sys2Proof

/-- A move: a thread slot issues its next group (R229), an event happens, or time passes. (DESIGN CHOICE, log 1.) -/
def State.perform (s : State) : Move → Host.Outcome State Fault Refusal
  | .issue core slot =>
    if noSlot core slot then .fault .noSuchSlot
    else match s.ready core slot with
      | .idle => .next s
      | .faulted t => .next t
      | .stalled t => .next t
      | .run i t => exec i t
  | .event i => if s.admitsEvent i then exec i s else .next s
  | .inner k a b => s.happen k a b
  | .softError home lost => .next (if s.mod.heldReset then s else s.softError home lost)
  | .read r => if s.mod.heldReset then .next s else s.outRead r
  | .tick n => .next (s.tick n)

/-- One step. (DESIGN CHOICE, log 1.) -/
def step (s : State) : Host.Outcome State Fault Refusal :=
  match s.agenda with
  | [] => .next { s with agenda := s.plan }
  | m :: rest => ({ s with agenda := rest } : State).perform m

/-- The state with one instruction placed where the next step fetches. (DESIGN CHOICE, log 26 and 45.) -/
def State.withFetchWord (s : State) (nbits w : Nat) : State := s.place (wordBytes (tableWords nbits w))

end Sys2Proof.Machine
end

