-- ==== Sys2Proof/Safety.lean ====
section
/-! DEFINITION. What claims speak of: the invariant of the memory, an agenda that names places of the module, and what an
instruction leaves as it was. -/

namespace Sys2Proof.Machine

open Sys2Proof

/-- The memory has its canonical form. -/
def State.Inv (s : State) : Prop := Memory.wf s.mem

/-- Every thread slot that the agenda names exists, so that no step faults. -/
def State.AgendaOk (s : State) : Prop := ∀ core slot, Move.issue core slot ∈ s.agenda → noSlot core slot = false

/-- A run is safe while its steps answer next states. -/
def State.SafeFor : Nat → State → Prop
  | 0, _ => True
  | n + 1, s => ∃ t, step s = .next t ∧ t.SafeFor n

/-- Every byte of every memory reads as before, and is encrypted under the same key. -/
def State.SameMemory (s t : State) : Prop :=
  (∀ a, t.readHome a = s.readHome a) ∧ (∀ k a, t.physByte k a = s.physByte k a) ∧ ∀ c, (t.core c).cells = (s.core c).cells

/-- The registers of a handler but the scalar ones in `rs` and the predicates in `ps`. -/
def Handler.SameRegs (h g : Handler) (rs : List Reg) (ps : List Pred) : Prop :=
  (∀ r : Reg, r ∉ rs → g.reg r = h.reg r) ∧ (∀ p : Pred, p ∉ ps → g.pred p = h.pred p) ∧ g.shapes = h.shapes ∧ g.acc = h.acc

/-- The handler's special registers and what it waits for: context, message, control registers, landing buffer, fences. -/
def Handler.SameSpecial (h g : Handler) : Prop :=
  g.ctx = h.ctx ∧ g.slot = h.slot ∧ g.msg = h.msg ∧ g.ctl = h.ctl ∧ g.landing = h.landing ∧ g.replyName = h.replyName ∧
    g.join = h.join ∧ g.fresh = h.fresh ∧ g.handed = h.handed ∧ g.fences = h.fences ∧ g.count = h.count

/-- What lies outside the current handler and the counters: actors, other handlers, queues and tables of every core, and the
module's tables. -/
def State.SameAround (s t : State) : Prop :=
  t.cur = s.cur ∧ (∀ c, c ≠ s.cur.core → t.core c = s.core c) ∧
    (∀ r, r ≠ s.cur.rec_ → Tab.get? t.here.handlers r = Tab.get? s.here.handlers r) ∧
    t.here.actors = s.here.actors ∧ t.here.queue = s.here.queue ∧ t.here.joins = s.here.joins ∧ t.here.links = s.here.links ∧
    t.here.monitors = s.here.monitors ∧ t.here.windows = s.here.windows ∧ t.here.timers = s.here.timers ∧
    t.here.outq = s.here.outq ∧ t.here.ctxMap = s.here.ctxMap ∧ t.net = s.net ∧ t.mgates = s.mgates ∧ t.hbmKeys = s.hbmKeys ∧
    t.fabricKeys = s.fabricKeys ∧ t.groups = s.groups ∧ t.members = s.members ∧ t.hostFns = s.hostFns ∧ t.fw = s.fw ∧
    t.boot = s.boot ∧ t.mod = s.mod ∧ t.waves = s.waves ∧ t.out = s.out

/-- The frame of an instruction that writes scalar registers `rs` and predicates `ps` and nothing else. -/
def State.RegFrame (s t : State) (rs : List Reg) (ps : List Pred) : Prop :=
  s.hd.SameRegs t.hd rs ps ∧ s.hd.SameSpecial t.hd ∧ t.hd.flags = s.hd.flags ∧ s.SameMemory t ∧ s.SameAround t

/-- Every register an instruction names lies below the declared count (R18). -/
def State.names (s : State) (rs : List Reg) : Prop := s.hd.named (rs.map BitVec.toNat) = true

/-- A scalar result: s[A] takes a value and the group retires. -/
def State.gives (s : State) (a : Reg) (v : Word) : Res := .next (s.setReg a v).retire

/-- A predicate result. -/
def State.givesPred (s : State) (p : Pred) (v : Bool) : Res := .next (s.setPred p v).retire

/-- A scalar result that raises flags (R157). -/
def State.givesFlags (s : State) (a : Reg) (v : Word) (f : BitVec 6) : Res := .next ((s.setReg a v).arith f).retire

/-- The low bits of a word at a width, sign-extended and zero-extended (R231). -/
def sextAt (w : OpWidth) (v : Word) : Word :=
  match w with
  | .w64 => v
  | .w32 => (v.setWidth 32).signExtend 64
  | .w16 => (v.setWidth 16).signExtend 64
  | .w8 => (v.setWidth 8).signExtend 64
def zextAt (w : OpWidth) (v : Word) : Word :=
  match w with
  | .w64 => v
  | .w32 => (v.setWidth 32).setWidth 64
  | .w16 => (v.setWidth 16).setWidth 64
  | .w8 => (v.setWidth 8).setWidth 64

/-- The shift amount of a register form. -/
def shiftAt (w : OpWidth) (y : Word) : Nat := y.toNat % widthBits w

/-- The frame of an instruction whose flags it may raise. -/
def State.FlagFrame (s t : State) (rs : List Reg) (ps : List Pred) (f : BitVec 6) : Prop :=
  s.hd.SameRegs t.hd rs ps ∧ s.hd.SameSpecial t.hd ∧ t.hd.flags = s.hd.flags ||| f ∧ s.SameMemory t ∧ s.SameAround t

/-- The step answers a next state of which `P` holds. -/
def Runs (i : Instr) (s : State) (P : State → Prop) : Prop := ∃ t, exec i s = .next t ∧ P t

/-- The frame of an instruction of a handler that stores nothing: registers but those named, flags and what the handler waits
for stay, and every byte of every memory reads as before. -/
def State.Quiet (s t : State) (rs : List Reg) (ps : List Pred) : Prop :=
  s.hd.SameRegs t.hd rs ps ∧ t.hd.flags = s.hd.flags ∧ t.hd.ctl = s.hd.ctl ∧ t.hd.msg = s.hd.msg ∧
    (∀ a, t.readHome a = s.readHome a) ∧ t.boot = s.boot ∧ t.fw = s.fw ∧ t.hostFns = s.hostFns

/-- The actor of the current handler sends control packets: a secondary does not (R87). -/
def State.speaks (s : State) : Prop := ∀ c e, s.self.role ≠ .secondary c e

/-- A packet is on its way within the module: on the mesh, or in the outbound queue of the current core. -/
def State.Carries (t : State) (p : Packet) : Prop := p ∈ t.net ∨ ∃ e ∈ t.here.outq, e.body.packet? = some p

/-- No hash of the secondary waits for the next operation of a replicated actor (R87). -/
def State.unhashed (s : State) : Prop := ∀ x ∈ s.here.hashes, x.1 = s.hd.entry → x.2.1 ≠ s.self.outN

/-- What the current handler sends within the module has set out: an ordinary actor's packet is on its way, a primary's is held
for Campion, and of a secondary's its hash is on its way (R87, R193). -/
def State.SetsOut (s t : State) (p : Packet) : Prop :=
  match s.self.role with
  | .none => t.Carries p
  | .primary _ _ => ∃ c ∈ t.here.campion, c.entry = s.hd.entry ∧ c.n = s.self.outN ∧ c.out.body.packet? = some p
  | .secondary _ _ => .hash s.self.name s.self.outN (hash6 p.words) ∈ t.net

/-- No word of some bytes has an error that cannot be corrected, nor has their line (R97). -/
def State.Sound (s : State) (home n : Nat) : Prop := ∀ a, home ≤ a → a < home + n → ∀ w ∈ s.badWords, w / 8 ≠ a / 64

/-- No fence, no release, no waiting store and no earlier remote write holds back a write of `n` bytes of the current handler
(R186, R196, R197, R252). -/
def State.Unheld (s : State) (o : MemOrd) (r : Region) (addr n : Nat) : Prop :=
  let k := s.here
  let sp : Span := { home := localHome s.cur.core addr, len := n }
  (∀ c ∈ s.hd.fences ++ ((relOf o).map fun sc => (sc, k.seq)).toList,
    k.writePending s.mod.timeNs s.cur.core s.self.name s.hd.serial c.1 c.2 = false) ∧
  k.storeHeld s.cur.core s.self.name s.hd.serial k.seq (if r.tagged then sp.lines else sp) = false ∧
  s.remoteMeets s.cur.core s.self.name s.hd.serial k.seq sp = false

/-- An instruction ends as the store buffer answers its store: a full eviction buffer stalls its group with the evictions made
(R55, R127, R252). -/
def State.EndsAs (s : State) (i : Instr) (put : Got) : Prop :=
  (∀ t, put = .ok t → exec i s = .next t.retire) ∧ (put = .noCell → exec i s = .next (s.takeFault .cellfull)) ∧
    (∀ t, put = .full t → exec i s = .next (s.stallFull t))

/-- A reply wait of the current handler's actor on a peer. -/
def State.waitsFor (s t : State) (peer : Name) (us : Nat) : Prop :=
  (us = 0 ∨ Tab.lowestFree s.here.waits 64 = none → t.here.waits = s.here.waits) ∧ (us ≠ 0 → ∀ k, Tab.lowestFree s.here.waits 64 = some k →
    ∃ w, Tab.get? t.here.waits k = some w ∧ w.owner = s.hd.entry ∧ w.peer = peer ∧ w.expiry = s.mod.timeNs + 1000 * us)

/-- The cells a copy's destination needs, and those of the result line that a multicast asks for (R127, R306). -/
def State.reserveFor (s : State) (k : CopyKind) (d : CopyDesc) : Got :=
  match s.extent d.dk d.dst (dstLen k d) .wr with
  | .span _ (some (h, r)) => s.reserveView s.hdView h r d.dst (dstLen k d)
  | _ =>
    if k = .mcst ∧ d.res ≠ 0 then
      match s.checkLocal s.cur.core s.hd.entry d.res 64 .wr 64 with
      | .ok (h, r) => s.reserveView s.hdView h r d.res 64
      | .error _ => .ok s
    else .ok s

/-- Nothing keeps a descriptor form from issuing (R298 to R300): its descriptor passes the checks, its extents lie in the
actor's regions, apart from each other and from queued operations, the bytes that a multicast takes at issue may be read, and
its cells are reserved in `t`. -/
def State.CopyReady (s : State) (k : CopyKind) (bs : List Byte) (d : CopyDesc) (t : State) : Prop :=
  let src := s.extent d.sk d.src (srcLen k d) .rd
  let dst := s.extent d.dk d.dst (dstLen k d) .wr
  descKinds k (readDesc bs) = true ∧ descReservedOk k bs (readDesc bs) = true ∧
    (d.msg = true → cwChan d.ccw ≠ 0#2 ∨ isSteward s.cur.core = true) ∧ (d.ljc = true → s.here.joinOf d.lj s.self.name = true) ∧
    (∀ f, src ≠ .bad f) ∧ (∀ f, dst ≠ .bad f) ∧ (∀ a b, src.span? = some a → dst.span? = some b → a.overlaps b = false) ∧
    (∀ sp ∈ src.locked ++ dst.locked, s.here.interlocked s.self.name s.hd.serial sp = false) ∧
    (k = .mcst → s.readHeld d.src d.len = false) ∧ s.reserveFor k d = .ok t

/-- What an actor that has died of a cause looks like: EXITING with the cause, and no handler of it left (R66, R69). -/
def State.Exits (t : State) (core entry : Nat) (cls : DeathClass) (detail : BitVec 8) (w2 : Word) : Prop :=
  (t.actor core entry).state = .exiting ∧ (t.actor core entry).death = some { cls := cls, detail := detail, w2 := w2 } ∧
    (∀ r h, Tab.get? (t.core core).handlers r = some h → h.entry ≠ entry) ∧ ∀ w ∈ (t.core core).windows, w.2.live = true → w.2.owner ≠ entry

/-- The service takes the message at place `n` as a request of a code, the module not in recovery (R400, R407). -/
def State.Serves (s : State) (n : Nat) (m : Msg) (code : Nat) : Prop :=
  s.serviceMsg n = some m ∧ m.proper = true ∧ m.code = code ∧ s.boot.state ≠ .recovery ∧ m.a0Reserved = false

/-- The service's answer to a request is on its way to a sender of this module (R400, R421). -/
def State.Answers (s t : State) (m : Msg) (status : Nat) (a1 a2 a3 : Word) : Prop :=
  s.isLocal m.sender = true → .msg (m.answer status a1 a2 a3) ∈ t.net

/-- Fetching the words at `pc` behind those of `pre` gives `ws`, each but the last leaving the group open, and the state `t`. -/
def State.Fetches (s : State) (pc : Nat) (pre : List Half) : List Half → State → Prop
  | [], t => t = s
  | w :: rest, t => ∃ u, s.fetchWord (pc + 2 * pre.length) = .word u w ∧ (rest ≠ [] → decode (pre ++ [w]) = .more) ∧
      u.Fetches pc (pre ++ [w]) rest t

/-- Memory outside `n` bytes from a home address reads as before. -/
def State.SameOutside (s t : State) (home n : Nat) : Prop := ∀ a, a < home ∨ home + n ≤ a → t.readHome a = s.readHome a

/-- What a scalar form writes and names: destinations in scalar registers and predicates, and the registers it names. -/
def scalarForm : Instr → Option (List Reg × List Pred × List Reg)
  | .add a b c _ | .sub a b c _ | .and a b c _ | .or a b c _ | .xor a b c _ | .shl a b c _ | .shr a b c _ | .sra a b c _
  | .mul a b c _ | .mulh a b c _ | .mulhu a b c _ | .rngd a b c => some ([a], [], [a, b, c])
  | .clz a b _ | .ctz a b _ | .popc a b _ | .extu a b _ _ | .exts a b _ _ | .ins a b _ _ | .sel a b _ => some ([a], [], [a, b])
  | .addi a _ | .andi a _ | .shli a _ | .shri a _ | .srai a _ | .li a _ | .ori a _ | .xori a _ => some ([a], [], [a])
  | .cmp _ p b c | .cmpu _ p b c | .fcmp _ p b c | .dcmp _ p b c => some ([], [p], [b, c])
  | .plog _ p _ _ => some ([], [p], [])
  | .br _ | .brp _ _ | .brpF _ _ | .nop => some ([], [], [])
  | .call _ => some ([1#5], [], [])
  | _ => none

/-- The arithmetic forms, which may also raise flags. -/
def flagForm : Instr → Option (Reg × List Reg)
  | .div a b c _ | .divu a b c _ | .rem a b c _ | .remu a b c _ | .fadd a b c | .fsub a b c | .fmul a b c | .fma a b c
  | .fdiv a b c | .fmin a b c | .fmax a b c | .dadd a b c | .dsub a b c | .dmul a b c | .dfma a b c | .ddiv a b c
  | .dmin a b c | .dmax a b c => some (a, [a, b, c])
  | .fsqrt a b | .dsqrt a b | .fcvt _ a b => some (a, [a, b])
  | _ => none

end Sys2Proof.Machine
end

