-- ==== Sys2Proof/Certificates/Slice0/Obligations.lean ====
section
/-! DEFINITION. The statements about the Z-65 for the provers. -/

open Sys2Proof Sys2Proof.Machine

/-! ### The scalar pipeline (chapter 11) -/

/-- R232: the register forms of arithmetic, logic and shifts, at every width: s[A] takes the w-bit result, extended. -/
def Rules.IntegerForms : Prop := ∀ (s : State) (a b c : Reg) (w : OpWidth), s.names [a, b, c] →
  let x := s.reg b
  let y := s.reg c
  let k := shiftAt w y
  exec (.add a b c w) s = s.gives a (sextAt w (x + y)) ∧
  exec (.sub a b c w) s = s.gives a (sextAt w (x - y)) ∧
  exec (.and a b c w) s = s.gives a (sextAt w (x &&& y)) ∧
  exec (.or a b c w) s = s.gives a (sextAt w (x ||| y)) ∧
  exec (.xor a b c w) s = s.gives a (sextAt w (x ^^^ y)) ∧
  exec (.shl a b c w) s = s.gives a (sextAt w (x <<< k)) ∧
  exec (.shr a b c w) s = s.gives a (zextAt w x >>> k) ∧
  exec (.sra a b c w) s = s.gives a ((sextAt w x).sshiftRight k) ∧
  exec (.mul a b c w) s = s.gives a (sextAt w (x * y)) ∧
  exec (.mulh a b c w) s = s.gives a (BitVec.ofInt 64 ((sextAt w x).toInt * (sextAt w y).toInt / 2 ^ widthBits w)) ∧
  exec (.mulhu a b c w) s = s.gives a (BitVec.ofNat 64 ((zextAt w x).toNat * (zextAt w y).toNat / 2 ^ widthBits w))

/-- R233: division at every width, with division by zero (DZ) and the overflow of the most negative number (OF). -/
def Obligations.DivisionForms : Prop := ∀ (s : State) (a b c : Reg) (w : OpWidth), s.names [a, b, c] →
  let x := s.reg b
  let y := s.reg c
  let zero := zextAt w y = 0#64
  let excess := sextAt w y = -1#64 ∧ sextAt w x = sextAt w (BitVec.ofNat 64 (2 ^ (widthBits w - 1)))
  (zero → exec (.div a b c w) s = s.givesFlags a (-1#64) fDZ ∧
    exec (.divu a b c w) s = s.givesFlags a (zextAt w (-1#64)) fDZ ∧
    exec (.rem a b c w) s = s.givesFlags a (sextAt w x) fDZ ∧
    exec (.remu a b c w) s = s.givesFlags a (zextAt w x) fDZ) ∧
  (excess → exec (.div a b c w) s = s.givesFlags a (sextAt w x) fOF ∧ exec (.rem a b c w) s = s.givesFlags a 0#64 fOF) ∧
  (¬zero → ¬excess →
    exec (.div a b c w) s = s.gives a (BitVec.ofInt 64 ((sextAt w x).toInt.tdiv (sextAt w y).toInt)) ∧
    exec (.rem a b c w) s = s.gives a (BitVec.ofInt 64 ((sextAt w x).toInt.tmod (sextAt w y).toInt))) ∧
  (¬zero → exec (.divu a b c w) s = s.gives a (BitVec.ofNat 64 ((zextAt w x).toNat / (zextAt w y).toNat)) ∧
    exec (.remu a b c w) s = s.gives a (zextAt w x % zextAt w y))

/-- R232: CLZ, CTZ and POPC count the leading zeros, trailing zeros and ones of the low w bits. -/
def Rules.BitCounts : Prop := ∀ (s : State) (a b : Reg) (w : OpWidth), s.names [a, b] →
  let x := zextAt w (s.reg b)
  let n := widthBits w
  (∃ k ≤ n, exec (.clz a b w) s = s.gives a (BitVec.ofNat 64 k) ∧ x.toNat < 2 ^ (n - k) ∧ (k < n → 2 ^ (n - k - 1) ≤ x.toNat)) ∧
  (∃ k ≤ n, exec (.ctz a b w) s = s.gives a (BitVec.ofNat 64 k) ∧ (∀ i < k, x.getLsbD i = false) ∧
    (k < n → x.getLsbD k = true)) ∧
  exec (.popc a b w) s = s.gives a (BitVec.ofNat 64 ((List.range n).countP fun i => x.getLsbD i))

/-- R234: the immediate forms on 64 bits; a shift takes the low six bits of the immediate. -/
def Rules.ImmediateForms : Prop := ∀ (s : State) (a : Reg) (imm : Word), s.names [a] →
  let x := s.reg a
  let k := imm.toNat % 64
  exec (.addi a imm) s = s.gives a (x + imm) ∧ exec (.andi a imm) s = s.gives a (x &&& imm) ∧
  exec (.ori a imm) s = s.gives a (x ||| imm) ∧ exec (.xori a imm) s = s.gives a (x ^^^ imm) ∧
  exec (.shli a imm) s = s.gives a (x <<< k) ∧ exec (.shri a imm) s = s.gives a (x >>> k) ∧
  exec (.srai a imm) s = s.gives a (x.sshiftRight k) ∧ exec (.li a imm) s = s.gives a imm

/-- R235 to R237: comparisons of 64-bit values into a predicate, selection by a predicate, logic of predicates. -/
def Obligations.PredicateForms : Prop := ∀ (s : State) (a b c : Reg) (p q r : Pred),
  let x := s.reg b
  let y := s.reg c
  (s.names [b, c] →
    exec (.cmp .eq p b c) s = s.givesPred p (decide (x = y)) ∧ exec (.cmp .ne p b c) s = s.givesPred p (decide (x ≠ y)) ∧
    exec (.cmp .lt p b c) s = s.givesPred p (decide (x.toInt < y.toInt)) ∧
    exec (.cmp .ge p b c) s = s.givesPred p (decide (y.toInt ≤ x.toInt)) ∧
    exec (.cmpu .ltu p b c) s = s.givesPred p (decide (x.toNat < y.toNat)) ∧
    exec (.cmpu .geu p b c) s = s.givesPred p (decide (y.toNat ≤ x.toNat))) ∧
  (s.names [a, b] → exec (.sel a b p) s = if s.pred p then s.gives a x else .next s.retire) ∧
  exec (.plog .and p q r) s = s.givesPred p (s.pred q && s.pred r) ∧
  exec (.plog .or p q r) s = s.givesPred p (s.pred q || s.pred r) ∧
  exec (.plog .xor p q r) s = s.givesPred p (s.pred q ^^ s.pred r) ∧
  exec (.plog .andn p q r) s = s.givesPred p (s.pred q && !s.pred r)

/-- R238: a field of s[B] zero- or sign-extended, and a field of s[A] replaced, its length cut at bit 63. -/
def Rules.BitFields : Prop := ∀ (s : State) (a b : Reg) (pos len : BitVec 6), s.names [a, b] →
  let p := pos.toNat
  let n := min (len.toNat + 1) (64 - p)
  exec (.extu a b pos len) s = s.gives a ((s.reg b <<< (64 - n - p)) >>> (64 - n)) ∧
  exec (.exts a b pos len) s = s.gives a ((s.reg b <<< (64 - n - p)).sshiftRight (64 - n)) ∧
  ∃ v, exec (.ins a b pos len) s = s.gives a v ∧
    ∀ i < 64, v.getLsbD i = if p ≤ i ∧ i < p + n then (s.reg b).getLsbD (i - p) else (s.reg a).getLsbD i

/-- Integer arithmetic in every form: register, immediate, bit-field and bit-count forms. -/
def Obligations.IntegerArithmetic : Prop := Rules.IntegerForms ∧ Rules.ImmediateForms ∧ Rules.BitCounts ∧ Rules.BitFields

/-- R239, R240, R242: FP32 arithmetic, each result rounded once, with its flags. -/
def Rules.Fp32Forms : Prop := ∀ (s : State) (a b c : Reg), s.names [a, b, c] →
  let x := fp32.read (s.reg b).toNat
  let y := fp32.read (s.reg c).toNat
  let put (r : FRes) : Res := s.givesFlags a (BitVec.ofNat 64 r.1) r.2
  exec (.fadd a b c) s = put (fp32.put (x.add y)) ∧ exec (.fsub a b c) s = put (fp32.put (x.add y.neg)) ∧
  exec (.fmul a b c) s = put (fp32.put (x.mul y)) ∧
  exec (.fma a b c) s = put (fp32.put ((fp32.read (s.reg a).toNat).fma x y)) ∧
  exec (.fdiv a b c) s = put (fp32.div x y) ∧ exec (.fsqrt a b) s = put (fp32.sqrt x) ∧
  exec (.fmin a b c) s = put (fp32.minMax false ((s.reg b).toNat % 2 ^ 32) ((s.reg c).toNat % 2 ^ 32), 0#6) ∧
  exec (.fmax a b c) s = put (fp32.minMax true ((s.reg b).toNat % 2 ^ 32) ((s.reg c).toNat % 2 ^ 32), 0#6)

/-- R239, R242: FP64 arithmetic, each result rounded once, with its flags. -/
def Rules.Fp64Forms : Prop := ∀ (s : State) (a b c : Reg), s.names [a, b, c] →
  let x := fp64.read (s.reg b).toNat
  let y := fp64.read (s.reg c).toNat
  let put (r : FRes) : Res := s.givesFlags a (BitVec.ofNat 64 r.1) r.2
  exec (.dadd a b c) s = put (fp64.put (x.add y)) ∧ exec (.dsub a b c) s = put (fp64.put (x.add y.neg)) ∧
  exec (.dmul a b c) s = put (fp64.put (x.mul y)) ∧
  exec (.dfma a b c) s = put (fp64.put ((fp64.read (s.reg a).toNat).fma x y)) ∧
  exec (.ddiv a b c) s = put (fp64.div x y) ∧ exec (.dsqrt a b) s = put (fp64.sqrt x) ∧
  exec (.dmin a b c) s = put (fp64.minMax false (s.reg b).toNat (s.reg c).toNat, 0#6) ∧
  exec (.dmax a b c) s = put (fp64.minMax true (s.reg b).toNat (s.reg c).toNat, 0#6)

/-- R241, R243: floating-point comparisons set no flag and compare -0 with +0 as equal; FCVT converts by its code. -/
def Rules.FpCompareConvert : Prop := ∀ (s : State) (a b c : Reg) (p : Pred) (cond : FCond) (code : BitVec 4),
  (s.names [b, c] →
    exec (.fcmp cond p b c) s = s.givesPred p (Machine.FCond.holds cond (fp32.read (s.reg b).toNat) (fp32.read (s.reg c).toNat)) ∧
    exec (.dcmp cond p b c) s = s.givesPred p (Machine.FCond.holds cond (fp64.read (s.reg b).toNat) (fp64.read (s.reg c).toNat))) ∧
  (s.names [a, b] →
    let f := fcvtFormats code
    let r := convert f.1 f.2 (s.reg b).toNat
    exec (.fcvt code a b) s = s.givesFlags a (f.2.toReg r.1) r.2) ∧
  (Machine.FCond.holds .eq (fp32.read 0x80000000) (fp32.read 0) = true ∧ Machine.FCond.holds .eq (fp64.read 0x8000000000000000) (fp64.read 0) = true)

/-- FP32 and FP64 arithmetic, comparison and conversion. -/
def Obligations.FloatingPoint : Prop := Rules.Fp32Forms ∧ Rules.Fp64Forms ∧ Rules.FpCompareConvert

/-- R244 to R246: where a branch, call or jump goes; CALL writes lk with the address behind its group, and CALLR reads its
target first. -/
def Rules.Branches : Prop := ∀ (s : State) (b : Reg) (p : Pred) (off : Word),
  let near := (BitVec.ofNat 64 s.hd.pc + 2 * off).toNat
  let behind := BitVec.ofNat 64 s.hd.npc
  Runs (.br off) s (fun t => t.hd.pc = near) ∧
  Runs (.call off) s (fun t => t.hd.pc = near ∧ t.reg 1#5 = behind) ∧
  Runs (.brp p off) s (fun t => t.hd.pc = if s.pred p then near else s.hd.npc) ∧
  Runs (.brpF p off) s (fun t => t.hd.pc = if s.pred p then s.hd.npc else near) ∧
  (s.names [b] → (s.reg b).toNat < 2 ^ 32 → (s.reg b).getLsbD 0 = false →
    Runs (.jr b) s (fun t => t.hd.pc = (s.reg b).toNat) ∧
    Runs (.callr b) s (fun t => t.hd.pc = (s.reg b).toNat ∧ t.reg 1#5 = behind)) ∧
  (s.names [b] → 2 ^ 32 ≤ (s.reg b).toNat → exec (.jr b) s = .next (s.takeFault .bounds) ∧
    exec (.callr b) s = .next (s.takeFault .bounds)) ∧
  (s.names [b] → (s.reg b).toNat < 2 ^ 32 → (s.reg b).getLsbD 0 = true → exec (.jr b) s = .next (s.takeFault .align) ∧
    exec (.callr b) s = .next (s.takeFault .align)) ∧
  (∀ x y : BitVec 5,
    decode [mkWord 0x2E#6 x y] = .instr (if x = 0#5 then .jr y else .unassignedEncoding) 1 ∧
    decode [mkWord 0x2F#6 x y] = .instr (if x = 0#5 then .callr y else .unassignedEncoding) 1 ∧
    (∀ (pre : List Half) (i : Instr) (n : Nat), pre ≠ [] → (∀ w ∈ pre, fMajor w = 0x3C#6 ∨ fMajor w = 0x3D#6) →
      (decode (pre ++ [mkWord 0x2E#6 x y]) = .instr i n ∨ decode (pre ++ [mkWord 0x2F#6 x y]) = .instr i n) → i = .unassignedEncoding))

/-- R248, R34: at DONE the handler's record and slot are free, memory is as it was, and a pending write of MBOX is in force. -/
def Rules.DoneEnds : Prop := ∀ s : State, Runs .done s fun t =>
  Tab.get? t.here.handlers s.cur.rec_ = none ∧ (∀ a, t.readHome a = s.readHome a) ∧
    ∀ w, s.hd.mboxPending = some w → (t.actor s.cur.core s.hd.entry).mbox = w

/-- Branches, calls and the end of a handler. -/
def Obligations.BranchesAndDone : Prop := Rules.Branches ∧ Rules.DoneEnds

/-- R228, R349: an unassigned encoding is an ILLEGAL fault; RNGD draws by key and counter, without state of its own. -/
def Rules.IllegalAndDraw : Prop := ∀ (s : State) (a b c : Reg),
  exec .unassignedEncoding s = .next (s.takeFault .illegal) ∧
  (s.names [a, b, c] → exec (.rngd a b c) s = s.gives a (mix64 (s.reg b ^^^ mix64 (s.reg c + 1))))

/-- The frame of the scalar forms that raise no flag: only their destination changes. -/
def Rules.ScalarFrame : Prop := ∀ (i : Instr) (s t : State) (rs : List Reg) (ps : List Pred) (ns : List Reg),
  scalarForm i = some (rs, ps, ns) → s.names ns → exec i s = .next t → s.RegFrame t rs ps

/-- The frame of the arithmetic forms: only their destination and the sticky flags change, and no flag is lost. -/
def Rules.ArithmeticFrame : Prop := ∀ (i : Instr) (s t : State) (a : Reg) (ns : List Reg),
  flagForm i = some (a, ns) → s.names ns → exec i s = .next t → ∃ f, s.FlagFrame t [a] [] f

/-- What scalar and arithmetic forms leave as it was. -/
def Obligations.ScalarFrames : Prop := Rules.ScalarFrame ∧ Rules.ArithmeticFrame

/-- R18: a scalar form that names a register at or beyond the declared count takes a REGBOUND fault and has no effect. -/
def Rules.RegisterBound : Prop := ∀ (s : State) (a b c : Reg) (w : OpWidth), ¬ s.names [a, b, c] →
  exec (.add a b c w) s = .next (s.takeFault .regbound) ∧ exec (.mul a b c w) s = .next (s.takeFault .regbound) ∧
  exec (.div a b c w) s = .next (s.takeFault .regbound) ∧ exec (.fadd a b c) s = .next (s.takeFault .regbound) ∧
  exec (.dfma a b c) s = .next (s.takeFault .regbound) ∧ exec (.rngd a b c) s = .next (s.takeFault .regbound)

/-- Encodings that name nothing, draws, and registers beyond the declared count. -/
def Obligations.IllegalAndBounds : Prop := Rules.IllegalAndDraw ∧ Rules.RegisterBound

/-! ### Local memory, contexts, landing (chapter 12) -/

/-- R250, R251: a load whose extent passes the checks writes its bytes, little-endian and zero-extended, and changes no other
register and no byte; one whose checks fail takes the fault of R94; one that must wait stalls. -/
def Obligations.Loads : Prop := ∀ (s : State) (a b : Reg) (off : Word) (o : MemOrd), s.names [a, b] →
  let good (i : Instr) (n : Nat) : Prop :=
    (∀ addr h r, s.access (s.ea b off) n .rd = .at_ addr h r → Runs i s fun t =>
      (a ≠ 0#5 → t.reg a = BitVec.ofNat 64 (leNat (s.localRead s.hdView h r addr n))) ∧ s.Quiet t [a] []) ∧
    (∀ c, s.access (s.ea b off) n .rd = .fault c → exec i s = .next (s.takeFault c)) ∧
    (s.access (s.ea b off) n .rd = .wait → exec i s = .next s.stall)
  good (.ldB a b off o) 1 ∧ good (.ldH a b off o) 2 ∧ good (.ldW a b off o) 4 ∧ good (.ldD a b off o) 8

/-- R252, R96, R97: a store to an untagged region that nothing holds back writes the low bytes of s[A], little-endian, and no
other byte, at every ordering, where the line has no word that ECC cannot correct; every store ends as the store buffer answers,
takes the fault of its checks, or stalls where it must wait. -/
def Obligations.Stores : Prop := ∀ (s : State) (a b : Reg) (off : Word) (o : MemOrd), s.names [a, b] →
  let good (i : Instr) (n : Nat) : Prop :=
    (∀ addr h r, s.access (s.ea b off) n .wr = .at_ addr h r →
      s.EndsAs i (s.localStore s.hdView h r addr (leBytes n (s.reg a).toNat) (relOf o)) ∧
      (r.tagged = false → s.Unheld o r addr n → s.Sound (localHome s.cur.core addr) n →
        Runs i s fun t => t.readBytes (localHome s.cur.core addr) n = leBytes n (s.reg a).toNat ∧
          s.SameOutside t (localHome s.cur.core addr) n ∧ s.hd.SameRegs t.hd [] [] ∧ t.hd.flags = s.hd.flags)) ∧
    (∀ c, s.access (s.ea b off) n .wr = .fault c → exec i s = .next (s.takeFault c)) ∧
    (s.access (s.ea b off) n .wr = .wait → exec i s = .next s.stall)
  good (.stB a b off o) 1 ∧ good (.stH a b off o) 2 ∧ good (.stW a b off o) 4 ∧ good (.stD a b off o) 8

/-- R255: LDX loads in the view of the id in s[C], whichever it is: it writes the bytes to s[A] and changes no other register and no
byte; an id whose records were not recalled is CELLFULL, what is no id is BOUNDS, and the checks of R94 give their fault. -/
def Rules.ContextLoads : Prop := ∀ (s : State) (size : Size) (a b c : Reg) (off : Word) (o : MemOrd), s.names [a, b, c] →
  let n := sizeBytes size
  let i : Instr := .ldx size a b c off o
  (∀ f, s.checkLocal s.cur.core s.hd.entry (s.ea b off) n .rd n = .error f → exec i s = .next (s.takeFault f)) ∧
  (ctxOperand (s.reg c) = none → ∀ x, s.checkLocal s.cur.core s.hd.entry (s.ea b off) n .rd n = .ok x →
    exec i s = .next (s.takeFault .bounds)) ∧
  (∀ x, ctxOperand (s.reg c) = some x → s.access (s.ea b off) n .rd = .wait → exec i s = .next s.stall) ∧
  (∀ x addr h r, ctxOperand (s.reg c) = some x → s.access (s.ea b off) n .rd = .at_ addr h r →
    (s.notRecalled r x = true → exec i s = .next (s.takeFault .cellfull)) ∧
    (s.notRecalled r x = false → Runs i s fun t =>
      (a ≠ 0#5 → t.reg a = BitVec.ofNat 64 (leNat (s.localRead (s.viewOf x) h r addr n))) ∧ s.Quiet t [a] []))

/-- R256: STX stores to a region with PRIVX in the view of the id in s[C]: the base view for an untagged region or id 0, the
handler's own for CTX, and else that of the slot which maps the id, mapped for it where it is not. It ends as the store buffer answers
there; in the base view, where nothing holds it back, the bytes are written and no other. Without PRIVX, or where s[C] is no id, it is
BOUNDS; an id not recalled or without a slot is CELLFULL. -/
def Rules.ContextStores : Prop := ∀ (s : State) (size : Size) (a b c : Reg) (off : Word) (o : MemOrd), s.names [a, b, c] →
  let n := sizeBytes size
  let i : Instr := .stx size a b c off o
  let bs := leBytes n (s.reg a).toNat
  (∀ f, s.access (s.ea b off) n .wr = .fault f → exec i s = .next (s.takeFault f)) ∧
  (s.access (s.ea b off) n .wr = .wait → exec i s = .next s.stall) ∧
  ∀ addr h r, s.access (s.ea b off) n .wr = .at_ addr h r →
    (ctxOperand (s.reg c) = none → exec i s = .next (s.takeFault .bounds)) ∧
    ∀ x, ctxOperand (s.reg c) = some x →
      (r.privx = false → exec i s = .next (s.takeFault .bounds)) ∧
      (r.privx = true → s.notRecalled r x = true → exec i s = .next (s.takeFault .cellfull)) ∧
      (r.privx = true → s.notRecalled r x = false →
        (r.tagged = false ∨ x = 0#32 → s.EndsAs i (s.localStore (baseView s.cur.core s.hd.entry) h r addr bs (relOf o)) ∧
          (s.Unheld o r addr n → s.Sound (localHome s.cur.core addr) n → Runs i s fun t =>
            t.readBytes (localHome s.cur.core addr) n = bs ∧ s.SameOutside t (localHome s.cur.core addr) n ∧
            s.hd.SameRegs t.hd [] [] ∧ t.hd.flags = s.hd.flags)) ∧
        (r.tagged = true → x ≠ 0#32 → x = s.hd.ctx → s.EndsAs i (s.localStore s.hdView h r addr bs (relOf o))) ∧
        (r.tagged = true → x ≠ 0#32 → x ≠ s.hd.ctx →
          (s.here.mapCtx x = none → exec i s = .next ((s.countHere 0x061).takeFault .cellfull)) ∧
          ∀ k slot, s.here.mapCtx x = some (k, slot) → s.EndsAs i ((s.setCore s.cur.core k).localStore
            { core := s.cur.core, entry := s.hd.entry, ctx := x, slot := slot } h r addr bs (relOf o))))

/-- LDX and STX: loads and stores in the view of a named context. -/
def Obligations.ContextLoadsStores : Prop := Rules.ContextLoads ∧ Rules.ContextStores

/-- R254, R96, R97: an atomic on a dword of an untagged region that nothing holds back reads it and writes by its kind, as one
step, at every ordering, where its line has no word that ECC cannot correct; s[A] takes the old value, and no other byte and no other
register changes. One whose checks fail takes the fault of R94, one that must wait stalls. -/
def Obligations.LocalAtomics : Prop := ∀ (s : State) (a b c : Reg) (off : Word) (o : MemOrd), s.names [a, b, c] →
  let good (i : Instr) (f : Word → Word) : Prop :=
    (∀ addr h r, s.access (s.ea b off) 8 .rw = .at_ addr h r → r.tagged = false → s.Unheld o r addr 8 →
      s.Sound (localHome s.cur.core addr) 8 →
      let home := localHome s.cur.core addr
      let m := BitVec.ofNat 64 (leNat (s.readBytes home 8))
      Runs i s fun t => (a ≠ 0#5 → t.reg a = m) ∧ t.readBytes home 8 = leBytes 8 (f m).toNat ∧ s.SameOutside t home 8 ∧
        s.hd.SameRegs t.hd [a] [] ∧ t.hd.flags = s.hd.flags) ∧
    (∀ x, s.access (s.ea b off) 8 .rw = .fault x → exec i s = .next (s.takeFault x)) ∧
    (s.access (s.ea b off) 8 .rw = .wait → exec i s = .next s.stall)
  good (.aadd a b c off o) (fun m => m + s.reg c) ∧ good (.aswp a b c off o) (fun _ => s.reg c) ∧
    good (.acas a b c off o) (fun m => if m = s.reg c then s.reg a else m)

/-- R258 to R260, R262, R119: CTXNEW hands out a reserved id, or takes BOUNDS without one; CTXPF answers whether the id's records are
here and starts their recall where they are not; CTXSET moves CTX where the id's records are here and it can be mapped, and else leaves
it; CTXQ reads the context map by slot or by id. What is no id, or no slot, is BOUNDS. No byte of memory and no other register changes. -/
def Rules.ContextForms : Prop := ∀ (s : State) (a b : Reg) (p : Pred),
  (∀ c l, s.names [a] → s.hd.fresh = c :: l → Runs (.ctxnew a) s fun t =>
    (a ≠ 0#5 → t.reg a = c.1.setWidth 64) ∧ t.hd.fresh = l ∧ t.hd.handed = s.hd.handed ++ [c] ∧ s.Quiet t [a] []) ∧
  (s.names [a] → s.hd.fresh = [] → exec (.ctxnew a) s = .next (s.takeFault .bounds)) ∧
  (s.names [b] → ctxOperand (s.reg b) = none →
    exec (.ctxpf p b) s = .next (s.takeFault .bounds) ∧ exec (.ctxset p b) s = .next (s.takeFault .bounds)) ∧
  (∀ c, s.names [b] → ctxOperand (s.reg b) = some c →
    let loaded := !s.self.filterBit c || s.hd.recalls.any fun x => x.1 == c && x.2
    let here := decide (c = 0#32) || decide (c = s.hd.ctx) || loaded
    (Runs (.ctxpf p b) s fun t => (p ≠ 0#3 → t.pred p = here) ∧ s.Quiet t [] [p] ∧
      (here = false → s.hd.recalls.any (fun x => x.1 == c) = false → s.hd.recalls.length < 4 → (s.here.mapCtx c).isSome →
        (c, false) ∈ t.hd.recalls ∧ ∃ r ∈ t.here.recalls, r.entry = s.hd.entry ∧ r.ctx = c)) ∧
    (c = 0#32 → Runs (.ctxset p b) s fun t => t.hd.ctx = 0#32 ∧ (p ≠ 0#3 → t.pred p = true) ∧ s.Quiet t [] [p]) ∧
    (c ≠ 0#32 → loaded = true → (c = s.hd.ctx ∨ (s.here.mapCtx c).isSome) → Runs (.ctxset p b) s fun t =>
      t.hd.ctx = c ∧ (p ≠ 0#3 → t.pred p = true) ∧ s.Quiet t [] [p]) ∧
    (c ≠ 0#32 → (loaded = false ∨ (c ≠ s.hd.ctx ∧ s.here.mapCtx c = none)) → Runs (.ctxset p b) s fun t =>
      t.hd.ctx = s.hd.ctx ∧ (p ≠ 0#3 → t.pred p = false) ∧ s.Quiet t [] [p])) ∧
  (s.names [a, b] → (s.reg b).toNat < 2 ^ 32 → exec (.ctxq true a b) s =
    s.gives a (match s.here.slotOf ((s.reg b).setWidth 32) with | some i => s.here.ctxWord i | none => 0#64)) ∧
  (s.names [a, b] → 2 ^ 32 ≤ (s.reg b).toNat → exec (.ctxq true a b) s = .next (s.takeFault .bounds)) ∧
  (s.names [a, b] → (s.reg b).toNat < 256 → exec (.ctxq false a b) s = s.gives a (s.here.ctxWord (s.reg b).toNat)) ∧
  (s.names [a, b] → 256 ≤ (s.reg b).toNat → exec (.ctxq false a b) s = .next (s.takeFault .bounds))

/-- R261, R132: CTXRET, once no store of its handler waits, retires its id on its own core, where no cell of it is left, and starts a
retire wave; no register and no byte changes. It stalls behind waiting stores, and is BOUNDS for id 0 and for what is no id. -/
def Rules.ContextRetire : Prop := ∀ (s : State) (b : Reg), s.names [b] →
  (ctxOperand (s.reg b) = none ∨ ctxOperand (s.reg b) = some 0#32 → exec (.ctxret b) s = .next (s.takeFault .bounds)) ∧
  ∀ c, ctxOperand (s.reg b) = some c → c ≠ 0#32 →
    (s.here.storesWait s.self.name s.hd.serial = true → exec (.ctxret b) s = .next s.stall) ∧
    (s.here.storesWait s.self.name s.hd.serial = false → Runs (.ctxret b) s fun t =>
      (∀ x ∈ t.here.cells, x.ctx ≠ c) ∧ (∃ w, Tab.get? t.waves s.nextWave = some w ∧ w.kind = .retire c) ∧ s.Quiet t [] [])

/-- Contexts handed out, changed, looked up, prefetched and retired. -/
def Obligations.Contexts : Prop := Rules.ContextForms ∧ Rules.ContextRetire

/-- R263, R22, R23: COMMIT writes a present value to its destination and frees the entry; the group's own cycle still reads the
destination as before; no other register changes. It waits for a value on its way, and of a free entry only counts. -/
def Obligations.CommitForms : Prop := ∀ (s : State) (n : BitVec 3),
  (Tab.get? s.hd.landing n.toNat = none → exec (.commit n) s = .next (s.countHere 0x038).retire) ∧
  (∀ l, Tab.get? s.hd.landing n.toNat = some l → l.value = none → exec (.commit n) s = .next s.stall) ∧
  (∀ l v, Tab.get? s.hd.landing n.toNat = some l → l.value = some v → Runs (.commit n) s fun t =>
    Tab.get? t.hd.landing n.toNat = none ∧
      (l.isPred = false → (l.reg ≠ 0#5 → t.hd.reg l.reg = v) ∧ t.reg l.reg = s.reg l.reg) ∧
      (l.isPred = true → l.reg.setWidth 3 ≠ 0#3 → t.hd.pred (l.reg.setWidth 3) = decide (v ≠ 0#64)) ∧
      s.Quiet t (if l.isPred then [] else [l.reg]) (if l.isPred then [l.reg.setWidth 3] else []))

/-! ### Control registers, fences, stewards (chapter 18) -/

/-- R353, R24, R29, R30: CRD writes the register of its number to s[A]; a number from 0x40 on an ordinary core is a PRIV fault, and a
number that names no register ILLEGAL; CRD of FLAGS waits for queued engine operations of the handler; CRD of ENTR draws a fresh word
on a steward core and is a PRIV fault elsewhere. SELF, CTX, MBOX, CYCLE and TIME read as R24 says. -/
def Rules.ControlReads : Prop := ∀ (s : State) (a : Reg) (n : BitVec 8), s.names [a] →
  (∀ v, s.crd n.toNat = some v → (n.toNat < 0x40 ∨ isSteward s.cur.core = true) → exec (.crd a n) s = s.gives a v) ∧
  (0x40 ≤ n.toNat → isSteward s.cur.core = false → exec (.crd a n) s = .next (s.takeFault .priv)) ∧
  (s.crd n.toNat = none → (n.toNat < 0x40 ∨ isSteward s.cur.core = true) → exec (.crd a n) s = .next (s.takeFault .illegal)) ∧
  (s.flagsBusy = false → exec (.crdFlags a) s = s.gives a (s.hd.flags.setWidth 64)) ∧
  (s.flagsBusy = true → exec (.crdFlags a) s = .next s.stall) ∧
  (isSteward s.cur.core = true → Runs (.crdEntr a) s fun t =>
    (a ≠ 0#5 → t.reg a = Config.entropy s.freeCtr) ∧ t.freeCtr = s.freeCtr + 1 ∧ s.Quiet t [a] []) ∧
  (isSteward s.cur.core = false → exec (.crdEntr a) s = .next (s.takeFault .priv)) ∧
  s.crd 0x00 = some s.self.name ∧ s.crd 0x02 = some (s.hd.ctx.setWidth 64) ∧ s.crd 0x10 = some s.self.mbox ∧
  s.crd 0x04 = some (BitVec.ofNat 64 s.mod.cycle) ∧ s.crd 0x05 = some (BitVec.ofNat 64 s.mod.timeNs)

/-- R354, R27, R29, R281, R452, R456: CWR writes the handler's control registers, the event counters and selectors in the copy the core
has loaded (the events of its own cycle still count under the selector that the cycle began with, and are added to a counter's new
value as the cycle ends), MBOX for the handler's DONE, TRAPX unless the actor is a supervisor,
WATCH with a new start, and FLAGS once the handler's engine operations have ended. A value too wide for its register, a number that
names no writable register, and a selector that names no source are ILLEGAL, a depth of MBOX out of range BOUNDS. Scalar, predicate,
shape and tile registers and memory stay. -/
def Rules.ControlWrites : Prop := ∀ (s : State) (n : BitVec 8) (b : Reg), s.names [b] →
  let v := s.reg b
  let bad (i : Instr) (f : FaultCode) : Prop := exec i s = .next (s.takeFault f)
  let ev (u : State) : State := u.modHere fun k => { k with
    evCopies := Tab.put k.evCopies k.loadedCopy ((k.evCopy k.loadedCopy).write n.toNat v) }
  (0x40 ≤ n.toNat → bad (.cwr n b) (if isSteward s.cur.core then .illegal else .priv)) ∧
  (n.toNat < 0x40 → cwrWidth n.toNat = none → bad (.cwr n b) .illegal) ∧
  (∀ w, n.toNat < 0x40 → cwrWidth n.toNat = some w →
    (2 ^ w ≤ v.toNat → bad (.cwr n b) .illegal) ∧
    (v.toNat < 2 ^ w → n.toNat < 0x20 → Runs (.cwr n b) s fun t => t.hd.ctl = s.hd.ctl.write n.toNat v ∧
      s.hd.SameRegs t.hd [] [] ∧ t.hd.flags = s.hd.flags ∧ ∀ a, t.readHome a = s.readHome a) ∧
    (v.toNat < 2 ^ w → 0x20 ≤ n.toNat → n.toNat < 0x28 → exec (.cwr n b) s = .next (ev s).retire) ∧
    (v.toNat < 2 ^ w → 0x28 ≤ n.toNat → evSource v.toNat = true → exec (.cwr n b) s = .next (ev s).retire ∧
      ∀ (e : EvCopy) (i : Fin 4) (src : Nat), n.toNat = 0x28 + i.val → e.old = [] →
        (e.write n.toNat v).sels[i] = v.setWidth 10 ∧
        ((e.write n.toNat v).advance src 1).fresh[i] = e.fresh[i] + (if e.sels[i].toNat = src then 1 else 0) ∧
        ((e.write n.toNat v).settle.advance src 1).fresh[i] = (if v.toNat = src then 1 else 0)) ∧
    (v.toNat < 2 ^ w → 0x28 ≤ n.toNat → evSource v.toNat = false → bad (.cwr n b) .illegal)) ∧
  (let shaped := v.toNat < 2 ^ 20 ∧ bits v.toNat 2 2 = 0
   (¬shaped → bad (.cwrMbox b) .illegal) ∧
   (shaped → (bits v.toNat 4 4 < 2 ∨ 12 < bits v.toNat 4 4) → bad (.cwrMbox b) .bounds) ∧
   (shaped → 2 ≤ bits v.toNat 4 4 → bits v.toNat 4 4 ≤ 12 → Runs (.cwrMbox b) s fun t =>
     t.hd.mboxPending = some v ∧ t.self.mbox = s.self.mbox ∧ s.Quiet t [] [])) ∧
  (v.toNat < 2 → Runs (.cwrTrapx b) s fun t =>
    t.self.trapx = (if s.self.supv then s.self.trapx else v.getLsbD 0) ∧ s.Quiet t [] []) ∧
  (2 ≤ v.toNat → bad (.cwrTrapx b) .illegal) ∧
  (v.toNat < 2 ^ 32 → Runs (.cwrWatch b) s fun t => t.self.watch = v.toNat ∧ t.self.watchLast = s.mod.timeNs ∧ s.Quiet t [] []) ∧
  (2 ^ 32 ≤ v.toNat → bad (.cwrWatch b) .illegal) ∧
  (v.toNat < 64 → s.flagsBusy = false → Runs (.cwrFlags b) s fun t =>
    t.hd.flags = v.setWidth 6 ∧ s.hd.SameRegs t.hd [] [] ∧ ∀ a, t.readHome a = s.readHome a) ∧
  (v.toNat < 64 → s.flagsBusy = true → exec (.cwrFlags b) s = .next s.stall) ∧
  (64 ≤ v.toNat → bad (.cwrFlags b) .illegal)

/-- Reads and writes of control registers. -/
def Obligations.ControlRegisters : Prop := Rules.ControlReads ∧ Rules.ControlWrites

/-- R196, R205, R356: FENCE divides the handler's program at its scope and TFENCE orders its page walks; registers and memory stay.
NOP only retires. -/
def Rules.Fences : Prop := ∀ (s : State) (sc : Scope),
  Runs (.fence sc) s (fun t => t.hd.fences = s.hd.fences ++ [(sc, s.here.seq)] ∧ t.hd.tfences = s.hd.tfences ∧ s.Quiet t [] []) ∧
  Runs (.tfence sc) s (fun t => t.hd.tfences = s.hd.tfences ++ [(sc, s.here.seq)] ∧ t.hd.fences = s.hd.fences ∧ s.Quiet t [] []) ∧
  exec .nop s = .next s.retire

/-- R357, R358: SYSREQ sends the message of its block to the core's service, and without a service only counts; it waits while sends
wait, and takes the fault of its block. (That a SYSREQ without a service opens its reply wait is the choice of log entry 42.) A BRK
that DBG does not name is skipped and counted; one that it names holds the handler, whose record alone changes in memory. -/
def Rules.ServiceAndBreak : Prop := ∀ (s : State) (b : Reg) (o : MemOrd) (n : BitVec 6),
  let svc := s.here.cfg.service
  let us := cwDeadline (s.block b).ctl
  let named := s.here.cfg.dbg.getLsbD 12 = true ∧ s.here.cfg.dbg.setWidth 12 = s.self.tenant
  (∀ f, s.checkBlock b true false = some f → exec (.sysreq b o) s = .next (s.takeFault f)) ∧
  (s.checkBlock b true false = none → svc = 0#64 → exec (.sysreq b o) s = .next ((s.countHere 0x037).openWait 0#64 us).retire) ∧
  (s.checkBlock b true false = none → svc ≠ 0#64 → s.sendBlocked = true → exec (.sysreq b o) s = .next s.stall) ∧
  (s.checkBlock b true false = none → svc ≠ 0#64 → s.sendBlocked = false → s.unhashed → Runs (.sysreq b o) s fun t =>
    (s.isLocal svc = true → s.SetsOut t (.msg (s.msgOf (s.block b) svc s.hd.ctx (relOf o).isSome))) ∧ s.waitsFor t svc us ∧
      s.Quiet t [] []) ∧
  (¬named → exec (.brk n) s = .next (s.countHere 0x03C).retire) ∧
  (named → (∃ k, s.hd.status.slot? = some k) → Runs (.brk n) s fun t => t.hd.status = .held ∧ s.hd.SameRegs t.hd [] [] ∧
    s.SameOutside t (recordHome s.cur.core s.cur.rec_ 0) recordEnd)

/-- Fences, service requests and breaks. -/
def Obligations.FencesAndServices : Prop := Rules.Fences ∧ Rules.ServiceAndBreak

/-- R359, R361 to R363: on a steward core STRD and STWR send an access that passes the checks and wait for its answer, KEYDEL
removes the key it names, and PRMT sends its request to the core of a name of this module; what fails its checks is BOUNDS. On any
other core every one of these forms, KEYSET and WAVE takes a PRIV fault. -/
def Rules.StewardForms : Prop := ∀ (s : State) (p : Pred) (a b c : Reg), s.names [a, b, c] →
  (isSteward s.cur.core = false →
    exec (.strd p a b) s = .next (s.takeFault .priv) ∧ exec (.stwr p b c) s = .next (s.takeFault .priv) ∧
    exec (.keyset p b) s = .next (s.takeFault .priv) ∧ exec (.keydel p b) s = .next (s.takeFault .priv) ∧
    exec (.waveShootdown b c) s = .next (s.takeFault .priv) ∧ exec (.waveRetire b c) s = .next (s.takeFault .priv) ∧
    exec (.waveModuleLoss b c) s = .next (s.takeFault .priv) ∧ exec (.prmtPreempt b) s = .next (s.takeFault .priv) ∧
    exec (.prmtHold b) s = .next (s.takeFault .priv) ∧ exec (.prmtRelease b) s = .next (s.takeFault .priv)) ∧
  (isSteward s.cur.core = true →
    let sent (t : State) : Prop := (∃ r, Tab.get? t.here.remotes s.here.nextId = some r) ∧ s.hd.SameRegs t.hd [] [] ∧
      t.hd.flags = s.hd.flags ∧ ∀ x, t.readHome x = s.readHome x
    let reads := s.sysAddrOk (s.reg b) false
    let writes := s.sysAddrOk (s.reg b) true
    (reads = false → exec (.strd p a b) s = .next (s.takeFault .bounds)) ∧
    (writes = false → exec (.stwr p b c) s = .next (s.takeFault .bounds)) ∧
    (s.sendBlocked = true → (reads = true → exec (.strd p a b) s = .next s.stall) ∧
      (writes = true → exec (.stwr p b c) s = .next s.stall)) ∧
    (s.sendBlocked = false → s.unhashed →
      (reads = true → (s.hd.allocPair (some a) p none).isSome → Runs (.strd p a b) s sent) ∧
      (writes = true → (s.hd.allocPair none p none).isSome → Runs (.stwr p b c) s sent)) ∧
    ((s.hd.allocPair none p none).isSome → (s.reg b).toNat < 8192 → Runs (.keydel p b) s fun t =>
      (if (s.reg b).getLsbD 12 then Tab.get? t.fabricKeys ((s.reg b).toNat % 4096) = none ∧ t.hbmKeys = s.hbmKeys
       else Tab.get? t.hbmKeys ((s.reg b).toNat % 4096) = none ∧ t.fabricKeys = s.fabricKeys) ∧ s.Quiet t [] []) ∧
    (8192 ≤ (s.reg b).toNat → exec (.keydel p b) s = .next (s.takeFault .bounds)) ∧
    (let good := nameBad (s.reg b) = false ∧ s.reg b ≠ 0#64 ∧ s.isLocal (s.reg b) = true
     let asks (i : Instr) (op : BitVec 2) : Prop := (good → exec i s = .next (s.emit (.prmt (s.reg b) op)).retire) ∧
       (¬good → exec i s = .next (s.takeFault .bounds))
     asks (.prmtPreempt b) 0#2 ∧ asks (.prmtHold b) 1#2 ∧ asks (.prmtRelease b) 2#2))

/-- R361: KEYSET on a steward core installs the key of its record, in the HBM table or the fabric table by its USE, and clears the
record's key in the view of the handler; a record that fails its checks is BOUNDS and changes nothing. -/
def Rules.KeyInstall : Prop := ∀ (s : State) (p : Pred) (b : Reg) (h : Nat) (r : Region),
  let addr := (s.reg b).toNat
  let bs := s.localRead s.hdView h r addr 128

  let fine := field bs 0 2 < 4096 ∧ field bs 2 1 ≤ 1 ∧ field bs 3 61 = 0 ∧ (field bs 2 1 = 1 → field bs 96 32 = 0)
  s.names [b] → isSteward s.cur.core = true → s.checkLocal s.cur.core s.hd.entry addr 128 .rw 64 = .ok (h, r) →
  s.lockedAt addr 128 = false → s.readHeld addr 128 = false →
  (¬fine → exec (.keyset p b) s = .next (s.takeFault .bounds)) ∧
  (fine → ∀ s', s.localStore s.hdView h r (addr + 64) (List.replicate 64 0#8) none = .ok s' → s.hd.landing.length < 8 →
    (s.hd.allocPair none p none).isSome → Runs (.keyset p b) s fun t =>
      (field bs 2 1 = 0 → Tab.get? t.hbmKeys (field bs 0 2) = some (BitVec.ofNat 512 (field bs 64 64)) ∧ t.fabricKeys = s.fabricKeys) ∧
      (field bs 2 1 = 1 → Tab.get? t.fabricKeys (field bs 0 2) = some (BitVec.ofNat 256 (field bs 64 32)) ∧ t.hbmKeys = s.hbmKeys) ∧
      (∀ x, t.readHome x = s'.readHome x) ∧ s.hd.SameRegs t.hd [] [] ∧ t.hd.flags = s.hd.flags)

/-- R362: a steward starts a wave of each kind from its operand and control word: it is in flight under the next number, and the
core has one more; a fifth waits, and an operand that fails its checks is BOUNDS. Registers and memory stay. -/
def Rules.WaveForms : Prop := ∀ (s : State) (b c : Reg), s.names [b, c] → isSteward s.cur.core = true →
  let v := (s.reg b).toNat
  let starts (i : Instr) (ok : Prop) (k : WaveKind) : Prop :=
    (¬(ok ∧ waveWordOk (s.reg c) = true) → exec i s = .next (s.takeFault .bounds)) ∧
    (ok → waveWordOk (s.reg c) = true → 4 ≤ s.here.wavesOpen → exec i s = .next s.stall) ∧
    (ok → waveWordOk (s.reg c) = true → s.here.wavesOpen < 4 → Runs i s fun t => t.here.wavesOpen = s.here.wavesOpen + 1 ∧
      (∃ w, Tab.get? t.waves s.nextWave = some w ∧ w.kind = k) ∧ s.Quiet t [] [])
  starts (.waveShootdown b c) (bits v 60 4 = 0 ∧ bits v 0 15 = 0 ∧ (bits v 15 1 = 1 → bits v 16 32 = 0))
    (.shootdown (BitVec.ofNat 12 (bits v 48 12)) (bits v 16 32 * 65536) (decide (bits v 15 1 = 1))) ∧
  starts (.waveRetire b c) (∃ x, ctxOperand (s.reg b) = some x ∧ x ≠ 0#32) (.retire ((s.reg b).setWidth 32)) ∧
  starts (.waveModuleLoss b c) (v < 1024 ∧ v ≠ s.mod.num.toNat) (.moduleLoss v)

/-- What a steward core may do: table accesses, keys, waves, pre-emption. -/
def Obligations.StewardInstructions : Prop := Rules.StewardForms ∧ Rules.WaveForms ∧ Rules.KeyInstall

/-! ### Actors and messages (chapter 13) -/

/-- R36, R87, R265 to R269: SEND puts the message of its block on its way to s[A] and opens the reply wait of its deadline; REPLY
puts it on its way to the sender of the handler's message, and with no one to answer only counts. Faults of the block, a name that is
no destination and a register that is no context id are faults without effect; a send waits while the outbound queue or Campion is
full. Registers and memory stay. -/
def Rules.MessageForms : Prop := ∀ (s : State) (a b : Reg) (ctx : Option Reg) (o : MemOrd),
  let bl := s.block b
  let n := s.hd.replyName
  let fit := n = 0#64 ∨ nameTenant n = s.self.tenant ∨ s.self.tenant = 0#12 ∨ nameTenant n = 0#12
  let leaves (i : Instr) (m : Msg) (deadline : Nat) : Prop :=
    (s.sendBlocked = true → exec i s = .next s.stall) ∧
    (s.sendBlocked = false → s.unhashed → Runs i s fun t => (s.isLocal m.dest = true → s.SetsOut t (.msg m)) ∧
      s.waitsFor t m.dest deadline ∧ s.Quiet t [] [])
  (s.names (a :: b :: ctx.toList) →
    (∀ f, s.checkBlock b true false = some f → exec (.send a b ctx o) s = .next (s.takeFault f)) ∧
    (s.checkBlock b true false = none →
      (s.destOk (s.reg a) = false ∨ s.sendCtx ctx = none → exec (.send a b ctx o) s = .next (s.takeFault .bounds)) ∧
      (s.destOk (s.reg a) = true → ∀ x, s.sendCtx ctx = some x →
        leaves (.send a b ctx o) (s.msgOf bl (s.reg a) x (relOf o).isSome) (cwDeadline bl.ctl)))) ∧
  (s.names (b :: ctx.toList) →
    (∀ f, s.checkBlock b false false = some f → exec (.reply b ctx o) s = .next (s.takeFault f)) ∧
    (s.checkBlock b false false = none →
      (¬fit ∨ s.sendCtx ctx = none → exec (.reply b ctx o) s = .next (s.takeFault .bounds)) ∧
      (fit → ∀ x, s.sendCtx ctx = some x →
        (n = 0#64 → exec (.reply b ctx o) s = .next (s.countHere 0x039).retire) ∧
        (n ≠ 0#64 → leaves (.reply b ctx o) { s.msgOf bl n x (relOf o).isSome with isReply := true } 0))))

/-- R270, R271: SENDP sends the message of a parked block of 48 bytes in memory, in the context it names; reserved bits and what is no
destination are BOUNDS, channel 0 on an ordinary core PRIV, and it waits while sends wait. RDLN frees SELF's oldest reply wait on a peer
and answers whether there was one. Registers but pd and memory stay. -/
def Rules.ParkedAndDeadline : Prop := ∀ (s : State) (b : Reg) (o : MemOrd) (p : Pred), s.names [b] →
  let i : Instr := .sendp b o
  (∀ f, s.fetchOperand (s.reg b) 48 16 = .fault f → exec i s = .next (s.takeFault f)) ∧
  (s.fetchOperand (s.reg b) 48 16 = .wait → exec i s = .next s.stall) ∧
  (∀ bs, s.fetchOperand (s.reg b) 48 16 = .bytes bs →
    let hi := field bs 8 8
    let dest : Name := BitVec.ofNat 64 (field bs 0 8)
    (bits hi 8 8 ≠ 0 → exec i s = .next (s.takeFault .bounds)) ∧
    (bits hi 8 8 = 0 → bits hi 6 2 = 0 → isSteward s.cur.core = false → exec i s = .next (s.takeFault .priv)) ∧
    (bits hi 8 8 = 0 → (bits hi 6 2 ≠ 0 ∨ isSteward s.cur.core = true) →
      (s.destOk dest = false → exec i s = .next (s.takeFault .bounds)) ∧
      (s.destOk dest = true → s.sendBlocked = true → exec i s = .next s.stall) ∧
      (s.destOk dest = true → s.sendBlocked = false → s.unhashed → Runs i s fun t => s.Quiet t [] [] ∧
        (s.isLocal dest = true → ∃ m : Msg, s.SetsOut t (.msg m) ∧ m.dest = dest ∧ m.hidx.toNat = bits hi 0 6 ∧
          m.chan.toNat = bits hi 6 2 ∧ m.prio.toNat = bits hi 16 16 ∧ m.ctx.toNat = bits hi 32 32 ∧
          m.mflags = (if (relOf o).isSome then 0x20#8 else 0#8) ∧ m.a0 = BitVec.ofNat 64 (field bs 16 8) ∧
          m.a1 = BitVec.ofNat 64 (field bs 24 8) ∧ m.a2 = BitVec.ofNat 64 (field bs 32 8) ∧
          m.a3 = BitVec.ofNat 64 (field bs 40 8) ∧ m.sender = s.self.name ∧ m.tenant = s.self.tenant)))) ∧
  (oldestWait s.hd.entry (s.reg b) s.here.waits = none → exec (.rdln p b) s = s.givesPred p false) ∧
  (∀ i w, oldestWait s.hd.entry (s.reg b) s.here.waits = some (i, w) → Runs (.rdln p b) s fun t =>
    t.here.waits = Tab.del s.here.waits i ∧ (p ≠ 0#3 → t.pred p = true) ∧ s.Quiet t [] [p])

/-- Messages sent, parked, and awaited. -/
def Obligations.Messages : Prop := Rules.MessageForms ∧ Rules.ParkedAndDeadline

/-- R273: SPAWN checks its descriptor, takes a landing entry for the name and a link entry where it asks for one, and sends the
request, which stays open until it is answered. R275: KILL of another actor sends its class and reason to it; KILL of SELF is SELF's
death; a secondary's has no effect of its own (R87). A bad descriptor, name or reason is BOUNDS. -/
def Rules.SpawnKill : Prop := ∀ (s : State) (a b c : Reg), s.names [a, b, c] →
  let i : Instr := .spawn a b c
  (∀ f, s.fetchOperand (s.reg b) 32 32 = .fault f → exec i s = .next (s.takeFault f)) ∧
  (s.fetchOperand (s.reg b) 32 32 = .wait → exec i s = .next s.stall) ∧
  (∀ bs, s.fetchOperand (s.reg b) 32 32 = .bytes bs →
    let fl := field bs 29 1
    let dom := field bs 28 1
    let fine := field bs 0 8 = 0 ∧ field bs 8 8 < 2 ^ 48 ∧ field bs 16 8 < 2 ^ 26 ∧ field bs 30 2 = 0 ∧ fl < 16 ∧ dom < 3 ∧
      (dom ≠ 0 → bits fl 2 1 = 1) ∧ (bits fl 2 1 = 1 → bits fl 0 2 = 0) ∧ (bits fl 3 1 = 1 → s.here.linkFree.isSome)
    (¬fine → exec i s = .next (s.takeFault .bounds)) ∧
    (fine → s.sendBlocked = true → exec i s = .next s.stall) ∧
    (fine → s.sendBlocked = false → s.hd.allocPair (some a) 0#3 none = none → exec i s = .next (s.takeFault .bounds)) ∧
    (fine → s.sendBlocked = false → (s.hd.allocPair (some a) 0#3 none).isSome → s.unhashed → Runs i s fun t =>
      (∃ o, Tab.get? t.here.opens s.here.nextId = some o ∧ o.spawner = s.self.name ∧ o.module = field bs 16 8 / 65536) ∧
      (bits fl 3 1 = 1 → ∀ l, s.here.linkFree = some l →
        Tab.get? t.here.links l = some { peer := 0#64, kind := .link, lslot := s.hd.entry }) ∧
      t.hd.landing.length = s.hd.landing.length + 1 ∧
      (field bs 16 8 / 65536 = s.mod.num.toNat → ∃ r : SpawnReq, s.SetsOut t (.spawn r) ∧ r.spawner = s.self.name ∧ r.a3 = s.reg c ∧
        r.image.toNat = field bs 8 8 ∧ r.ilen.toNat = field bs 24 4 ∧ r.place.toNat = field bs 16 8 ∧ r.tenant = s.self.tenant) ∧
      s.Quiet t [] [])) ∧
  (let n := s.reg a
   let good := nameBad n = false ∧ n ≠ 0#64 ∧ s.sameTenant n = true ∧ (s.reg b).toNat < 256
   let reason : BitVec 8 := (s.reg b).setWidth 8
   (¬good → exec (.kill a b) s = .next (s.takeFault .bounds)) ∧
   (good → n ≠ s.self.name → Runs (.kill a b) s fun t => s.Quiet t [] [] ∧
     (s.speaks → s.isLocal n = true → .kill n .killed reason s.self.name ∈ t.net)) ∧
   (good → n = s.self.name → ¬s.speaks → exec (.kill a b) s = .next s.retire) ∧
   (good → n = s.self.name → s.speaks → s.self.state = .live → Runs (.kill a b) s fun t =>
     t.Exits s.cur.core s.hd.entry .killed reason 0#64 ∧ ∀ x, t.readHome x = s.readHome x))

/-- R276, R65, R66, R69: EXIT ends its actor, NORMAL or SHUTDOWN, with its reason; its handlers and windows end at once and no byte of
memory changes. Any other operand is BOUNDS. -/
def Rules.ExitEnds : Prop := ∀ (s : State) (b : Reg), s.names [b] →
  let v := (s.reg b).toNat
  let fine := v < 65536 ∧ bits v 3 5 = 0
  let ends (cls : DeathClass) : Prop := s.self.state = .live → Runs (.exit b) s fun t =>
    t.Exits s.cur.core s.hd.entry cls (BitVec.ofNat 8 (v / 256)) 0#64 ∧ ∀ x, t.readHome x = s.readHome x
  (fine → v % 8 = 0 → ends .normal) ∧ (fine → v % 8 = 5 → ends .shutdown) ∧
  (¬fine ∨ (v % 8 ≠ 0 ∧ v % 8 ≠ 5) → exec (.exit b) s = .next (s.takeFault .bounds))

/-- Spawns, kills and exits. -/
def Obligations.SpawnKillExit : Prop := Rules.SpawnKill ∧ Rules.ExitEnds

/-- R65 to R69: a fault is the death of its actor: class FAULT, the code as detail, the group's address in w2; its handlers and
windows end, and no byte of memory changes. -/
def Obligations.FaultIsDeath : Prop := ∀ (s : State) (c : FaultCode), s.self.state = .live →
  let t := s.takeFault c
  t.Exits s.cur.core s.hd.entry .fault (BitVec.ofNat 8 c.code) (BitVec.ofNat 64 s.hd.pc) ∧ ∀ a, t.readHome a = s.readHome a

/-- R277, R70, R87: LINK and MON enter a free entry of their table, the lowest (log entry 74), and ask the peer; UNLINK and DEMON free SELF's entry and
tell the peer; a link that is there, or an entry that is not, changes nothing; MON's reference goes to s[A]. A name that is no peer, a
full table and a reference too wide are BOUNDS. A secondary sends nothing. Other registers and memory stay. -/
def Rules.LinksMonitors : Prop := ∀ (s : State) (a b : Reg), s.names [a, b] →
  let n := s.reg b
  let good := nameBad n = false ∧ n ≠ 0#64 ∧ n ≠ s.self.name ∧ s.sameTenant n = true
  let linked (e : Nat × LinkEnt) : Bool := decide (e.2.lslot = s.hd.entry) && e.2.peer == n
  let watched (e : Nat × LinkEnt) : Bool :=
    decide (e.2.lslot = s.hd.entry) && decide (e.2.kind = .watching) && e.2.ref == n.setWidth 32
  let me := s.self
  let tells (t : State) (to_ : Name) (p : Packet) : Prop := s.speaks → s.isLocal to_ = true → p ∈ t.net
  let bad (i : Instr) : Prop := exec i s = .next (s.takeFault .bounds)
  (¬good ∨ s.here.linkFree = none → bad (.link b)) ∧
  (good → s.here.links.any linked = false → ∀ i, s.here.linkFree = some i → Runs (.link b) s fun t =>
    Tab.get? t.here.links i = some { peer := n, kind := .link, lslot := s.hd.entry } ∧ s.Quiet t [] [] ∧
      tells t n (.linkReq false me.name n 0#32 me.supName me.restarts me.tenant)) ∧
  (good → s.here.links.any linked = true → s.here.linkFree.isSome → exec (.link b) s = .next s.retire) ∧
  (nameBad n = true → bad (.unlink b)) ∧
  (nameBad n = false → s.here.links.find? linked = none → exec (.unlink b) s = .next s.retire) ∧
  (nameBad n = false → ∀ i e, s.here.links.find? linked = some (i, e) → Runs (.unlink b) s fun t =>
    Tab.get? t.here.links i = none ∧ s.Quiet t [] [] ∧ tells t n (.unlink false me.name n 0#32)) ∧
  (¬good ∨ s.here.monFree = none → bad (.mon a b)) ∧
  (good → ∀ i, s.here.monFree = some i → Runs (.mon a b) s fun t =>
    let ref := nextRef s.here.monRef
    (a ≠ 0#5 → t.reg a = ref.setWidth 64) ∧
    Tab.get? t.here.monitors i = some { peer := n, ref := ref, kind := .watching, lslot := s.hd.entry } ∧ s.Quiet t [a] [] ∧
      tells t n (.linkReq true me.name n ref me.supName me.restarts me.tenant)) ∧
  (2 ^ 32 ≤ n.toNat → bad (.demon b)) ∧
  (n.toNat < 2 ^ 32 → s.here.monitors.find? watched = none → exec (.demon b) s = .next s.retire) ∧
  (n.toNat < 2 ^ 32 → ∀ i e, s.here.monitors.find? watched = some (i, e) → Runs (.demon b) s fun t =>
    Tab.get? t.here.monitors i = none ∧ s.Quiet t [] [] ∧ tells t e.peer (.unlink true me.name e.peer e.ref))

/-- R278 to R281, R290, R74: TIMER without a free entry counts and gives 0; with one and a time to come it gives the handle of the
lowest free entry (the choice of log entry 74) and arms it with its due time, its owner and the message of its block; for a time that has
come it gives the handle, frees the entry and the message arrives at once, at the TIMER itself, with LATE set (R279 says only: before the
next dispatch; log entry 47). TCANCEL of a live handle of SELF that is not yet due frees the entry,
steps its generation and answers 1; one that is due fires first and the answer is 0, as for any other handle. WATCH sets the period and
starts it, WKICK starts it again, TRAPX gives the old bit and sets the new one unless the actor is a supervisor. Operands too wide are
BOUNDS. Other registers and memory stay. -/
def Obligations.TimersWatchdog : Prop := ∀ (s : State) (a b c : Reg) (p : Pred), s.names [a, b, c] →
  let k := s.here
  let due := (s.reg c).toNat
  let m := s.msgOf (s.block b) s.self.name s.hd.ctx false
  let freed (j : Nat) : State := s.modHere fun k => { k with timers := Tab.put k.timers j (k.timer j).freed }
  (∀ f, s.checkBlock b false false = some f → exec (.timer a b c) s = .next (s.takeFault f)) ∧
  (s.checkBlock b false false = none → k.timerFree = none → exec (.timer a b c) s = (s.countHere 0x03B).gives a 0#64) ∧
  (s.checkBlock b false false = none → ∀ i, k.timerFree = some i →
    (s.mod.timeNs < due → Runs (.timer a b c) s fun t =>
      (a ≠ 0#5 → t.reg a = timerHandle i (k.timer i)) ∧ (t.here.timer i).due = some due ∧
      (t.here.timer i).owner = s.hd.entry ∧ (t.here.timer i).msg = m ∧ s.Quiet t [a] []) ∧
    (due ≤ s.mod.timeNs → exec (.timer a b c) s = .next ((((freed i).setReg a (timerHandle i (k.timer i))).retire).timerMsg
      s.cur.core s.hd.entry { m with mflags := 0x01#8 }))) ∧
  (let i := (s.reg b).toNat % 256
   let live := s.reg b = timerHandle i (k.timer i) ∧ (k.timer i).due.isSome ∧ (k.timer i).owner = s.hd.entry
   let due := ∃ d, (k.timer i).due = some d ∧ d ≤ s.tickNs
   (live → ¬due → Runs (.tcancel p b) s fun t => (t.here.timer i).due = none ∧
     (t.here.timer i).gen = nextSkip0 (k.timer i).gen ∧ (p ≠ 0#3 → t.pred p = true) ∧ s.Quiet t [] [p]) ∧
   (live → due → exec (.tcancel p b) s = .next
     (((freed i).setPred p false).retire.timerMsg s.cur.core (k.timer i).owner (k.timer i).msg)) ∧
   (¬live → exec (.tcancel p b) s = s.givesPred p false)) ∧
  ((s.reg b).toNat < 2 ^ 32 → Runs (.watch b) s fun t => t.self.watch = (s.reg b).toNat ∧ t.self.watchLast = s.mod.timeNs ∧
    s.Quiet t [] []) ∧
  (2 ^ 32 ≤ (s.reg b).toNat → exec (.watch b) s = .next (s.takeFault .bounds)) ∧
  Runs .wkick s (fun t => t.self.watchLast = s.mod.timeNs ∧ t.self.watch = s.self.watch ∧ s.Quiet t [] []) ∧
  ((s.reg b).toNat < 2 → Runs (.trapx a b) s fun t => (a ≠ 0#5 → t.reg a = BitVec.ofNat 64 (s.self.trapx || s.self.supv).toNat) ∧
    t.self.trapx = (if s.self.supv then s.self.trapx else (s.reg b).getLsbD 0) ∧ s.Quiet t [a] []) ∧
  (2 ≤ (s.reg b).toNat → exec (.trapx a b) s = .next (s.takeFault .bounds))

/-- R58, R282 to R284, R286: JCGET takes the lowest free join counter, or gives all ones; JCPUT gives back one that SELF holds; ARM
parks the message of its block in one that SELF holds, which fires at once where its count has reached the target; DEC sends an advance to
an actor of the same tenant; JOIN advances the counter of the handler's message once. Anything else is BOUNDS, and sends wait while
sends wait. Other registers and memory stay. -/
def Rules.JoinCounters : Prop := ∀ (s : State) (a b c : Reg) (o : MemOrd), s.names [a, b, c] →
  let k := s.here
  let bad (i : Instr) : Prop := exec i s = .next (s.takeFault .bounds)
  let owns (v : Nat) (j : JoinCtr) : Prop := Tab.get? k.joins v = some j ∧ v < 64 ∧ j.owner = s.self.name
  (Tab.lowestFree k.joins 64 = none → exec (.jcget a) s = s.gives a (BitVec.allOnes 64)) ∧
  (∀ i, Tab.lowestFree k.joins 64 = some i → Runs (.jcget a) s fun t => (a ≠ 0#5 → t.reg a = BitVec.ofNat 64 i) ∧
    Tab.get? t.here.joins i = some { owner := s.self.name } ∧ s.Quiet t [a] []) ∧
  ((∃ j, owns (s.reg b).toNat j) → Runs (.jcput b) s fun t =>
    Tab.get? t.here.joins (s.reg b).toNat = none ∧ s.Quiet t [] []) ∧
  ((¬∃ j, owns (s.reg b).toNat j) → bad (.jcput b)) ∧
  (∀ f, s.checkBlock b false false = some f → exec (.arm a b c) s = .next (s.takeFault f)) ∧
  (s.checkBlock b false false = none →
    (∀ j, owns (s.reg a).toNat j → j.parked = none → (s.reg c).toNat < 2 ^ 32 → Runs (.arm a b c) s fun t =>
      (∃ j', Tab.get? t.here.joins (s.reg a).toNat = some j' ∧ j'.target = (s.reg c).toNat ∧
        j'.parked = some (s.msgOf (s.block b) s.self.name s.hd.ctx false) ∧ j'.fired = decide ((s.reg c).toNat ≤ j.count)) ∧
      s.Quiet t [] []) ∧
    ((¬∃ j, owns (s.reg a).toNat j ∧ j.parked = none ∧ (s.reg c).toNat < 2 ^ 32) → bad (.arm a b c))) ∧
  (let good := nameBad (s.reg a) = false ∧ nameTenant (s.reg a) = s.self.tenant ∧ (s.reg b).toNat < 2 ^ 38
   (¬good → bad (.dec a b o)) ∧ (good → s.sendBlocked = true → exec (.dec a b o) s = .next s.stall) ∧
   (good → s.sendBlocked = false → s.unhashed → Runs (.dec a b o) s fun t => s.Quiet t [] [] ∧ (s.isLocal (s.reg a) = true →
     s.SetsOut t (.advance (s.reg a) ((s.reg b).extractLsb' 32 6) ((s.reg b).toNat % 2 ^ 32) s.self.name)))) ∧
  (s.hd.join = none → exec .join s = .next s.retire) ∧
  (∀ j, s.hd.join = some j → (s.sendBlocked = true → exec .join s = .next s.stall) ∧
    (s.sendBlocked = false → s.unhashed → Runs .join s fun t => t.hd.join = none ∧ s.Quiet t [] [] ∧
      (s.isLocal j.owner = true → s.SetsOut t (.advance j.owner j.counter 1 s.self.name))))

/-- R285, R56, R193: FORK sends the message of its block, with the join reference it asks for, to a live pool actor of its own core and
tenant: where nothing holds it back it enters the deque at the owner end, and else waits in the outbound queue. Anything else is BOUNDS,
and it waits while sends wait. Registers and memory stay. -/
def Rules.Forks : Prop := ∀ (s : State) (a b : Reg), s.names [a, b] →
  let n := s.reg a
  let w := (s.block b).ctl
  let jr : JoinRef := { core := s.gcore s.cur.core, counter := cwJcn w, owner := s.self.name }
  let m : Msg := { s.msgOf (s.block b) n s.hd.ctx false with join := if cwJv w then some jr else none }
  let e : OutEnt := { seq := s.here.seq, name := s.self.name, serial := s.hd.serial, conds := s.condsFor none (some s.cur.core),
                      at_ := s.mod.timeNs, body := .fork (nameSlot n) m }
  let good := s.isLocal n = true ∧ nameCore n = s.cur.core ∧ s.alive s.cur.core n = true ∧
    (s.actor s.cur.core (nameSlot n)).pool = true ∧ nameTenant n = s.self.tenant ∧
    (cwJv w = true → s.here.joinOf (cwJcn w).toNat s.self.name = true)
  (∀ f, s.checkBlock b false true = some f → exec (.fork a b) s = .next (s.takeFault f)) ∧
  (s.checkBlock b false true = none →
    (¬good → exec (.fork a b) s = .next (s.takeFault .bounds)) ∧
    (good → s.sendBlocked = true → exec (.fork a b) s = .next s.stall) ∧
    (good → s.sendBlocked = false → s.mayLeave s.cur.core s.here.outq e = true → ∀ pl, s.here.poolPlace = some pl →
      Runs (.fork a b) s fun t => s.Quiet t [] [] ∧
        t.here.pool = { entry := nameSlot n, msg := m, place := pl, age := s.here.dispCount, ord := s.here.arrivals } :: s.here.pool) ∧
    (good → s.sendBlocked = false → s.mayLeave s.cur.core s.here.outq e = false → Runs (.fork a b) s fun t =>
      s.Quiet t [] [] ∧ t.here.pool = s.here.pool ∧ t.here.outq = s.here.outq ++ [e]))

/-- Join counters, advances and forks. -/
def Obligations.JoinsForks : Prop := Rules.JoinCounters ∧ Rules.Forks

/-- R287 to R289: SUPV registers a child table that passes its checks; RSTART lands the child's name where the table has one and the
actor is not replicated, and else asks Yarrow to start it; SELFQ reads the actor's entry (its STATE codes are the choice of log entry
58), its queued messages, the deque, a join counter of SELF and its reply waits. What fails the checks is BOUNDS. Other registers and
memory stay. -/
def Obligations.Supervision : Prop := ∀ (s : State) (sel : BitVec 3) (a b : Reg), s.names [a, b] →
  let c := s.cur.core
  let e := s.hd.entry
  let v := (s.reg b).toNat
  (s.self.supv = false → exec (.supv b) s = .next (s.takeFault .bounds)) ∧
  (s.self.supv = true →
    (∀ f, s.checkLocal c e v 192 .rw 64 = .error f → exec (.supv b) s = .next (s.takeFault f)) ∧
    ∀ h r, s.checkLocal c e v 192 .rw 64 = .ok (h, r) →
      let bs := s.localRead (baseView c e) h r v 192
      let fine := tableHeadOk bs = true ∧ r.holds v (192 + 32 * field bs 2 1) = true ∧ s.childNames c e = []
      (¬fine → exec (.supv b) s = .next (s.takeFault .bounds)) ∧
      (fine → Runs (.supv b) s fun t => t.self.sup = some v ∧ s.Quiet t [] [])) ∧
  (s.self.sup = none → exec (.rstart a b) s = .next (s.takeFault .bounds)) ∧
  (∀ tb, s.self.sup = some tb →
    let name := BitVec.ofNat 64 (leNat (s.peek (baseView c e) (tb + 192 + 32 * v) 8))
    let count := leNat (s.peek (baseView c e) (tb + 2) 1)
    (count ≤ v ∨ s.hd.allocPair (some a) 0#3 none = none → exec (.rstart a b) s = .next (s.takeFault .bounds)) ∧
    (v < count → (s.hd.allocPair (some a) 0#3 none).isSome → Runs (.rstart a b) s fun t =>
      t.hd.landing.length = s.hd.landing.length + 1 ∧ s.Quiet t [] [] ∧
      (name ≠ 0#64 → s.self.role = .none → ∃ x ∈ t.here.results, x.serial = s.hd.serial ∧ x.value = name) ∧
      (name = 0#64 ∨ s.self.role ≠ .none → ∃ x ∈ t.here.starts, x.supName = s.self.name ∧ x.child = v))) ∧
  (sel.toNat < 4 → exec (.selfq sel a b) s = s.gives a (s.self.word sel.toNat)) ∧
  exec (.selfq 4#3 a b) s = s.gives a (BitVec.ofNat 64 (s.here.queued e)) ∧
  exec (.selfq 5#3 a b) s = s.gives a (BitVec.ofNat 64 s.here.pool.length) ∧
  (∀ j, Tab.get? s.here.joins v = some j → v < 64 → j.owner = s.self.name →
    exec (.selfq 6#3 a b) s = s.gives a (BitVec.ofNat 64 j.count)) ∧
  ((¬∃ j, Tab.get? s.here.joins v = some j ∧ v < 64 ∧ j.owner = s.self.name) →
    exec (.selfq 6#3 a b) s = .next (s.takeFault .bounds)) ∧
  exec (.selfq 7#3 a b) s = s.gives a (BitVec.ofNat 64 (s.here.waits.filter fun w => decide (w.2.owner = e)).length)

/-! ### Regions, windows, remote operations, copies (chapter 14) -/

/-- R93, R96, R293: RALLOC enters a region at the lowest free handle and the lowest address that fits, its lines clear and no byte outside
them changed, and lands handle and base; the region is usable with the landing. Without room it lands the failure value. A pool actor,
attributes and sizes that no region has, and a full landing buffer are BOUNDS. Registers stay. -/
def Rules.RegionAllocation : Prop := ∀ (s : State) (a b c : Reg), s.names [a, b, c] →
  let attr := (s.reg c).toNat
  let size := (s.reg b).toNat
  let kind := bits attr 12 2
  let core := s.cur.core
  let fine := s.self.pool = false ∧ attrBad attr = false ∧ size ≠ 0 ∧ size % granule kind = 0 ∧
    (s.hd.allocPair (some a) 0#3 none).isSome
  (¬fine → exec (.ralloc a b c) s = .next (s.takeFault .bounds)) ∧
  (fine → ∀ h base i, s.here.freeHandle s.hd.entry = some h → s.placeRegion core kind size = some (base, i) →
    let r := attrRegion attr base size i
    Runs (.ralloc a b c) s fun t => Tab.get? t.self.regions h = some { r with usable := false } ∧
      (∃ x ∈ t.here.results, x.serial = s.hd.serial ∧ x.value = BitVec.ofNat 64 (h * 2 ^ 32 + base) ∧
        x.region = some (s.hd.entry, h)) ∧ s.hd.SameRegs t.hd [] [] ∧ t.hd.flags = s.hd.flags ∧
      (regionHome core r % 64 = 0 → regionHome core r + size ≤ hbmBase → s.SameOutside t (regionHome core r) size ∧
        ∀ x, regionHome core r ≤ x → x < regionHome core r + size → t.readHome x = 0#8)) ∧
  (fine → s.here.freeHandle s.hd.entry = none ∨ s.placeRegion core kind size = none → Runs (.ralloc a b c) s fun t =>
    (∃ x ∈ t.here.results, x.serial = s.hd.serial ∧ x.value = rallocFail) ∧ t.self.regions = s.self.regions ∧ s.Quiet t [] [])

/-- R95, R98, R294, R295: RFREE ends a region with its windows, and of a GIVEN one only the entry; GIVE marks a region GIVEN, ends its
windows and sends it: in place to a live actor of the cluster, for an untagged scratchpad region, else by a transfer of the copy
engine. Both wait for queued operations on the region; a handle without region, a pool actor as giver and a name that is no destination
are BOUNDS, a GIVEN region GIVEN. Registers and memory stay. -/
def Rules.RegionHandover : Prop := ∀ (s : State) (a b c : Reg), s.names [a, b, c] →
  let h := (s.reg b).toNat
  let dest := s.reg a
  let ended (t : State) : Prop := ∀ w ∈ t.here.windows, w.2.live = true → ¬ (w.2.owner = s.hd.entry ∧ w.2.handle = h)
  (s.self.region? h = none ∨ 31 < h → exec (.rfree b) s = .next (s.takeFault .bounds)) ∧
  (∀ r, s.self.region? h = some r → h < 32 →
    (r.given = true → Runs (.rfree b) s fun t => Tab.get? t.self.regions h = none ∧ s.Quiet t [] []) ∧
    (r.given = false → s.regionBusy r = true → exec (.rfree b) s = .next s.stall) ∧
    (r.given = false → s.regionBusy r = false → Runs (.rfree b) s fun t =>
      Tab.get? t.self.regions h = none ∧ ended t ∧ s.Quiet t [] [])) ∧
  (∀ f, s.checkBlock c false false = some f → exec (.give a b c) s = .next (s.takeFault f)) ∧
  (s.checkBlock c false false = none →
    (s.self.pool = true ∨ s.destOk dest = false ∨ s.self.region? h = none ∨ 31 < h →
      exec (.give a b c) s = .next (s.takeFault .bounds)) ∧
    (∀ r, s.self.pool = false → s.destOk dest = true → s.self.region? h = some r → h < 32 →
      (r.given = true → exec (.give a b c) s = .next (s.takeFault .given)) ∧
      (r.given = false → s.regionBusy r = true → exec (.give a b c) s = .next s.stall) ∧
      (r.given = false → s.regionBusy r = false →
        let m := s.msgOf (s.block c) dest s.hd.ctx true
        let near := r.kind = 1 ∧ r.tagged = false ∧ s.isLocal dest = true ∧ nameCore dest < 65568 ∧
          clusterOf (nameCore dest) = clusterOf s.cur.core ∧ s.alive (nameCore dest) dest = true
        (near → s.sendBlocked = true → exec (.give a b c) s = .next s.stall) ∧
        (near → s.sendBlocked = false → s.unhashed → Runs (.give a b c) s fun t =>
          Tab.get? t.self.regions h = some { r with given := true } ∧ ended t ∧
            s.SetsOut t (.transfer (s.transferOf dest m h r true)) ∧ s.Quiet t [] []) ∧
        (¬near → 2 ≤ s.here.teasel.length → exec (.give a b c) s = .next s.stall) ∧
        (¬near → s.here.teasel.length < 2 → Runs (.give a b c) s fun t =>
          Tab.get? t.self.regions h = some { r with given := true } ∧ ended t ∧ s.Quiet t [] [] ∧
            ∃ op, t.here.teasel = s.here.teasel ++ [op] ∧ op.body = .transfer (s.transferOf dest m h r false)))))

/-- Regions allocated, freed and handed over. -/
def Obligations.Regions : Prop := Rules.RegionAllocation ∧ Rules.RegionHandover

/-- R103, R104, R296: GRANT opens the lowest free window on a region as its descriptor says, and puts its key in s[A]; registers but
that, and memory, stay. A pool actor, a bad descriptor and a full window table are BOUNDS; a region that is not SELF's, is GIVEN or may
not be granted so, and an extent that does not fit it, are WINDOW. (That BOUNDS comes before WINDOW is the choice of log entry 59.) -/
def Rules.WindowGrant : Prop := ∀ (s : State) (a b : Reg), s.names [a, b] →
  let bad (f : FaultCode) : Prop := exec (.grant a b) s = .next (s.takeFault f)
  (s.self.pool = true → bad .bounds) ∧
  (s.self.pool = false →
    (∀ f, s.fetchOperand (s.reg b) 32 32 = .fault f → bad f) ∧
    (s.fetchOperand (s.reg b) 32 32 = .wait → exec (.grant a b) s = .next s.stall) ∧
    (∀ bs, s.fetchOperand (s.reg b) 32 32 = .bytes bs →
      let grantee : Word := BitVec.ofNat 64 (field bs 0 8)
      let off := field bs 8 4
      let len := field bs 12 4
      let rights := field bs 17 1
      let free := (List.range 64).find? fun i => !((Tab.get? s.here.windows i).getD {}).live
      let fine := rights < 16 ∧ field bs 20 12 = 0 ∧ field bs 16 1 < 32 ∧ field bs 18 1 ≤ 2 ∧ field bs 19 1 < 64 ∧
        (field bs 18 1 = 0 → nameBad grantee = false ∧ nameTenant grantee = s.self.tenant) ∧
        (bits rights 3 1 = 1 → s.here.joinOf (field bs 19 1) s.self.name = true)
      let fits (r : Region) := r.given = false ∧ r.gr = true ∧ off % 64 = 0 ∧ len % 64 = 0 ∧ len ≠ 0 ∧ off + len ≤ r.size ∧
        (bits rights 1 1 = 1 ∨ bits rights 2 1 = 1 → r.wr = true) ∧ (bits rights 0 1 = 1 → r.rd = true)
      (¬fine ∨ free = none → bad .bounds) ∧
      (fine → ∀ i, free = some i → (¬∃ r, s.self.region? (field bs 16 1) = some r ∧ fits r) → bad .window) ∧
      (fine → ∀ i r, free = some i → s.self.region? (field bs 16 1) = some r → fits r → Runs (.grant a b) s fun t =>
        s.Quiet t [a] [] ∧ ∃ w, Tab.get? t.here.windows i = some w ∧ w.live = true ∧ w.grantee = grantee ∧
          w.off = off ∧ w.len = len ∧ w.owner = s.hd.entry ∧ w.handle = field bs 16 1 ∧
          w.gen = ((Tab.get? s.here.windows i).getD {}).gen ∧ w.gk = field bs 18 1 ∧ w.jc.toNat = field bs 19 1 ∧
          w.cn = decide (bits rights 3 1 = 1) ∧ w.at_ = decide (bits rights 2 1 = 1) ∧ w.ww = decide (bits rights 1 1 = 1) ∧
          w.wd = decide (bits rights 0 1 = 1) ∧ (a ≠ 0#5 → t.reg a = s.windowKey s.cur.core i w s.self.tenant))))

/-- R108, R297: REVOKE ends a window, so that its key names none; PUBLISH opens a window of a group, with WD and whole 256-byte lines, to
pulls, or withdraws that; any other window for PUBLISH, and a key that names no live window of SELF, are WINDOW. Registers and memory
stay. -/
def Rules.WindowEnds : Prop := ∀ (s : State) (b : Reg), s.names [b] →
  (∀ i w, s.ownWindow (s.reg b) = some (i, w) →
    let open_ := w.gk = 1 ∧ w.wd = true ∧ w.off % 256 = 0 ∧ w.len % 256 = 0
    (Runs (.revoke b) s fun t => Tab.get? t.here.windows i = some { w with live := false, gen := w.gen + 1#16, pb := false, dd := false } ∧
      t.ownWindow (s.reg b) = none ∧ s.Quiet t [] []) ∧
    (open_ → Runs (.publish false b) s fun t => Tab.get? t.here.windows i = some { w with pb := true } ∧ s.Quiet t [] []) ∧
    (¬open_ → exec (.publish false b) s = .next (s.takeFault .window)) ∧
    (Runs (.publish true b) s fun t => Tab.get? t.here.windows i = some { w with pb := false } ∧ s.Quiet t [] [])) ∧
  (s.ownWindow (s.reg b) = none → ∀ x, exec (.revoke b) s = .next (s.takeFault .window) ∧
    exec (.publish x b) s = .next (s.takeFault .window))

/-- Windows granted, published and revoked. -/
def Obligations.Windows : Prop := Rules.WindowGrant ∧ Rules.WindowEnds

/-- R184, R292, R304, R305: RST, RSTC, RLD and RATOM leave as one operation on the window of their key, recorded until the answer; RLD
and RATOM take landing entries for their result. A key or offset with reserved bits and a full landing buffer are BOUNDS, a second
operand of RATOM cas beyond the declared count REGBOUND, and they wait while sends wait. Scalar, predicate, shape and tile registers and
memory stay. -/
def Rules.RemoteForms : Prop := ∀ (s : State) (n : BitVec 5) (p : Pred) (a b c : Reg) (o : MemOrd) (op : AtomOp), s.names [a, b, c] →
  let bad (i : Instr) (f : FaultCode) : Prop := exec i s = .next (s.takeFault f)
  let issued (i : Instr) (key : Word) (r : RemoteOp) : Prop :=
    (s.sendBlocked = true → exec i s = .next s.stall) ∧
    (s.sendBlocked = false → s.unhashed → Runs i s fun t => s.Quiet t [] [] ∧
      (∃ x, Tab.get? t.here.remotes s.here.nextId = some x ∧ x.serial = s.hd.serial ∧ x.module = nameModule key) ∧
      (s.isLocal key = true → s.SetsOut t (.remote r)))
  let len := (n.toNat + 1) * 8
  let stores (i : Instr) (counted : Bool) : Prop :=
    (∀ f, s.fetchOperand (s.reg b) len 8 = .fault f → bad i f) ∧
    (s.fetchOperand (s.reg b) len 8 = .wait → exec i s = .next s.stall) ∧
    (∀ bs, s.fetchOperand (s.reg b) len 8 = .bytes bs →
      (keyOk (s.reg a) (s.reg c) = false → bad i .bounds) ∧
      (keyOk (s.reg a) (s.reg c) = true →
        issued i (s.reg a) (s.remoteOp .store (s.reg a) (s.reg c).toNat len bs 0#64 0#64 counted)))
  let reads (i : Instr) (r : RemoteOp) : Prop :=
    (keyOk (s.reg b) (s.reg c) = false → bad i .bounds) ∧
    (keyOk (s.reg b) (s.reg c) = true → s.sendBlocked = false → s.hd.allocPair (some a) p (acqOf o) = none → bad i .bounds) ∧
    (keyOk (s.reg b) (s.reg c) = true → (s.hd.allocPair (some a) p (acqOf o)).isSome → issued i (s.reg b) r)
  stores (.rst n a b c o) false ∧ stores (.rstc n a b c o) true ∧
  reads (.rld p a b c o) (s.remoteOp .load (s.reg b) (s.reg c).toNat 8 [] 0#64 0#64 false) ∧
  (op ≠ .cas → reads (.ratom op p a b c o) (s.remoteOp (atomKind op) (s.reg b) (s.reg c).toNat 8 [] (s.reg a) 0#64 false)) ∧
  (s.hd.count ≤ a.toNat + 1 → bad (.ratom .cas p a b c o) .regbound) ∧
  (a.toNat + 1 < s.hd.count → reads (.ratom .cas p a b c o)
    (s.remoteOp .cas (s.reg b) (s.reg c).toNat 8 [] (s.reg a) (s.regN (a.toNat + 1)) false))

/-- R308 to R310, R193: WQ opens the lowest free distributor of the die and lands its handle, or lands 0 where none is free, once no
fence of its handler holds it; it asks one and closes one by an operation recorded until its answer; sizes of 0 or beyond 16 bits, a
handle with reserved bits for the close, and a full landing buffer are BOUNDS, and they wait while sends wait. FENCE.R divides the
handler's program, and with pd waits for the handler's remote operations of its scope, or answers at once whether any of them met a dead
window. Scalar, predicate, shape and tile registers and memory stay. -/
def Rules.DistributorsFence : Prop := ∀ (s : State) (a b : Reg) (sc : Scope) (p : Pred), s.names [a, b] →
  let v := (s.reg b).toNat
  let die := dieOf s.cur.core
  let k := s.here
  let entry (e : Nat) := (Tab.get? (s.die die).dists e).getD {}
  let lowest := (List.range 64).find? fun e => !(entry e).busy
  let lands (t : State) (v : Word) : Prop := ∃ x ∈ t.here.results, x.serial = s.hd.serial ∧ x.value = v
  let bad (i : Instr) : Prop := exec i s = .next (s.takeFault .bounds)
  let waits (i : Instr) : Prop := s.sendBlocked = true → exec i s = .next s.stall
  let sizes := v < 2 ^ 32 ∧ v % 65536 ≠ 0 ∧ 65536 ≤ v
  let takes := (s.hd.allocPair (some a) 0#3 none).isSome
  (¬sizes → bad (.wqOpen a b)) ∧ (sizes → waits (.wqOpen a b)) ∧ (sizes → s.sendBlocked = false → ¬takes → bad (.wqOpen a b)) ∧
  (sizes → s.sendBlocked = false → takes →
    (∀ f ∈ s.hd.fences, k.writePending s.mod.timeNs s.cur.core s.self.name s.hd.serial f.1 f.2 = false) →
    (∀ e, lowest = some e → Runs (.wqOpen a b) s fun t =>
      (∃ d, Tab.get? (t.die die).dists e = some d ∧ d.busy = true ∧ d.x = v % 65536 ∧ d.y = v / 65536 ∧ d.next = 0 ∧
        d.owner = s.self.name ∧ d.gen = (entry e).gen ∧ lands t (s.distHandle die e d)) ∧ s.Quiet t [] []) ∧
    (lowest = none → Runs (.wqOpen a b) s fun t => lands t 0#64 ∧ s.Quiet t [] [])) ∧
  waits (.wqQuery a b) ∧ (s.sendBlocked = false → ¬takes → bad (.wqQuery a b)) ∧
  (s.sendBlocked = false → takes → s.unhashed → Runs (.wqQuery a b) s fun t =>
    (∃ x, Tab.get? t.here.remotes k.nextId = some x ∧ x.serial = s.hd.serial) ∧ s.Quiet t [] [] ∧
      (s.isLocal (s.reg b) = true → s.SetsOut t (.wqQuery (s.reg b) s.self.tenant (s.gcore s.cur.core) k.nextId))) ∧
  (handleBad (s.reg b) = true → bad (.wqClose b)) ∧ (handleBad (s.reg b) = false → waits (.wqClose b)) ∧
  (handleBad (s.reg b) = false → s.sendBlocked = false → s.unhashed → Runs (.wqClose b) s fun t =>
    (∃ x, Tab.get? t.here.remotes k.nextId = some x ∧ x.serial = s.hd.serial) ∧ s.Quiet t [] [] ∧
      (s.isLocal (s.reg b) = true → s.SetsOut t (.wqClose (s.reg b) s.self.name (s.gcore s.cur.core) k.nextId))) ∧
  (p = 0#3 → Runs (.fenceR sc p) s fun t => t.hd.fences = s.hd.fences ++ [(sc, k.seq)] ∧ s.Quiet t [] []) ∧
  (p ≠ 0#3 → s.hd.allocPair none p none = none → bad (.fenceR sc p)) ∧
  (p ≠ 0#3 → (s.hd.allocPair none p none).isSome →
    let dead := s.hd.deadOps.any fun d => decide (scopeRank d ≤ scopeRank sc)
    let open_ := k.remotesOpen s.mod.timeNs s.cur.core s.hd.serial sc k.seq
    Runs (.fenceR sc p) s fun t => t.hd.fences = s.hd.fences ++ [(sc, k.seq)] ∧ s.Quiet t [] [] ∧
      (open_ = true → ∃ w ∈ t.here.fenceWaits, w.serial = s.hd.serial ∧ w.scope = sc ∧ w.upto = k.seq ∧ w.dead = dead) ∧
      (open_ = false → lands t (BitVec.ofNat 64 (!dead).toNat)))

/-- Remote operations, work distributors and the remote fence as instructions. -/
def Obligations.RemoteInstructions : Prop := Rules.RemoteForms ∧ Rules.DistributorsFence

/-- R298 to R303: CPY, CPYC, CPYE, DEAL and GATH whose descriptor, extents and slice list pass their checks queue one operation of the
copy engine; an empty one without completion only retires, one with a completion leaves memory as it is; a third waits. A descriptor
that fails its checks takes their fault. Registers and memory stay. -/
def Rules.CopyForms : Prop := ∀ (s t' : State) (b : Reg) (o : MemOrd) (m : ExfMode), s.names [b] →
  let refused (i : Instr) (k : CopyKind) : Prop :=
    (∀ f, s.fetchOperand (s.reg b) 64 64 = .fault f → exec i s = .next (s.takeFault f)) ∧
    (s.fetchOperand (s.reg b) 64 64 = .wait → exec i s = .next s.stall) ∧
    (∀ bs, s.fetchOperand (s.reg b) 64 64 = .bytes bs →
      (descKinds k (readDesc bs) = false ∨ descReservedOk k bs (readDesc bs) = false → exec i s = .next (s.takeFault .bounds)))
  let queued (i : Instr) (k : CopyKind) (bs : List Byte) (d : CopyDesc) : Prop := s.CopyReady k bs d t' →
    (d.len ≠ 0 → 2 ≤ s.here.teasel.length → exec i s = .next s.stall) ∧
    (d.len ≠ 0 → s.here.teasel.length < 2 → Runs i s fun t => t'.Quiet t [] [] ∧ ∃ op, t.here.teasel = t'.here.teasel ++ [op] ∧
      op.body = .copy k d ∧ op.name = t'.self.name ∧ op.serial = t'.hd.serial ∧ op.ctx = t'.hd.ctx ∧ op.begun = false) ∧
    (d.len = 0 → d.completes = false → Runs i s fun t => t'.Quiet t [] [] ∧ t.here.teasel = t'.here.teasel) ∧
    (d.len = 0 → s.here.teasel.length < 2 → Runs i s fun t => ∀ x, t.readHome x = t'.readHome x)
  refused (.cpy b) .cpy ∧ refused (.cpyc b o) .cpyc ∧ refused (.cpye m b) (.cpye m) ∧ refused (.deal b o) .deal ∧ refused (.gath b) .gath ∧
  ∀ bs, s.fetchOperand (s.reg b) 64 64 = .bytes bs →
    let d := readDesc bs
    queued (.cpy b) .cpy bs d ∧ queued (.cpyc b o) .cpyc bs d ∧ queued (.cpye m b) (.cpye m) bs d ∧
    (∀ l sl, s.fetchOperand (BitVec.ofNat 64 d.aux) (16 * d.ns) 16 = .bytes l → readSlices d.ns l = some sl →
      queued (.deal b o) .deal bs { d with slices := sl } ∧ queued (.gath b) .gath bs { d with slices := sl })

/-- R306, R307: MCST and PULL whose descriptor and extents pass their checks are recorded as one operation until their answer, MCST with
the result line it asks for reserved; they wait while sends wait. A descriptor that fails its checks takes their fault. Registers and
memory stay. -/
def Rules.GroupForms : Prop := ∀ (s t' : State) (b : Reg) (o : MemOrd), s.names [b] →
  let refused (i : Instr) (k : CopyKind) : Prop :=
    (∀ f, s.fetchOperand (s.reg b) 64 64 = .fault f → exec i s = .next (s.takeFault f)) ∧
    (s.fetchOperand (s.reg b) 64 64 = .wait → exec i s = .next s.stall) ∧
    (∀ bs, s.fetchOperand (s.reg b) 64 64 = .bytes bs →
      (descKinds k (readDesc bs) = false ∨ descReservedOk k bs (readDesc bs) = false → exec i s = .next (s.takeFault .bounds)))
  refused (.mcst b o) .mcst ∧ refused (.pull b) .pull ∧
  ∀ bs, s.fetchOperand (s.reg b) 64 64 = .bytes bs →
    let d := readDesc bs
    let sent (i : Instr) (k : CopyKind) : Prop := s.CopyReady k bs d t' →
      (s.sendBlocked = true → exec i s = .next s.stall) ∧
      (s.sendBlocked = false → s.unhashed → Runs i s fun t => t'.Quiet t [] [] ∧
        (∃ op ∈ t.here.apert, op.body = .copy k d ∧ op.serial = t'.hd.serial) ∧
        ∃ r, Tab.get? t.here.remotes t'.here.nextId = some r ∧ r.use = .copy t'.here.nextId 0)
    sent (.pull b) .pull ∧
    (d.res = 0 → sent (.mcst b o) .mcst) ∧
    (∀ x, d.res ≠ 0 → s.checkLocal s.cur.core s.hd.entry d.res 64 .wr 64 = .ok x →
      s.lockedAt d.res 64 = false → sent (.mcst b o) .mcst) ∧
    (∀ f, d.res ≠ 0 → descKinds .mcst d = true → descReservedOk .mcst bs d = true → (d.msg = true → cwChan d.ccw ≠ 0#2) → d.ljc = false →
      s.checkLocal s.cur.core s.hd.entry d.res 64 .wr 64 = .error f → exec (.mcst b o) s = .next (s.takeFault f))

/-- Copies, collectives and multicasts as instructions. -/
def Obligations.Copies : Prop := Rules.CopyForms ∧ Rules.GroupForms

/-! ### Vector engine, matrix unit, summary unit (chapters 15 to 17) -/

/-- R313: DLD loads a shape record, its BASE replaced by s[C] in the second form, and changes no other register and no byte; a record
that breaks R312 is a SHAPE fault, a BASE beyond 32 bits BOUNDS, a failing check its fault, and it stalls where it must wait. -/
def Obligations.ShapeLoads : Prop := ∀ (s : State) (d : ShapeReg) (b c : Reg) (off : Word),
  let stops (i : Instr) : Prop := (∀ f, s.access (s.ea b off) 32 .rd = .fault f → exec i s = .next (s.takeFault f)) ∧
    (s.access (s.ea b off) 32 .rd = .wait → exec i s = .next s.stall)
  (s.names [b] → stops (.dld d b off)) ∧ (s.names [b, c] → stops (.dldBase d b off c)) ∧
  ∀ (addr h : Nat) (r : Region), s.access (s.ea b off) 32 .rd = .at_ addr h r →
  let bs := (s.touchRead s.hdView h r addr).localRead s.hdView h r addr 32
  let loads (i : Instr) (bs : List Byte) : Prop := (shapeOk bs = true → Runs i s fun t =>
      t.hd.shapes[d.toNat] = some (BitVec.ofNat 256 (leNat bs)) ∧
      (∀ e : ShapeReg, e ≠ d → t.hd.shapes[e.toNat] = s.hd.shapes[e.toNat]) ∧ (∀ r, t.reg r = s.reg r) ∧ t.hd.flags = s.hd.flags ∧
      ∀ a, t.readHome a = s.readHome a) ∧
    (shapeOk bs = false → exec i s = .next ((s.touchRead s.hdView h r addr).takeFault .shape))
  (s.names [b] → loads (.dld d b off) bs) ∧
  (s.names [b, c] → (s.reg c).toNat < 2 ^ 32 → loads (.dldBase d b off c) (leBytes 4 (s.reg c).toNat ++ bs.drop 4)) ∧
  (s.names [b, c] → 2 ^ 32 ≤ (s.reg c).toNat →
    exec (.dldBase d b off c) s = .next ((s.touchRead s.hdView h r addr).takeFault .bounds))

/-- R315, R316, R318, R319, R350: every vector form, and RNGV, samples its shapes and scalars and queues one operation behind the
core's others, its destination's cells reserved; registers and memory stay. An empty operand queues nothing, an unset shape register is a
SHAPE fault, a failing check its fault; it waits where the interlock holds it. -/
def Rules.VectorForms : Prop := ∀ (s s' : State) (a b d m : ShapeReg) (rb rc : Reg) (cond : VCond), s.here.vec.length < 2 →
  let queued (i : Instr) (k : VecKind) (srcs : List ShapeReg) (v w : Word) : Prop :=
    (s.hd.shapesOf (a :: srcs) = none → exec i s = .next (s.takeFault .shape)) ∧
    ∀ dr rs, s.hd.shapesOf (a :: srcs) = some (dr :: rs) →
      let c := s.checkVec k (shapeOf dr) (rs.map shapeOf)
      (c = .empty → exec i s = .next s.retire) ∧ (∀ f, c = .fault f → exec i s = .next (s.takeFault f)) ∧
      (∀ reads writes, c = .ok reads writes → s.engineHeld reads writes = true → exec i s = .next s.stall) ∧
      ∀ reads writes, c = .ok reads writes → s.engineHeld reads writes = false → s.reserveShape (shapeOf dr) = .ok s' →
        Runs i s fun t => s'.Quiet t [] [] ∧ ∃ op, t.here.vec = s'.here.vec ++ [op] ∧ op.body = .vec k dr rs v w ∧ op.reads = reads ∧
          op.writes = writes ∧ op.name = s'.self.name ∧ op.serial = s'.hd.serial ∧ op.ctl = s'.hd.ctl ∧ op.sent = false
  let unary (i : Instr) (k : VecKind) : Prop := queued i k [b] 0#64 0#64
  let binary (i : VSrc → Instr) (k : VecKind) : Prop := queued (i (.shape d)) k [b, d] 0#64 0#64 ∧
    (s.names [rb] → queued (i (.scalar rb)) k [b] (s.reg rb) 0#64)
  binary (.vadd a b) .add ∧ binary (.vsub a b) .sub ∧ binary (.vmul a b) .mul ∧ binary (.vfma a b) .fma ∧ binary (.vdiv a b) .div ∧
  binary (.vmin a b) .min ∧ binary (.vmax a b) .max ∧ binary (.vand a b) .and ∧ binary (.vor a b) .or ∧ binary (.vxor a b) .xor ∧
  binary (.vshl a b) .shl ∧ binary (.vshr a b) .shr ∧ binary (.vsra a b) .sra ∧ binary (.vcmp cond a b) (.cmp cond) ∧
  unary (.vabs a b) .abs ∧ unary (.vneg a b) .neg ∧ unary (.vexp a b) .exp ∧ unary (.vlog a b) .log ∧ unary (.vsqrt a b) .sqrt ∧
  unary (.vrsq a b) .rsq ∧ unary (.vrcp a b) .rcp ∧ unary (.vtanh a b) .tanh ∧ unary (.vsig a b) .sig ∧ unary (.vcvt a b) .cvt ∧
  unary (.vrsum a b) .rsum ∧ unary (.vrmax a b) .rmax ∧ unary (.vrmin a b) .rmin ∧ unary (.vtrn a b) .trn ∧
  queued (.vperm a b d) .perm [b, d] 0#64 0#64 ∧ queued (.vsel a m b (.shape d)) .sel [b, d, m] 0#64 0#64 ∧
  (s.names [rb] → queued (.vsel a m b (.scalar rb)) .sel [b, m] (s.reg rb) 0#64 ∧ queued (.vfill a rb) .fill [] (s.reg rb) 0#64) ∧
  (s.names [rb, rc] → queued (.rngv a rb rc) .rng [] (s.reg rb) (s.reg rc))

/-- R327: VXCH whose source passes the checks reads its table of keys and queues the exchange; a key outside the cluster, a reserved bit
of the control word, and a join counter that is not SELF's, are BOUNDS. Registers and memory stay. -/
def Rules.ExchangeIssue : Prop := ∀ (s : State) (a : ShapeReg) (b c : Reg) (dr : BitVec 256) (reads writes : List Span)
    (bs : List Byte), s.names [b, c] → s.hd.shapesOf [a] = some [dr] → s.checkVec .xch (shapeOf dr) [] = .ok reads writes →
  s.fetchOperand (s.reg b) 128 128 = .bytes bs → s.here.vec.length < 2 →
  let v := s.reg c
  let keys := (List.range 16).map fun i => BitVec.ofNat 64 (field bs (8 * i) 8)
  let good := bits v.toNat 39 25 = 0 ∧ bits v.toNat 0 3 = 0 ∧
    (v.getLsbD 38 = true → s.here.joinOf (bits v.toNat 32 6) s.self.name = true) ∧ ∀ k ∈ keys, s.xchKeyOk k = true
  (good → s.engineHeld reads [] = false → Runs (.vxch a b c) s fun t => s.Quiet t [] [] ∧
    ∃ op, t.here.vec = s.here.vec ++ [op] ∧ op.body = .vec .xch dr [] v 0#64 ∧ op.keys = keys ∧ op.serial = s.hd.serial) ∧
  (¬good → exec (.vxch a b c) s = .next (s.takeFault .bounds))

/-- Vector forms and the exchange as instructions. -/
def Obligations.VectorInstructions : Prop := Rules.VectorForms ∧ Rules.ExchangeIssue

/-- R334, R335, R337 to R339: the matrix forms whose formats, strides, addresses and ranges pass the checks of R334 queue one operation
with the control registers as they are; registers, tiles and memory stay until it completes. MMA on formats that no kind takes is a
FORMAT fault. -/
def Obligations.MatrixForms : Prop := ∀ (s s' : State) (n m : AccReg) (a b c : Reg) (k : AccKind) (e5 : Bool),
  s.here.matq.length < 2 →
  let put (u : State) (i : Instr) (body : EngBody) (reads writes : List Span) : Prop := Runs i s fun t => u.Quiet t [] [] ∧
    ∃ op, t.here.matq = u.here.matq ++ [op] ∧ op.body = body ∧ op.reads = reads ∧ op.writes = writes ∧ op.serial = u.hd.serial ∧
      op.ctl = u.hd.ctl
  let ctl := s.hd.ctl
  let st := (s.reg c).toNat
  let mult (i : Instr) (sparse : Bool) (kind : MatKind) : Prop := ∀ k, mulKind ctl.fmta.toNat ctl.fmtb.toNat = some k →
    let x := mulA sparse ctl (kindSide k) (s.reg a).toNat st
    let y := mulB ctl (kindSide k) (s.reg b).toNat st
    let arrays := mulArrays sparse k ctl
    let reads := [x.span s.cur.core, y.span s.cur.core] ++ arrays.map fun r => s.spanAt r.1 r.2
    (sparse = true → k ≠ .f64 ∧ ctl.fmta ≠ 6#4 ∧ ctl.fmtb ≠ 6#4 ∧ ctl.sparse.toNat % 2 = 0) → st < 2 ^ 32 →
    x.strideOk = true → y.strideOk = true → x.addr < 2 ^ 32 → y.addr < 2 ^ 32 → x.aligned = true → y.aligned = true →
    s.checkRanges ([(x.addr, x.extent), (y.addr, y.extent)] ++ arrays) = none → s.engineHeld reads [] = false →
    put s i (.mat kind n 0#2 x.addr y.addr st) reads []
  let image := imageOf k ctl (s.reg b).toNat st
  (s.names [a, b, c] → mult (.mma n a b c) false (.mma false) ∧ mult (.mmat n a b c) false (.mma true) ∧
    mult (.msp n a b c) true (.msp false) ∧ mult (.mspt n a b c) true (.msp true) ∧
    (mulKind ctl.fmta.toNat ctl.fmtb.toNat = none → exec (.mma n a b c) s = .next (s.takeFault .format))) ∧
  put s (.mzero n) (.mat .zero n 0#2 0 0 0) [] [] ∧ put s (.mcp n m) (.mat .cp n m 0 0 0) [] [] ∧
  put s (.madd k n m) (.mat (.addAcc k) n m 0 0 0) [] [] ∧ put s (.mtrn n m) (.mat .trn n m 0 0 0) [] [] ∧
  put s (.mtrnD n m) (.mat .trnD n m 0 0 0) [] [] ∧
  (s.names [b, c] → imageFault (loadFormats k) image st = none → s.checkRange image.addr image.extent .rd = none →
    s.engineHeld [image.span s.cur.core] [] = false → put s (.mld k n b c) (.mat (.ld k) n 0#2 0 image.addr st) [image.span s.cur.core] []) ∧
  (∀ h r, s.names [b, c] → imageFault (storeFormats k) image st = none →
    s.checkLocal s.cur.core s.hd.entry image.addr image.extent .wr 1 = .ok (h, r) → s.engineHeld [] [image.span s.cur.core] = false →
    s.reserveView s.hdView h r image.addr image.extent = .ok s' →
    put s' (.mst k e5 n b c) (.mat (.st k e5) n 0#2 0 image.addr st) [] [image.span s.cur.core])

/-- R343, R344: QSKI, HHI and DCI insert a shape's elements into a summary: their checks, in order, are the shape register (SHAPE), its
type (FORMAT), the address (BOUNDS, ALIGN), the element space (BOUNDS), overlap (SHAPE) and the ranges (R94); an empty shape only
retires; the interlock and a full unit make it wait; else one operation is queued with the summary's cells reserved. Registers and memory
stay. -/
def Rules.SummaryInserts : Prop := ∀ (s : State) (d : ShapeReg) (a : Reg), s.names [a] →
  let x := s.reg a
  let form (i : Instr) (t : SumType) (k : SumKind) : Prop :=
    (s.hd.shapes[d.toNat] = none → exec i s = .next (s.takeFault .shape)) ∧
    ∀ r, s.hd.shapes[d.toNat] = some r →
      let sh := shapeOf r
      let needs := s.checkNeeds [(x.toNat, t.extent, .rw), (sh.range.1, sh.range.2, .rd)]
      let reads := [sh.span s.cur.core]
      let writes := [s.spanAt x.toNat t.extent]
      (t.admits sh.ty = false → exec i s = .next (s.takeFault .format)) ∧
      (t.admits sh.ty = true → (∀ f, sumAddr [(x, 64)] = some f → exec i s = .next (s.takeFault f)) ∧
        (sumAddr [(x, 64)] = none → (sh.n = 0 → exec i s = .next s.retire) ∧
          (sh.n ≠ 0 → sh.inSpace = false → exec i s = .next (s.takeFault .bounds)) ∧
          (sh.n ≠ 0 → sh.inSpace = true →
            (extentsMeet sh.range.1 sh.range.2 x.toNat t.extent = true → exec i s = .next (s.takeFault .shape)) ∧
            (extentsMeet sh.range.1 sh.range.2 x.toNat t.extent = false →
              (∀ f, needs = some f → exec i s = .next (s.takeFault f)) ∧
              (needs = none → (s.engineHeld reads writes = true ∨ 2 ≤ s.here.sumq.length) → exec i s = .next s.stall) ∧
              (needs = none → s.engineHeld reads writes = false → s.here.sumq.length < 2 →
                ∀ u, s.reserveExtent x.toNat t.extent = .ok u → Runs i s fun v => u.Quiet v [] [] ∧
                  ∃ op, v.here.sumq = u.here.sumq ++ [op] ∧ op.body = .sum k x 0#64 0#64 r ∧ op.reads = reads ∧ op.writes = writes ∧
                    op.serial = u.hd.serial ∧ op.ctl = u.hd.ctl)))))
  form (.qski a d) .qsk .qski ∧ form (.hhi a d) .hhl .hhi ∧ form (.dci a d) .dcr .dci

/-- R343, R344: QSKM, HHM and DCM merge a summary into another, QSKN, HHN and DCN reset one: addresses (BOUNDS, ALIGN), for a merge an
overlap of different summaries (SHAPE), for a reset first the key format (FORMAT) and the capacity word (BOUNDS), then the ranges
(R94); the interlock and a full unit make them wait; else one operation is queued with the summary's cells reserved. Registers and memory
stay. -/
def Rules.SummaryMerges : Prop := ∀ (s : State) (a b : Reg) (fmt : BitVec 6), s.names [a, b] →
  let x := s.reg a
  let y := s.reg b
  let queues (i : Instr) (n : Nat) (reads : List Span) (body : EngBody) (needs : Option FaultCode) : Prop :=
    let writes := [s.spanAt x.toNat n]
    (∀ f, needs = some f → exec i s = .next (s.takeFault f)) ∧
    (needs = none → (s.engineHeld reads writes = true ∨ 2 ≤ s.here.sumq.length) → exec i s = .next s.stall) ∧
    (needs = none → s.engineHeld reads writes = false → s.here.sumq.length < 2 → ∀ u, s.reserveExtent x.toNat n = .ok u →
      Runs i s fun v => u.Quiet v [] [] ∧ ∃ op, v.here.sumq = u.here.sumq ++ [op] ∧ op.body = body ∧ op.reads = reads ∧
        op.writes = writes ∧ op.serial = u.hd.serial ∧ op.ctl = u.hd.ctl)
  let merge (i : Instr) (t : SumType) (k : SumKind) : Prop :=
    (∀ f, sumAddr [(x, 64), (y, 64)] = some f → exec i s = .next (s.takeFault f)) ∧
    (sumAddr [(x, 64), (y, 64)] = none →
      let meet := x ≠ y ∧ extentsMeet x.toNat t.extent y.toNat t.extent = true
      (meet → exec i s = .next (s.takeFault .shape)) ∧
      (¬meet → queues i t.extent [s.spanAt y.toNat t.extent] (.sum k x y 0#64 0#256)
        (s.checkNeeds [(x.toNat, t.extent, .rw), (y.toNat, t.extent, .rd)])))
  let reset (i : Instr) (t : SumType) (k : SumKind) (f : Nat) : Prop :=
    (t.kfmtOk f = false → exec i s = .next (s.takeFault .format)) ∧
    (t.kfmtOk f = true → (2 ^ 32 ≤ y.toNat → exec i s = .next (s.takeFault .bounds)) ∧
      (y.toNat < 2 ^ 32 → (∀ f, sumAddr [(x, 64)] = some f → exec i s = .next (s.takeFault f)) ∧
        (sumAddr [(x, 64)] = none → queues i t.extent [] (.sum k x 0#64 y 0#256) (s.checkNeeds [(x.toNat, t.extent, .wr)]))))
  merge (.qskm a b) .qsk .qskm ∧ merge (.hhm a b) .hhl .hhm ∧ merge (.dcm a b) .dcr .dcm ∧
  reset (.qskn a b) .qsk .qskn 7 ∧ reset (.hhn fmt a b) .hhl (.hhn fmt) fmt.toNat ∧ reset (.dcn fmt a b) .dcr (.dcn fmt) fmt.toNat

/-- R343, R344, R22: QSKQ, QSKR, DCE and HHQ ask a summary: an operand beyond 32 bits (BOUNDS), addresses (BOUNDS, ALIGN), for HHQ an
overlap (SHAPE), the ranges (R94); the interlock and a full unit make them wait, a full landing buffer is BOUNDS; else one operation is
queued with the lowest free landing entry, which its result will reach, and HHQ's cells reserved. Registers and memory stay. -/
def Rules.SummaryQueries : Prop := ∀ (s : State) (a b c : Reg), s.names [a, b, c] →
  let y := s.reg b
  let z := s.reg c
  let queues (i : Instr) (reads writes : List Span) (body : EngBody) (needs : Option FaultCode) (got : Got) : Prop :=
    let held := s.engineHeld reads writes = true ∨ 2 ≤ s.here.sumq.length
    (∀ f, needs = some f → exec i s = .next (s.takeFault f)) ∧ (needs = none → held → exec i s = .next s.stall) ∧
    (needs = none → ¬held → s.hd.landFree 1 = false → exec i s = .next (s.takeFault .bounds)) ∧
    (needs = none → ¬held → s.hd.landFree 1 = true → ∀ u n, got = .ok u → Tab.lowestFree s.hd.landing 8 = some n →
      Runs i s fun v => u.Quiet v [] [] ∧ (Tab.get? v.hd.landing n).isSome ∧
        ∃ op, v.here.sumq = u.here.sumq ++ [op] ∧ op.body = body ∧ op.land = some n ∧ op.reads = reads ∧ op.writes = writes ∧
          op.serial = u.hd.serial ∧ op.ctl = u.hd.ctl)
  let ask (i : Instr) (t : SumType) (k : SumKind) (v : Word) : Prop :=
    (2 ^ 32 ≤ v.toNat → exec i s = .next (s.takeFault .bounds)) ∧
    (v.toNat < 2 ^ 32 → (∀ f, sumAddr [(y, 64)] = some f → exec i s = .next (s.takeFault f)) ∧
      (sumAddr [(y, 64)] = none → queues i [s.spanAt y.toNat t.extent] [] (.sum k y 0#64 v 0#256)
        (s.checkNeeds [(y.toNat, t.extent, .rd)]) (.ok s)))
  ask (.qskq a b c) .qsk .qskq z ∧ ask (.qskr a b c) .qsk .qskr z ∧ ask (.dce a b) .dcr .dce 0#64 ∧
  (∀ f, sumAddr [(y, 64), (z, 16)] = some f → exec (.hhq a b c) s = .next (s.takeFault f)) ∧
  (sumAddr [(y, 64), (z, 16)] = none →
    (extentsMeet y.toNat 1088 z.toNat 1024 = true → exec (.hhq a b c) s = .next (s.takeFault .shape)) ∧
    (extentsMeet y.toNat 1088 z.toNat 1024 = false →
      queues (.hhq a b c) [s.spanAt y.toNat 1088] [s.spanAt z.toNat 1024] (.sum .hhq y 0#64 z 0#256)
        (s.checkNeeds [(y.toNat, 1088, .rd), (z.toNat, 1024, .wr)]) (s.reserveExtent z.toNat 1024)))

/-- Summary forms: inserts, merges and resets, queries. -/
def Obligations.SummaryForms : Prop := Rules.SummaryInserts ∧ Rules.SummaryMerges ∧ Rules.SummaryQueries

/-- R319, R328, R339, R340, R344, R124, R135: the next operation of the vector engine, of the matrix unit or of the summary unit, once its
engine has begun it, no fence and no earlier write of its program holds it, and its context, lines and cells are there, leaves its queue
with its writes made; MZERO clears its tile and MCP copies one; an exchange begins to send its slices, and leaves when all are answered.
One that is not begun, that a fence or an earlier write holds, or that waits for its context or cells, stays. -/
def Rules.EnginesComplete : Prop := ∀ (s : State) (core : Nat) (o : EngOp),
  let k := s.core core
  let met := o.begun && s.engineMay core o
  let turn (i : Instr) (done : State → EngOp → Prop) : Prop := (met = false → exec i s = .next s) ∧
    (met = true → ∀ u o', (s.opReady core o = (false, u, o') → exec i s = .next u) ∧
      (s.opReady core o = (true, u, o') → done (u.touchSpans (o'.view core) o'.reads) o'))
  let outside (u t : State) : Prop := u.SameOutside t (recordHome core o.rec_ 0) recordEnd
  (k.vec.find? (·.landed) = some o → ∀ kind d srcs a b, o.body = .vec kind d srcs a b → Runs (.vectorOpComplete core) s fun t =>
    (∀ x ∈ (t.core core).vec, x.id ≠ o.id) ∧ ∀ a, t.readHome a = s.readHome a) ∧
  (k.vec.find? (·.landed) = none → k.vec.find? (fun o => !o.sent) = some o → turn (.vectorOpComplete core) fun u o' =>
    (∀ kind d srcs a b, o'.body = .vec kind d srcs a b → kind ≠ .xch →
      ∀ v, u.pokeAll (o'.view core) (u.vecOut (o'.view core) kind (shapeOf d) (srcs.map shapeOf) a b).writes = .ok v →
        Runs (.vectorOpComplete core) s fun t => (∀ x ∈ (t.core core).vec, x.id ≠ o'.id) ∧ outside v t) ∧
    (∀ d srcs a b, o'.body = .vec .xch d srcs a b → (s.actor core o.entry).role = .none → Runs (.vectorOpComplete core) s fun t =>
      ∃ x ∈ (t.core core).vec, x.id = o'.id ∧ x.begun = true)) ∧
  (k.matq.head? = some o → turn (.matrixOpComplete core) fun u o' => ∀ kind d a x y c, o'.body = .mat kind d a x y c →
    ∀ v, u.runMat core o' kind d a x y c = .ok v → Runs (.matrixOpComplete core) s fun t =>
      (∀ x ∈ (t.core core).matq, x.id ≠ o'.id) ∧ (∀ a, t.readHome a = v.readHome a) ∧
      ∀ h, Tab.get? (t.core core).handlers o'.rec_ = some h → h.serial = o'.serial →
        (kind = .zero → h.acc[d.toNat] = 0#8192) ∧ (kind = .cp → h.acc[d.toNat] = ((u.core core).tilesOf o')[a.toNat])) ∧
  (k.sumq.head? = some o → turn (.summaryOpComplete core) fun u o' => ∀ kind a b c sh, o'.body = .sum kind a b c sh →
    ∀ v, u.runSum core o' kind a.toNat b.toNat c.toNat sh = .ok v → Runs (.summaryOpComplete core) s fun t =>
      (∀ x ∈ (t.core core).sumq, x.id ≠ o'.id) ∧ (∀ a, t.readHome a = v.readHome a) ∧ (t.core core).results = (v.core core).results)

/-- R40, R99, R110, R111, R113, R301: Teasel takes a copy whose turn has come and whose context, lines and cells are there: one without a
window end moves its lines, one with a window end begins to send its remote operations, one whose loads are answered writes what they
brought; one that has ended leaves the queue with its completion, or keeps its place while that waits. A given region leaves as one
transfer. What has no turn stays. -/
def Rules.CopyCompletes : Prop := ∀ (s : State) (core id : Nat) (o : EngOp),
  let k := s.core core
  let before := k.teasel.takeWhile fun x => decide (x.id ≠ id)
  let i : Instr := .copyComplete core id
  k.teasel.find? (fun o => decide (o.id = id)) = some o →
  let gone (t : State) : Prop := ∀ x ∈ (t.core core).teasel, x.id ≠ id
  let ends (v : State) (d : CopyDesc) : Prop := Runs i s fun t => (∀ a, t.readHome a = v.readHome a) ∧
    ((v.core core).mayComplete id d = true → gone t) ∧
    ((v.core core).mayComplete id d = false → ∃ x ∈ (t.core core).teasel, x.id = id ∧ x.sent = true)
  (∀ kind d, o.body = .copy kind d →
    (s.copyTurn core before o d = false → exec i s = .next s) ∧
    (s.copyTurn core before o d = true → ∀ u o', (s.opReady core o = (false, u, o') → exec i s = .next u) ∧
      (s.opReady core o = (true, u, o') →
        (o.landed = true → ends u d) ∧
        (o.landed = false → o.sent = true → ∀ v o'', u.landPieces core o' d o'.extra = some (v, o'') → ends v d) ∧
        (o.landed = false → o.sent = false → d.windowed = false →
          (∀ m v st off a2, kind = .cpye m → u.convertCopy core o' m d = some (v, st, off, a2) → ends v d) ∧
          (∀ v st off, (∀ m, kind ≠ .cpye m) →
            u.moveLines core o' d (lineOffsets (endBase d.sk d.src) d.len) = some (v, st, off) → ends v d)) ∧
        (o.landed = false → o.sent = false → d.windowed = true → (s.actor core o.entry).role = .none → Runs i s fun t =>
          ∃ x ∈ (t.core core).teasel, x.id = id ∧ x.begun = true)))) ∧
  (∀ tr, o.body = .transfer tr →
    let turn := before.all (·.sent) = true ∧ k.fencesMet s.mod.timeNs core o = true ∧ k.landingsOn o.entry tr.source = false ∧
      k.pieceWaits o = false ∧ s.opHeld core o o.reads = false
    (¬turn → exec i s = .next s) ∧
    (turn → ∀ u o', s.opView core o o.reads = (true, u, o') → Runs i s fun t => gone t ∧
      ((s.actor core o.entry).role = .none → s.isLocal tr.dest = true → ∃ bs, .transfer { tr with bytes := bs, id := o.id } ∈ t.net ∨
        ∃ e ∈ (t.core core).outq, e.body = .packet (.transfer { tr with bytes := bs, id := o.id }))))

/-- Engine operations and copies when they complete. -/
def Obligations.EngineResults : Prop := Rules.EnginesComplete ∧ Rules.CopyCompletes

/-! ### Mailboxes, dispatch, pre-emption, stealing, time (chapter 02) -/

/-- R39 to R42, R56, R66, R87, R118: an arriving message of a mailbox is stored behind the others of its actor while there is room, and
in the mailbox of a replicated actor's secondary too; in a full FIFO mailbox under EXIT it is the actor's death, under DROP it is only
counted; one to a pool actor goes to the far end of the deque (but a ch0 message: log entry 15). Where its receiver lives no more it is
discarded and counted, and so is one with a context identifier that is never issued, whatever its receiver is (the choice of log entry
16). Memory stays. -/
def Rules.MessageArrivals : Prop := ∀ (s : State) (n : Nat) (m : Msg), s.net[n]? = some (.msg m) → s.isLocal m.dest = true →
  s.flowFirst n (.msg m) = true → m.dest ≠ s.fw.svcName →
  let core := nameCore m.dest
  let e := nameSlot m.dest
  let k := s.core core
  let i : Instr := if s.toPool core m then .poolArrival n else .messageArrival n
  let room (c e : Nat) (p : Place) : Prop := (s.core c).placeFor m.chan = some p ∧
    (m.chan = 0#2 ∨ (s.core c).queued e < mboxDepth (s.actor c e).mbox)
  core ≠ hostPlace → s.taking core m.dest = true →
  (ctxBad m.ctx = true → exec i s = .next ((s.takePacket n).count core m.tenant 0x060)) ∧
  (ctxBad m.ctx = false →
    (s.alive core m.dest = true → s.toPool core m = false → ∀ p, room core e p → Runs i s fun t =>
      ((∀ c' e', (s.actor core e).role = .primary c' e' → c' ≠ core ∧ ((s.actor c' e').state = .live → ∃ p', room c' e' p')) →
        (t.core core).queue = k.queue ++ [{ entry := e, msg := m, place := p, age := k.dispCount, ord := k.arrivals }]) ∧
      (∀ c' e' p', (s.actor core e).role = .primary c' e' → c' ≠ core → (s.actor c' e').state = .live → room c' e' p' →
        (∀ x ∈ s.net, ∀ m', x ≠ .copy c' e' m') →
        (t.core c').queue = (s.core c').queue ++ [{ entry := e', msg := m, place := p', age := (s.core c').dispCount,
                                                    ord := (s.core c').arrivals }]) ∧
      ∀ a, t.readHome a = s.readHome a) ∧
    (s.alive core m.dest = true → s.toPool core m = false → m.chan ≠ 0#2 → mboxOrdered (s.actor core e).mbox = false →
      (k.placeFor m.chan = none ∨ mboxDepth (s.actor core e).mbox ≤ k.queued e) →
      (∀ c' e', (s.actor core e).role ≠ .primary c' e') →
      (mboxDrop (s.actor core e).mbox = true → Runs i s fun t => (t.core core).queue = k.queue ∧ ∀ a, t.readHome a = s.readHome a) ∧
      (mboxDrop (s.actor core e).mbox = false → Runs i s fun t => t.Exits core e .unreachable 0#8 0#64)) ∧
    (s.alive core m.dest = true → s.toPool core m = true → ∀ p, k.poolPlace = some p → Runs i s fun t =>
      t.net = dropAt s.net n ∧
      (t.core core).pool = k.pool ++ [{ entry := e, msg := m, place := p, age := k.dispCount, ord := k.arrivals }] ∧
      ∀ a, t.readHome a = s.readHome a) ∧
    (s.alive core m.dest = false → s.lateOverflow core m = false → exec i s = .next ((s.takePacket n).count core m.tenant 0x037)))

/-- R58, R284: an advance reaches the counter of its owner's core that the owner holds, which fires where its target is reached, and
that of a replicated owner's secondary too; an advance of a counter that is not the owner's only counts as stray, and one to a gateway
as a message to the dead, at the core that stands for the gateway (log entry 25). -/
def Rules.Advances : Prop := ∀ (s : State) (n : Nat) (o : Name) (c : BitVec 6) (k : Nat) (snd : Name),
  s.net[n]? = some (.advance o c k snd) → s.isLocal o = true →
  let core := nameCore o
  let up (x : Nat) (j : JoinCtr) : JoinCtr := ({ j with count := satAdd 0xFFFFFFFF j.count k }).fire (s.core x).dispCount (s.core x).arrivals
  (core = hostPlace → exec (.counterAdvance n) s = .next ((s.takePacket n).count gateCore (nameTenant snd) 0x037)) ∧
  (core ≠ hostPlace → s.taking core o = true → s.flowFirst n (.advance o c k snd) = true →
    (∀ c' e', (s.actor core (nameSlot o)).role = .primary c' e' → c' ≠ core) →
    (∀ j, Tab.get? (s.core core).joins c.toNat = some j → j.owner = o → j.fired = false → Runs (.counterAdvance n) s fun t =>
      t.net = dropAt s.net n ∧ Tab.get? (t.core core).joins c.toNat = some (up core j) ∧
      ∀ c' e', (s.actor core (nameSlot o)).role = .primary c' e' → ∀ j', Tab.get? (s.core c').joins c.toNat = some j' → j'.owner = o →
        j'.fired = false → Tab.get? (t.core c').joins c.toNat = some (up c' j')) ∧
    ((s.core core).joinOf c.toNat o = false → (∀ c' e', (s.actor core (nameSlot o)).role ≠ .primary c' e') →
      exec (.counterAdvance n) s = .next ((s.takePacket n).count core (nameTenant o) 0x036)))

/-- Arrivals: messages at a mailbox or a deque, and advances at a join counter. -/
def Obligations.Arrivals : Prop := Rules.MessageArrivals ∧ Rules.Advances

/-- R17, R45, R46, R52: a dispatch starts the handler of the chosen message: at the header's first instruction, in the lowest free slot
and record, with stack, sender and arguments in s2 to s7, every other register zero, the flags clear; the message leaves its storage.
Memory outside the record reads as before. -/
def Rules.DispatchStarts : Prop := ∀ (s : State) (core : Nat) (c : CandInfo) (m : Msg) (rc : Option Bool) (k k' : Core) (h : Header)
    (slot record ctxSlot : Nat), s.awake core = true → s.choice core = some c → (∀ r, c.cand ≠ .handler r) →
  (s.core core).takeCand c.cand = some (m, rc, k) → s.header core c.entry m.hidx.toNat = .ok h →
  (m.ctx = 0#32 ∨ (s.actor core c.entry).filterBit m.ctx = false ∨ rc ≠ none) → k.freeSlot = some slot →
  Tab.lowestFree k.handlers k.cfg.recs = some record → k.mapCtx m.ctx = some (k', ctxSlot) →
  Runs (.dispatch core) s fun t => s.SameOutside t (recordHome core record 0) recordEnd ∧ (t.core core).queue = k.queue ∧
    (t.core core).pool = k.pool ∧ (t.core core).dispCount = (s.core core).dispCount + 1 ∧
    ∃ g, Tab.get? (t.core core).handlers record = some g ∧
    g.entry = c.entry ∧ g.status = .running slot ∧ g.pc = h.start ∧ g.count = h.regs ∧ g.msg = m ∧ g.ctx = m.ctx ∧ g.flags = 0#6 ∧
    g.reg 2#5 = BitVec.ofNat 64 (s.actor core c.entry).stack ∧ g.reg 3#5 = m.sender ∧ g.reg 4#5 = m.a0 ∧ g.reg 5#5 = m.a1 ∧
    g.reg 6#5 = m.a2 ∧ g.reg 7#5 = m.a3 ∧ ∀ r : Reg, r.toNat < 2 ∨ 8 ≤ r.toNat → g.reg r = 0#64

/-- R47, R46: a message whose table entry is empty is discarded and counted; a bad header is the death of the actor with code 0x0E;
the address in w2 is the reading of log entry 40. -/
def Rules.DispatchRefuses : Prop := ∀ (s : State) (core : Nat) (c : CandInfo) (m : Msg) (rc : Option Bool) (k : Core),
  s.awake core = true → s.choice core = some c → (∀ r, c.cand ≠ .handler r) → (s.core core).takeCand c.cand = some (m, rc, k) →
  (s.header core c.entry m.hidx.toNat = .empty → exec (.dispatch core) s = .next ((s.setCore core k).count core m.tenant 0x034)) ∧
  (∀ addr, s.header core c.entry m.hidx.toNat = .bad addr → (s.actor core c.entry).state = .live →
    Runs (.dispatch core) s fun t => t.Exits core c.entry .fault 0x0E#8 (BitVec.ofNat 64 addr))

/-- R16, R59, R61, R62: at the end of its budget a handler leaves its slot; its record takes its resume word and its dirty registers, and
its next effective channel is 3. Resumption loads the record, and so gives the handler back what it had wherever its record still holds
it, with a slot and a fresh budget. At the end of a slice the handlers of its tenant leave their slots and the table takes the writes that
came before this cycle of the die. Memory outside the records stays. -/
def Obligations.PreemptResume : Prop := ∀ (s : State) (core r : Nat) (h : Handler), core < 0x20000 →
  Tab.get? (s.core core).handlers r = some h →
  let kept (g : Handler) : Prop := g.pc = h.pc ∧ g.regs = h.regs ∧ g.preds = h.preds ∧ g.acc = h.acc ∧ g.shapes = h.shapes ∧
    g.flags = h.flags ∧ g.ctl = h.ctl ∧ g.landing = h.landing ∧ g.msg = h.msg ∧ g.ctx = h.ctx
  (∀ b n, h.status.slot? = some n → budgetOf h.budget = some b → b ≤ h.used → Runs (.budgetExhausted core r) s fun t =>
    (∃ g, Tab.get? (t.core core).handlers r = some g ∧ g.status = .preempted ∧ g.effChan = 3 ∧ kept g) ∧
    t.readBytes (recordHome core r 0) 8 = leBytes 8 h.resumeWord ∧
    (∀ i : Fin 32, 0 < i.val → i.val < h.count → h.dirtyRegs.getLsbD i.val = true →
      t.readBytes (recordHome core r (recordReg i.val)) 8 = leBytes 8 h.regs[i].toNat) ∧
    s.SameOutside t (recordHome core r 0) recordEnd) ∧
  (∀ c slot, s.choice core = some c → c.cand = .handler r → (s.core core).freeSlot = some slot → Runs (.resumption core) s fun t =>
    (∃ g, Tab.get? (t.core core).handlers r = some g ∧ g.status = .running slot ∧ g.used = 0 ∧ g.pc = (s.loadRecord core r h).pc ∧
      g.regs = (s.loadRecord core r h).regs ∧ g.acc = (s.loadRecord core r h).acc ∧ (s.recordAgrees core r h → kept g)) ∧
    ∀ a, t.readHome a = s.readHome a) ∧
  (∀ w, (s.core core).slice = some w → sliceOpen w = false → (s.core core).sliceStart + 1000 * sliceLen w ≤ s.mod.timeNs →
    Runs (.sliceEnd core) s fun t => (t.core core).sliceStart = s.mod.timeNs ∧
      (∀ x ∈ (t.core core).sliceWrites, s.now core ≤ x.2.2) ∧
      (∀ i v y, (s.core core).sliceWrites = [(i, v, y)] → y < s.now core → Tab.get? (t.core core).slices i = some v) ∧
      (∀ a, (∀ q g, Tab.get? (s.core core).handlers q = some g → a < recordHome core q 0 ∨ recordHome core q 0 + recordEnd ≤ a) →
        t.readHome a = s.readHome a) ∧
      (∀ q g, Tab.get? (t.core core).handlers q = some g → (t.actor core g.entry).tenant = sliceTenant w → g.status.slot? = none))

/-- R125, R259: a dispatch whose context has records in the area asks for them first; when the recall ends with its records in the pool
the messages that waited for it may be chosen, and every handler of the actor that asked for the same identifier finds it recalled. -/
def Rules.RecallEnds : Prop := ∀ (s : State) (core : Nat),
  (∀ (c : CandInfo) (m : Msg) (k : Core) (h : Header), s.awake core = true → s.choice core = some c → (∀ r, c.cand ≠ .handler r) →
    (s.core core).takeCand c.cand = some (m, none, k) → s.header core c.entry m.hidx.toNat = .ok h → m.ctx ≠ 0#32 →
    (s.actor core c.entry).filterBit m.ctx = true → Runs (.dispatch core) s fun t =>
      (t.core core).recalls = (s.core core).recalls ++ [{ entry := c.entry, ctx := m.ctx, why := .dispatch }] ∧
      (t.core core).handlers = (s.core core).handlers ∧ ∀ a, t.readHome a = s.readHome a) ∧
  ∀ (s' : State) (i : Nat) (r : Recall), (s.core core).recalls[i]? = some r → r.why = .dispatch →
    s.performRecall core r.entry r.ctx (fun _ => false) = .done s' → Runs (.dispatchRecallDone core i) s fun t =>
      (t.core core).recalls = dropAt (s'.core core).recalls i ∧ (t.core core).cells = (s'.core core).cells ∧
      (∀ q ∈ (t.core core).queue, q.entry = r.entry → q.msg.ctx = r.ctx → q.recalled ≠ some false) ∧
      ∀ q g, Tab.get? (t.core core).handlers q = some g → g.entry = r.entry → (r.ctx, false) ∉ g.recalls

/-- Dispatch: a message becomes a handler, is refused, or waits for its context. -/
def Obligations.Dispatching : Prop := Rules.DispatchStarts ∧ Rules.DispatchRefuses ∧ Rules.RecallEnds

/-- R57: a core that has had no candidate for 16 of its cycles asks the next core of its steal domain; the victim gives the far end of
its deque to a core whose entry is the same pool actor, and answers with nothing where it has nothing to give; the thief enters the
message, marked as stolen. That it enters at the thief's own end is the choice of log entry 63, and so is what becomes of one whose thief
has died: it is discarded and counted as an arrival would be. -/
def Rules.Stealing : Prop := ∀ (s : State) (core i n : Nat),
  (∀ c, (s.core core).noCandSince = some c → c + 16 ≤ s.now core → (s.core core).stealing = false →
    (s.core core).freeSlot.isSome → (Tab.lowestFree (s.core core).handlers (s.core core).cfg.recs).isSome → s.choice core = none →
    s.awake core = true → (s.core core).nextVictim core = some i → Runs (.stealRequest core i) s fun t =>
      (t.core core).stealing = true ∧ (t.core core).lastVictim = i ∧ t.net = s.net ++ [.stealReq (s.gcore i) (s.gcore core)]) ∧
  (∀ v w, s.net[n]? = some (.stealReq v w) →
    let vic := v % 0x20000
    let thief := w % 0x20000
    ((s.core vic).pool = [] → Runs (.stealRequestArrival n) s fun t => t.net = dropAt s.net n ++ [.stealReply w none 0]) ∧
    ∀ q, (s.core vic).pool.getLast? = some q →
      let b := s.actor thief q.entry
      (s.core vic).asleep = false → b.state = .live → b.pool = true →
      b.tenant = ((s.core vic).actor q.entry).tenant → inDomain ((s.core vic).actor q.entry).dom vic thief = true →
      Runs (.stealRequestArrival n) s fun t => (t.core vic).pool = (s.core vic).pool.dropLast ∧
        t.net = dropAt s.net n ++ [.stealReply w (some q.msg) q.entry]) ∧
  (∀ w x e, s.net[n]? = some (.stealReply w x e) →
    let thief := w % 0x20000
    s.awake thief = true →
    (x = none → Runs (.stealReplyArrival n) s fun t => (t.core thief).stealing = false ∧ (t.core thief).pool = (s.core thief).pool) ∧
    ∀ m, x = some m →
      ((s.actor thief e).state = .live → (s.actor thief e).pool = true → ∀ p, (s.core thief).poolPlace = some p →
        Runs (.stealReplyArrival n) s fun t => (t.core thief).stealing = false ∧ ∃ q, (t.core thief).pool = q :: (s.core thief).pool ∧
          q.entry = e ∧ q.msg = { m with mflags := m.mflags ||| 0x08#8 }) ∧
      ((s.actor thief e).state ≠ .live → exec (.stealReplyArrival n) s = .next (((s.takePacket n).modCore thief fun k =>
        { k with stealing := false }).count thief m.tenant 0x037)))

/-- R269, R279, R281, R87: a timer that has expired is free, with its next generation, and its message reaches its owner's mailbox; a
watchdog that has run out is the death of its LIVE actor; a reply wait that has run out is free and the peer is sent a kill, but by the
primary alone. -/
def Rules.TimeExpires : Prop := ∀ (s : State) (core i : Nat),
  (let x := (s.core core).timer i
   ∀ d, x.due = some d → d ≤ s.tickNs → s.awake core = true → Runs (.timerExpiry core i) s fun t =>
    ((t.core core).timer i).due = none ∧ ((t.core core).timer i).gen = nextSkip0 x.gen ∧
    ((s.actor core x.owner).isShadow x.msg.dest = false → ctxBad x.msg.ctx = false → s.alive core x.msg.dest = true →
      s.toPool core x.msg = false → (∀ c e, (s.actor core (nameSlot x.msg.dest)).role ≠ .primary c e) → (s.core core).placeFor x.msg.chan ≠ none →
      (x.msg.chan = 0#2 ∨ (s.core core).queued (nameSlot x.msg.dest) < mboxDepth (s.actor core (nameSlot x.msg.dest)).mbox) →
      ∃ q ∈ (t.core core).queue, q.entry = nameSlot x.msg.dest ∧ q.msg = x.msg)) ∧
  (let a := s.actor core i
   a.state = .live → a.watch ≠ 0 → a.watchLast + 1000 * a.watch ≤ s.tickNs → Runs (.watchdogExpiry core i) s fun t =>
     t.Exits core i .unreachable 0#8 0#64) ∧
  (∀ w, Tab.get? (s.core core).waits i = some w → w.expiry ≤ s.tickNs →
    let a := s.actor core w.owner
    Runs (.replyDeadlineExpiry core i) s fun t => (t.core core).waits = Tab.del (s.core core).waits i ∧
      (a.isShadow a.name = true → t.net = s.net) ∧
      (a.isShadow a.name = false → w.peer ≠ 0#64 → s.isLocal w.peer = true → .kill w.peer .unreachable 0#8 a.name ∈ t.net))

/-- Stealing, and what the passing of time ends. -/
def Obligations.StealsAndTimes : Prop := Rules.Stealing ∧ Rules.TimeExpires

/-! ### Deaths to their end, Yarrow, Campion (chapter 03) -/

/-- R66, R71 to R74: a signal at a live holder deletes the entry it names; a holder that traps gets the message of R72 on channel 0, one
that does not dies of the same class, unless it is NORMAL; with no such entry the signal is stale and counted, and at a holder that lives
no more it is discarded. A kill is the death of a live actor, and of one that died in this cycle of a cause that ranks behind it (the
reading of log entry 51); one to a gateway's name is counted at the core that stands for it (log entry 25). -/
def Rules.SignalsAndKills : Prop := ∀ (s : State) (n : Nat),
  (∀ target dead w1 w2 w3 kd rf, s.net[n]? = some (.signal target dead w1 w2 w3 kd rf) → s.isLocal target = true →
    nameCore target ≠ hostPlace → s.taking (nameCore target) target = true →
    let core := nameCore target
    let e := nameSlot target
    let a := s.actor core e
    let cls := classOf (w1.toNat % 8)
    (s.alive core target = false → s.outranks core e cls = false →
      exec (.exitSignalArrival n) s = .next ((s.takePacket n).count core (nameTenant target) 0x037)) ∧
    (s.alive core target = true →
      ((s.core core).signalEntry e dead w1 = none →
        exec (.exitSignalArrival n) s = .next ((s.takePacket n).count core (nameTenant target) 0x047)) ∧
      ∀ i, (s.core core).signalEntry e dead w1 = some i →
        (a.trapx = false → a.supv = false → w1.getLsbD 3 = false → cls ≠ .normal → Runs (.exitSignalArrival n) s fun t =>
          t.Exits core e cls (w1.extractLsb' 8 8) 0#64) ∧
        (a.trapx = false → a.supv = false → w1.getLsbD 3 = false → cls = .normal → Runs (.exitSignalArrival n) s fun t =>
          Tab.get? (t.core core).links i = none ∧ t.actor core e = a ∧ t.net = dropAt s.net n) ∧
        ((w1.getLsbD 3 = true ∨ a.trapx = true ∨ a.supv = true) → a.role = .none → Runs (.exitSignalArrival n) s fun t =>
          Tab.get? (if w1.getLsbD 3 then (t.core core).monitors else (t.core core).links) i = none ∧
          ∃ q, (t.core core).queue = (s.core core).queue ++ [q] ∧ q.entry = e ∧ q.msg.hidx = 1#6 ∧ q.msg.chan = 0#2 ∧
            q.msg.a0 = dead ∧ q.msg.a1 = w1 ∧ q.msg.a2 = w2 ∧ q.msg.a3 = w3))) ∧
  (∀ x cls detail sender, s.net[n]? = some (.kill x cls detail sender) → s.isLocal x = true →
    let core := nameCore x
    let e := nameSlot x
    (core = hostPlace → exec (.killArrival n) s = .next ((s.takePacket n).count gateCore (nameTenant sender) 0x037)) ∧
    (core ≠ hostPlace → s.taking core x = true → s.behindUnlink n x = false →
      (s.alive core x = true → Runs (.killArrival n) s fun t => t.Exits core e cls detail 0#64) ∧
      (s.outranks core e cls = true → (s.actor core e).name = x → Runs (.killArrival n) s fun t =>
        (t.actor core e).death = some { cls := cls, detail := detail, w2 := 0#64 } ∧ ∀ a, t.readHome a = s.readHome a) ∧
      (s.mortal core x cls = false → exec (.killArrival n) s = .next ((s.takePacket n).count core (nameTenant sender) 0x037))))

/-- R69, R72, R75, R76, R88, R89: once nothing of a dead actor is left its entry is FREE without regions, and its supervisor's Yarrow is
asked; the entries that a secondary's core keeps for it go with it. The answer, or the limit of R75, ends the resolution: the entry of
each relationship is freed and its signal sets out to the peer, or, where the dead actor's module is lost, reaches the holder here; but
what is signalled to a holder whose entry has gone meanwhile is stale. -/
def Rules.Reclamation : Prop := ∀ (s : State) (core i n : Nat),
  let sole (r : Resolving) (x : HeldEnt) : Prop := ∀ y ∈ r.links, y.mon = x.mon → y.idx = x.idx → y = x
  let told (t : State) (r : Resolving) (w3 : Word) (rs : BitVec 16) : Prop := ∀ x e, x ∈ r.links → sole r x →
    (s.core core).heldEntry x = some e →
      Tab.get? (if x.mon then (t.core core).monitors else (t.core core).links) x.idx = none ∧
      (e.kind ≠ .watching → s.isLocal e.peer = true →
        .signal e.peer r.name (r.w1 rs x) r.death.w2 w3 (if x.mon then .watched else .link) e.ref ∈ t.net)
  let trapping (r : Resolving) : Prop := ∀ x ∈ r.links, s.alive core x.holder = true ∧ x.ent.lslot = nameSlot x.holder ∧
    (s.actor core x.ent.lslot).role = .none ∧
    (x.mon = true ∨ (s.actor core x.ent.lslot).trapx = true ∨ (s.actor core x.ent.lslot).supv = true)
  let heard (t : State) (r : Resolving) (w3 : Word) (rs : BitVec 16) : Prop := ∀ x e, x ∈ r.links → sole r x →
    (s.core core).heldEntry x = some e → ∃ q ∈ (t.core core).queue, q.entry = nameSlot x.holder ∧ q.msg.hidx = 1#6 ∧
      q.msg.a0 = r.name ∧ q.msg.a1 = r.w1 rs x ∧ q.msg.a2 = r.death.w2 ∧ q.msg.a3 = w3
  (∀ d, (s.actor core i).death = some d → (s.actor core i).state = .exiting →
    (s.core core).opsLeft i (s.actor core i).name = false → (s.core core).walksLeft i = false →
    (∀ x ∈ (s.core core).heldLandings, x.entry ≠ i) →
    Runs (.regionsReturned core i) s fun t => (t.actor core i).state = .free ∧ (t.actor core i).regions = [] ∧
      (t.actor core i).death = none ∧
      ((∃ c e, (s.actor core i).role = .secondary c e) → ∀ x ∈ (t.core core).links ++ (t.core core).monitors, x.2.lslot ≠ i) ∧
      ((s.actor core i).supName ≠ 0#64 → (∀ c e, (s.actor core i).role ≠ .secondary c e) →
        (∃ r ∈ (t.core core).resolving, r.name = (s.actor core i).name ∧ r.death = d ∧ r.asked = s.mod.timeNs) ∧
        (s.isLocal (s.actor core i).supName = true →
          .resReq (s.actor core i).supName (s.actor core i).name d.cls (s.actor core i).restarts (s.gcore core) ∈ t.net))) ∧
  (∀ g dead w3 rs, s.net[n]? = some (.resAns g dead w3 rs) → s.ownCore g = some core → s.awake core = true →
    Runs (.resolutionAnswer n) s fun t => (∀ r ∈ (t.core core).resolving, r.name ≠ dead) ∧
      ∀ r, (s.core core).resolving.filter (fun r => r.name == dead) = [r] →
        (r.lost = false → told t r w3 rs) ∧ (r.lost = true → trapping r → heard t r w3 rs)) ∧
  (∀ g dead w3 rs r x, s.net[n]? = some (.resAns g dead w3 rs) → s.ownCore g = some core → s.awake core = true →
    (s.core core).resolving = [r] → r.name = dead → r.links = [x] → r.lost = true → s.alive core x.holder = true →
    (s.core core).heldEntry x = none → exec (.resolutionAnswer n) s =
      .next (((s.takePacket n).modCore core fun k => { k with resolving := [] }).count core (nameTenant x.holder) 0x047)) ∧
  (∀ r, (s.core core).resolving[i]? = some r → r.asked + 1000000 ≤ s.mod.timeNs → Runs (.resolveTmo core i) s fun t =>
    ((r.lost = false ∨ trapping r) → (t.core core).resolving = dropAt (s.core core).resolving i) ∧
    (r.lost = false → told t r 0#64 r.restarts) ∧ (r.lost = true → trapping r → heard t r 0#64 r.restarts))

/-- Signals, kills and the reclamation of a dead actor. -/
def Obligations.DeathsArrive : Prop := Rules.SignalsAndKills ∧ Rules.Reclamation

/-- R75, R79 to R82: Yarrow answers 0 for a supervisor that lives no more, and for a child whose class calls for no restart; a table that
fails its checks and a rate limit that is exceeded are the supervisor's death; else a restart event of the supervisor begins and the
request waits. -/
def Rules.YarrowDecides : Prop := ∀ (s : State) (n : Nat) (sup dead : Name) (cls : DeathClass) (rs : BitVec 16) (g : Nat),
  s.net[n]? = some (.resReq sup dead cls rs g) → s.isLocal sup = true → nameCore sup ≠ hostPlace → s.awake (nameCore sup) = true →
  let core := nameCore sup
  let e := nameSlot sup
  let u := (s.takePacket n).modCore core fun k => k.noteGone dead
  let zero (t : State) : Prop := g / 0x20000 = s.mod.num.toNat → .resAns g dead 0#64 rs ∈ t.net
  (u.core core).answered.find? (fun x => x.1 == dead) = none →
  (u.alive core sup = false → Runs (.resolutionRequest n) s zero) ∧
  (∀ tb bs idx, u.alive core sup = true → u.supTable core e = some (tb, bs) → (u.core core).events = [] →
    ((List.range (headChildren bs)).find? fun i => (u.child core e tb i).name == dead) = some idx →
    (u.tableOk core e tb bs = false → Runs (.resolutionRequest n) s fun t => t.Exits core e .escalated 0x02#8 0#64) ∧
    (u.tableOk core e tb bs = true →
      (callsRestart (u.child core e tb idx).rclass cls = false → Runs (.resolutionRequest n) s zero) ∧
      (callsRestart (u.child core e tb idx).rclass cls = true →
        (u.rateLimit core e bs = none → Runs (.resolutionRequest n) s fun t => t.Exits core e .escalated 0x00#8 0#64) ∧
        ∀ u', u.rateLimit core e bs = some u' → Runs (.resolutionRequest n) s fun t =>
          (∃ ev ∈ (t.core core).events, ev.supName = sup ∧ idx ∈ ev.todo) ∧ ∃ x ∈ (t.core core).asks, x.dead = dead ∧ x.sup = sup)))

/-- R84, R274: Yarrow claims the lowest FREE entry for a start, and for a child that comes back the entry that it had; it answers the
spawner with the name the actor will have, loads the image, and answers with that name, or with 0 and the cause. -/
def Rules.YarrowStarts : Prop := ∀ (s : State) (core i n : Nat) (st : Start),
  (∀ r, s.net[n]? = some (.spawn r) → r.place.toNat / 65536 = s.mod.num.toNat → epCore r.place.toNat = core → s.awake core = true →
    let mine : Prop := r.fromCore / 0x20000 = s.mod.num.toNat
    (s.spawnEntry core r = none → Runs (.spawnRequestArrival n) s fun t =>
      mine → .spawnAck r.fromCore r.id 0#64 r.tenant ∈ t.net) ∧
    ∀ e, s.spawnEntry core r = some e → Runs (.spawnRequestArrival n) s fun t => (t.actor core e).claimed = true ∧
      (∃ x ∈ (t.core core).starts, x.why = .spawn r ∧ x.core = some core ∧ x.entry = e ∧ x.loading = true) ∧
      (mine → .spawnAck r.fromCore r.id (s.mkName core e (nextSkip0 (s.actor core e).inc) r.birth) r.tenant ∈ t.net)) ∧
  ((s.core core).starts[i]? = some st → s.startReady core st = true → st.dead = 0#64 →
    let u := s.modCore core fun k => { k with starts := dropAt k.starts i }
    ∀ tb bs e, u.supTable core st.supEntry = some (tb, bs) →
      let c := u.child core st.supEntry tb st.child
      (c.name = 0#64 ∨ st.n = none) → c.ok = true → c.place / 65536 = s.mod.num.toNat → s.isLost (c.place / 65536) = false →
      ((u.bumpId core).core (epCore c.place)).lowestEntry = some e → Runs (.yarrowRestartStart core i) s fun t =>
        (t.actor (epCore c.place) e).claimed = true ∧
        ∃ x ∈ (t.core core).starts, x.child = st.child ∧ x.core = some (epCore c.place) ∧ x.entry = e ∧ x.loading = true) ∧
  (∀ ev c rest dead tb bs, i = (s.core core).starts.length + n → (s.core core).events[n]? = some ev →
    (s.core core).eventStarting ev.supName = false → ev.todo = c :: rest → ev.waits.all s.oldFree = true →
    ev.dead.find? (fun d => decide (d.1 = c)) = some (c, dead) → dead ≠ 0#64 → s.isLocal dead = true → s.isLost (nameModule dead) = false →
    let u := s.modCore core fun k => { k with events := modifyAt k.events n fun v => { v with todo := rest, waits := [] } }
    u.supTable core ev.supEntry = some (tb, bs) → (u.child core ev.supEntry tb c).ok = true →
    ((u.bumpId core).core (nameCore dead)).entryFree (nameSlot dead) = true → Runs (.yarrowRestartStart core i) s fun t =>
      (t.actor (nameCore dead) (nameSlot dead)).claimed = true ∧
      ∃ x ∈ (t.core core).starts, x.child = c ∧ x.dead = dead ∧ x.core = some (nameCore dead) ∧ x.entry = nameSlot dead ∧
        x.loading = true) ∧
  (∀ r u', (s.core core).starts[i]? = some st → st.loading = true → st.core = some core → st.why = .spawn r → s.ackUnderWay r = false →
    let u := s.modCore core fun k => { k with starts := dropAt k.starts i }
    let mine : Prop := r.fromCore / 0x20000 = s.mod.num.toNat
    (r.link = false ∨ (u.core core).linkFree ≠ none) →
    (u.bear core st.entry r.birth r.image.toNat r.ilen.toNat = .ok u' → Runs (.yarrowImageLoaded core i) s fun t =>
      mine → .spawnName r.fromCore r.id (u'.actor core st.entry).name 0#8 r.sup.isSome r.tenant ∈ t.net) ∧
    (u.bear core st.entry r.birth r.image.toNat r.ilen.toNat = .rejected → Runs (.yarrowImageLoaded core i) s fun t =>
      (mine → .spawnName r.fromCore r.id 0#64 0x02#8 r.sup.isSome r.tenant ∈ t.net) ∧ (t.actor core st.entry).claimed = false))

/-- R87, R274: the first answer of a spawn that found an entry names the actor, and its link entry; the last one, or a refusal, lands
the name, or 0, once, and at the secondary of a replicated spawner too. The actor of a spawner that is no more is killed. -/
def Rules.SpawnAnswers : Prop := ∀ (s : State) (n g core id : Nat) (t0 : Tenant), s.ownCore g = some core → s.awake core = true →
  (∀ (o : OpenSpawn), Tab.get? (s.core core).opens id = some o →
    let ends (i : Instr) (v : Word) : Prop := Runs i s fun t => Tab.get? (t.core core).opens id = none ∧
      (s.twinOpen core o = none →
        (t.core core).results = (s.core core).results ++ [{ rec_ := o.rec_, serial := o.serial, idx := o.idx, value := v }]) ∧
      ∀ c i x, s.twinOpen core o = some (c, i, x) → c ≠ core → Tab.get? (t.core c).opens i = none ∧
        (t.core core).results = (s.core core).results ++ [{ rec_ := o.rec_, serial := o.serial, idx := o.idx, value := v }] ∧
        (t.core c).results = (s.core c).results ++ [{ rec_ := x.rec_, serial := x.serial, idx := x.idx, value := v }]
    (s.net[n]? = some (.spawnAck g id 0#64 t0) → ends (.spawnAckArrival n) 0#64) ∧
    (∀ name, s.net[n]? = some (.spawnAck g id name t0) → name ≠ 0#64 → s.twinOpen core o = none → Runs (.spawnAckArrival n) s fun t =>
      Tab.get? (t.core core).opens id = some { o with acked := true } ∧ t.net = dropAt s.net n ∧
      ∀ l x, o.linkIdx = some l → Tab.get? (s.core core).links l = some x → Tab.get? (t.core core).links l = some { x with peer := name }) ∧
    (∀ name d ch, s.net[n]? = some (.spawnName g id name d ch t0) → ends (.spawnNameArrival n) name)) ∧
  (Tab.get? (s.core core).opens id = none → ∀ name d, s.net[n]? = some (.spawnName g id name d false t0) → name ≠ 0#64 →
    s.isLocal name = true → Runs (.spawnNameArrival n) s fun t => .kill name .killed 0#8 name ∈ t.net)

/-- Yarrow: what it decides, starts, and answers to a spawner. -/
def Obligations.Yarrow : Prop := Rules.YarrowDecides ∧ Rules.YarrowStarts ∧ Rules.SpawnAnswers

/-- R70, R71, R277, R396: a link or monitor request enters the requester in a free entry, the lowest (log entry 74), and is answered with
the peer's supervisor and restarts; one that finds its peer dead or no entry free is refused, and so is one to a gateway's name, which is
counted as a dead peer's where no function has that name. The answer fills in the holder's entry; an unlink deletes the far entry. A
request and an unlink wait for the earlier ones between the same two actors. -/
def Rules.LinkPackets : Prop := ∀ (s : State) (n : Nat) (mon : Bool) (req peer : Name) (ref : BitVec 32) (sup : Name)
    (rst : BitVec 16) (t0 : Tenant),
  let core := nameCore peer
  let e := nameSlot peer
  let table (t : State) (c : Nat) := if mon then (t.core c).monitors else (t.core c).links
  (s.net[n]? = some (.linkReq mon req peer ref sup rst t0) → s.flowFirst n (.linkReq mon req peer ref sup rst t0) = false →
    exec (.linkRequestArrival n) s = .next s) ∧
  (s.net[n]? = some (.unlink mon req peer ref) → s.flowFirst n (.unlink mon req peer ref) = false →
    exec (.unlinkArrival n) s = .next s) ∧
  (s.net[n]? = some (.linkReq mon req peer ref sup rst t0) → s.flowFirst n (.linkReq mon req peer ref sup rst t0) = true →
    s.isLocal peer = true → core = hostPlace → exec (.linkRequestArrival n) s = .next (((s.takePacket n).count gateCore t0
      (if s.isGwName peer then 0x046 else 0x037)).transmit gateCore (.linkAns mon req peer ref false 0#64 0#16) true)) ∧
  (s.net[n]? = some (.linkReq mon req peer ref sup rst t0) → s.flowFirst n (.linkReq mon req peer ref sup rst t0) = true →
    s.isLocal peer = true → core ≠ hostPlace → s.awake core = true →
    let free := if mon then (s.core core).monFree else (s.core core).linkFree
    let known : Prop := mon = false ∧ ∃ x ∈ (s.core core).links, x.2.lslot = e ∧ x.2.peer = req
    (s.alive core peer = false ∨ (¬known ∧ free = none) → Runs (.linkRequestArrival n) s fun t => table t core = table s core ∧
      (s.isLocal req = true → .linkAns mon req peer ref false 0#64 0#16 ∈ t.net)) ∧
    (s.alive core peer = true → (¬known → free ≠ none) → Runs (.linkRequestArrival n) s fun t =>
      (known → table t core = table s core) ∧
      (∀ i, ¬known → free = some i → Tab.get? (table t core) i =
        some { psup := sup, peer := req, ref := ref, prst := rst, kind := if mon then .watched else .link, lslot := e }) ∧
      (s.isLocal req = true → .linkAns mon req peer ref true (s.actor core e).supName (s.actor core e).restarts ∈ t.net))) ∧
  (s.net[n]? = some (.linkAns mon req peer ref true sup rst) → s.isLocal req = true → s.awake (nameCore req) = true →
    s.alive (nameCore req) req = true → ∀ i x,
    (s.core (nameCore req)).signalEntry (nameSlot req) peer (signalWord .unreachable 0#8 0#16 mon (if mon then ref else 0#32)) = some i →
    Tab.get? (table s (nameCore req)) i = some x → Runs (.linkAnswerArrival n) s fun t =>
      Tab.get? (table t (nameCore req)) i = some { x with psup := sup, prst := rst }) ∧
  (s.net[n]? = some (.unlink mon req peer ref) → s.flowFirst n (.unlink mon req peer ref) = true → s.isLocal peer = true →
    s.awake core = true → s.alive core peer = true → Runs (.unlinkArrival n) s fun t => t.net = dropAt s.net n ∧
      ∀ x ∈ table t core, x.2.lslot = e → x.2.peer = req → mon = true ∧ ¬(x.2.ref = ref ∧ x.2.kind = .watched))

/-- Links and monitors: the instructions and the packets between the cores. -/
def Obligations.Links : Prop := Rules.LinksMonitors ∧ Rules.LinkPackets

/-- R87, R88, R194: Campion lets a message go on when the secondary's hash equals its own, to the outbound queue or on its way; where that
queue has no room the message waits, and no limit runs against it any more. A difference, or a hash that stays away for 100 us, is the
death of the actor, code 0x0C. -/
def Rules.CampionCompares : Prop := ∀ (s : State) (n core i : Nat),
  (∀ p h c, s.net[n]? = some (.hash p i h) → s.isLocal p = true → nameCore p = core → s.awake core = true → s.alive core p = true →
    (∀ j ∈ s.net.take n, ∀ i' h', j ≠ .hash p i' h') →
    let e := nameSlot p
    (s.core core).campion.find? (fun c => decide (c.entry = e) && decide (c.n = i)) = some c →
    (∀ x ∈ (s.core core).hashes, ¬(x.1 = e ∧ x.2.1 = i)) →
    (c.hash = h → Runs (.replicaHashArrival n) s fun t =>
      ((s.core core).outFull = false → (∀ x ∈ (s.core core).campion, x.ok = false) →
        (∀ x ∈ (t.core core).campion, ¬(x.entry = e ∧ x.n = i)) ∧ ∀ m, c.out.body = .packet (.msg m) → s.isLocal m.dest = true →
          .msg m ∈ t.net ∨ ∃ o ∈ (t.core core).outq, o.body = .packet (.msg m)) ∧
      ((s.core core).outFull = true → { c with ok := true } ∈ (t.core core).campion ∧ t.net = dropAt s.net n)) ∧
    (c.hash ≠ h → Runs (.replicaHashArrival n) s fun t => t.Exits core e .fault 0x0C#8 (BitVec.ofNat 64 c.pc))) ∧
  (∀ c, (s.core core).campion[i]? = some c → c.ok = true → exec (.campionTimeout core i) s = .next s) ∧
  (∀ c, (s.core core).campion[i]? = some c → c.ok = false → c.since + 100000 ≤ s.mod.timeNs → (s.actor core c.entry).state = .live →
    Runs (.campionTimeout core i) s fun t => t.Exits core c.entry .fault 0x0C#8 (BitVec.ofNat 64 c.pc))

/-- R69, R95, R102, R132: an overflow walk ends with its records freed; the walk of a dead actor waits for the regions that it gave away
and that are still to be read. -/
def Rules.WalksEnd : Prop := ∀ (s : State) (core i : Nat) (w : Walk), (s.core core).walks[i]? = some w →
  let reading : Prop := ∃ o ∈ (s.core core).teasel, o.entry = w.entry ∧ ∃ x, o.body = .transfer x
  (w.kind = .all → reading → exec (.overflowWalkEnd core i) s = .next s) ∧
  (¬(w.kind = .all ∧ reading) → Runs (.overflowWalkEnd core i) s fun t => (t.core core).walks = dropAt (s.core core).walks i ∧
    (t.actor core w.entry).recCount = (s.actor core w.entry).recCount - (s.walkOffsets core w).length)

/-- Campion compares; overflow walks end. -/
def Obligations.CampionAndWalks : Prop := Rules.CampionCompares ∧ Rules.WalksEnd

/-! ### Remote operations at their target and their answers (chapters 04, 05, 08, 14) -/

/-- R105, R106, R107, R113, R130, R182, R305: an operation that fails the checks of R105 changes no byte and is answered WINDOW, or DEAD
where its window says so. One that passes them waits behind the landings that its region holds, behind a summary operation that has begun
on its bytes, and for the records of its lines; else it acts on its window's bytes in the order of R107 and is answered: a store writes
them, a load reads them, an atomic reads and writes one dword (in a region that is not TAGGED, or in the base context; in another context
its bytes are those of its cells). Accesses to bytes without an uncorrectable error; the operations of one flit act one after the other,
and of an operation in several flits the checks are made once, on the whole: what they answered holds for its later flits (log entry 18).
-/
def Rules.RemoteLanding : Prop := ∀ (s : State) (n core : Nat), s.awake core = true →
  (∀ o rest, s.net[n]? = some (.combined (o :: rest)) → s.keyCore o.key = some core →
    s.remoteBehind (s.net.take n) (.combined (o :: rest)) = false →
    exec (.remoteOpArrival n) s = .next ((o :: rest).foldl (fun s op => s.remoteIn core op none) (s.takePacket n))) ∧
  ∀ (op : RemoteOp), s.net[n]? = some (.remote op) → s.keyCore op.key = some core →
  s.remoteBehind (s.net.take n) (.remote op) = false →
  let answered (t : State) (st : CopyStatus) (bs : List Byte) : Prop :=
    op.core / 0x20000 = s.mod.num.toNat → .response op.core op.rid op.tenant st bs ∈ t.net
  let refused (st : CopyStatus) : Prop := Runs (.remoteOpArrival n) s fun t => answered t st [] ∧ (∀ a, t.readHome a = s.readHome a) ∧
    ∀ w, op.whole = some w → op.len < w.len → ∃ y ∈ (t.core core).openOps, y.core = op.core ∧ y.id = w.id ∧ y.into = none ∧ y.status = st
  let opened (w : Whole) : Option OpenOp := (s.core core).openOps.find? fun y => decide (y.core = op.core) && decide (y.id = w.id)
  ((∀ w, op.whole = some w → opened w = none) →
    (s.checkWindow core op = .reject → refused .window) ∧ (s.checkWindow core op = .dead → refused .dead)) ∧
  (∀ w y, op.whole = some w → opened w = some y → y.into = none →
    Runs (.remoteOpArrival n) s fun t => answered t y.status [] ∧ ∀ a, t.readHome a = s.readHome a) ∧
  ∀ (x : HeldLanding),
    ((∀ w, op.whole = some w → opened w = none) ∧ s.accept core op none = .ok x ∨ ∃ w y x0, op.whole = some w ∧ opened w = some y ∧ y.into = some x0 ∧
      x = { x0 with op := op, addr := x0.addr + op.off - x0.op.off }) →
    (s.actor core x.entry).state = .live → Tab.get? (s.actor core x.entry).regions x.handle = some x.region → x.op = op →
    let r := x.region
    let home (a : Nat) : Nat := if r.kind = 2 then dieHome (dieOf core) a else localHome core a
    let v := baseView core x.entry
    (s.needsRecall core x.entry x.handle r op x.addr = true ∨ (s.core core).landsBehind core (s.core core).heldLandings x = true →
      Runs (.remoteOpArrival n) s fun t => x ∈ (t.core core).heldLandings ∧ ∀ a, t.readHome a = s.readHome a) ∧
    ((s.core core).landsBehind core (s.core core).heldLandings x = false → r.tagged = false ∨ op.ctx = 0#32 →
      (s.core core).mapCtx op.ctx ≠ none → (∀ i < op.len, home (x.addr + i) = home x.addr + i) → s.Sound (home x.addr) op.len →
      let old := s.regionRead v x.handle r x.addr op.len
      (op.kind = .store → op.data.length = op.len → Runs (.remoteOpArrival n) s fun t => t.readBytes (home x.addr) op.len = op.data ∧
        s.SameOutside t (home x.addr) op.len ∧ answered t .ok []) ∧
      (op.kind = .load → Runs (.remoteOpArrival n) s fun t => (∀ a, t.readHome a = s.readHome a) ∧ answered t .ok old) ∧
      (op.kind.isAtomic = true → op.len = 8 →
        (∀ y, op.newValue (BitVec.ofNat 64 (leNat old)) = some y → Runs (.remoteOpArrival n) s fun t =>
          t.readBytes (home x.addr) 8 = leBytes 8 y.toNat ∧ s.SameOutside t (home x.addr) 8 ∧ answered t .ok old) ∧
        (op.newValue (BitVec.ofNat 64 (leNat old)) = none → Runs (.remoteOpArrival n) s fun t => (∀ a, t.readHome a = s.readHome a) ∧
          answered t .ok old)))

/-- R22, R87, R194, R293, R301, R310: the last answer of a remote operation, or the limit of 1,000 us, ends it and sets its result out; a
result fills in its landing entry and makes the region of an RALLOC usable; an outbound entry leaves when nothing holds it, and a waiting
store is performed, or waits for its cell; a held landing waits behind those before it and for its recall, and lands (of a dead owner as
log entry 18 says). -/
def Rules.AnswersAndResults : Prop := ∀ (s : State) (core i n : Nat),
  (∀ g rid tn st data r, s.net[n]? = some (.response g rid tn st data) → s.ownCore g = some core → s.awake core = true →
    Tab.get? (s.core core).remotes rid = some r →
    (r.parts ≤ 1 → Runs (.remoteResponseArrival n) s fun t =>
      Tab.get? (t.core core).remotes rid = none ∧ (∀ a, t.readHome a = s.readHome a) ∧
      ∀ rc sr l p, r.use = .land rc sr (some l) p → ∃ x ∈ (t.core core).results, x.serial = sr ∧ x.idx = l ∧
        x.value = landValue (if r.st = .ok then st else r.st) data) ∧
    (1 < r.parts → s.twinRemote core rid = none → Runs (.remoteResponseArrival n) s fun t => Tab.get? (t.core core).remotes rid =
      some { r with parts := r.parts - 1, st := if r.st = .ok then st else r.st })) ∧
  (∀ r t0, Tab.get? (s.core core).remotes i = some r → r.left = some t0 → t0 + 1000000 ≤ s.mod.timeNs →
    Runs (.remoteTimeout core i) s fun t => Tab.get? (t.core core).remotes i = none ∧ ∀ a, t.readHome a = s.readHome a) ∧
  (∀ r, (s.core core).results[i]? = some r →
    (∀ h l, Tab.get? (s.core core).handlers r.rec_ = some h → h.serial = r.serial → Tab.get? h.landing r.idx = some l →
      Runs (.resultArrival core i) s fun t => (t.core core).results = dropAt (s.core core).results i ∧
        ∃ g, Tab.get? (t.core core).handlers r.rec_ = some g ∧
          Tab.get? g.landing r.idx = some { l with value := some r.value, at_ := s.now core } ∧ g.regs = h.regs ∧ g.pc = h.pc) ∧
    (∀ e k g, r.region = some (e, k) → Tab.get? (s.actor core e).regions k = some g → Runs (.resultArrival core i) s fun t =>
      Tab.get? (t.actor core e).regions k = some { g with usable := true })) ∧
  (∀ e, (s.core core).outq[i]? = some e →
    let goes := s.mayLeave core ((s.core core).outq.take i) e && !storeBehind core ((s.core core).outq.take i) e
    (goes = false → exec (.outboundRelease core i) s = .next s) ∧
    (goes = true → e.body.storeSpan core = none → Runs (.outboundRelease core i) s fun t =>
      ((∀ c ∈ (s.core core).campion, c.ok = false) → (t.core core).outq = dropAt (s.core core).outq i) ∧
      ∀ m, e.body = .packet (.msg m) → s.isLocal m.dest = true → .msg m ∈ t.net) ∧
    (∀ sp, goes = true → e.body.storeSpan core = some sp →
      (s.remoteMeets core e.name e.serial e.seq sp = true → exec (.outboundRelease core i) s = .next s) ∧
      (s.remoteMeets core e.name e.serial e.seq sp = false → ∀ u,
        (s.performStore core e.name e.body = (true, u) → Runs (.outboundRelease core i) s fun t =>
          (t.core core).outq = dropAt (u.core core).outq i ∧ ∀ a, t.readHome a = u.readHome a) ∧
        (s.performStore core e.name e.body = (false, u) → exec (.outboundRelease core i) s = .next u)))) ∧
  (∀ x, (s.core core).heldLandings[i]? = some x →
    let behind := (s.core core).landsBehind core ((s.core core).heldLandings.take i) x
    let due := s.needsRecall core x.entry x.handle (s.landRegion core x) x.op x.addr
    (behind = true → exec (.heldLandingRelease core i) s = .next s) ∧
    (behind = false → (s.core core).landingRecall x.entry x.op.ctx = none →
      (due = true → exec (.heldLandingRelease core i) s = .next (s.startLandingRecall core x)) ∧
      (due = false → ∀ u,
        (s.land core x = .done u → Runs (.heldLandingRelease core i) s fun t =>
          (t.core core).heldLandings = dropAt (u.core core).heldLandings i ∧ ∀ a, t.readHome a = u.readHome a) ∧
        (s.land core x = .wait u → exec (.heldLandingRelease core i) s = .next u))) ∧
    (∀ j, behind = false → (s.core core).landingRecall x.entry x.op.ctx = some j → ∀ u,
      s.performRecall core x.entry x.op.ctx (recordNeeded x) = .wait u → exec (.heldLandingRelease core i) s = .next u))

/-- Remote operations at their target and their answers at the issuer. -/
def Obligations.RemoteArrivals : Prop := Rules.RemoteLanding ∧ Rules.AnswersAndResults

/-- R99, R100, R305, R306, R307, R309, R311, R433, R434: the member stores of a multicast, the reads of a pull, their answers to the
issuer, given regions (a tile that changes hands, and one that is copied into the receiver's own, without TAGGED), and the questions to a
work distributor: one that meets a close of it waits, and finds it closed. That the status of every pull read which its window fails is
WINDOW, and that the failures of steps 1 and 4 of R105 alone are counted, is the reading of log entry 61; the statuses of a multicast that
no member took are log entry 69's. -/
def Obligations.GroupTraffic : Prop := ∀ (s : State) (n core : Nat),
  (∀ m op x, s.net[n]? = some (.mcastMember m op) → s.keyCore op.key = some core → s.awake core = true →
    s.remoteBehind (s.net.take n) (.mcastMember m op) = false → op.whole = none → s.accept core op (some m) = .ok x →
    (s.actor core x.entry).state = .live → Tab.get? (s.actor core x.entry).regions x.handle = some x.region →
    x.region.tagged = false → x.region.kind ≠ 2 →
    (s.core core).landsBehind core (s.core core).heldLandings x = false → (s.core core).mapCtx op.ctx ≠ none →
    op.kind = .store → op.data.length = op.len →
    (∀ i < op.len, localHome core (x.addr + i) = localHome core x.addr + i) → s.Sound (localHome core x.addr) op.len →
    Runs (.multicastArrival n) s fun t =>
      t.readBytes (localHome core x.addr) op.len = op.data ∧ s.SameOutside t (localHome core x.addr) op.len) ∧
  (∀ g m key off t0 c rid port k0, s.net[n]? = some (.pullRead g m key off t0 c rid) → s.keyCore key = some core →
    s.awake core = true → g.toNat < 4096 → s.sealKey t0 = some k0 →
    ((List.range 24).find? fun i => (s.port i).up && (s.port i).isSwitch) = some port →
    let says_ (u : State) (st : CopyStatus) (bs : List Byte) : Prop := Runs (.pullReadArrival n) s fun t =>
      (∀ a, t.readHome a = s.readHome a) ∧ t.cores = u.cores ∧
      ∃ hdr tag, .flit port hdr tag (.pullReply g t0 m st bs (!s.confidential t0) c rid) ∈ t.out
    (s.winStep1 core key = .dead → says_ (s.count core t0 0x037) .window []) ∧
    (s.winStep1 core key = .reject → says_ (s.count core t0 0x053) .window []) ∧
    ∀ w r, s.winStep1 core key = .ok w → Tab.get? (s.actor core w.owner).regions w.handle = some r →
      let v := baseView core w.owner
      let addr := r.base + w.off + off
      (w.len < off + 256 → says_ (s.count core t0 0x053) .window []) ∧
      (off + 256 ≤ w.len → w.pb = false ∨ w.wd = false → says_ s .window []) ∧
      (off + 256 ≤ w.len → w.pb = true → w.wd = true →
        (s.regionEcc v w.handle r addr 256 = true → says_ s .ecc []) ∧
        (s.regionEcc v w.handle r addr 256 = false → says_ s .ok (s.regionRead v w.handle r addr 256)))) ∧
  (∀ g rid, s.ownCore g = some core → s.awake core = true →
    let ended (t : State) : Prop := Tab.get? (t.core core).remotes rid = none ∧ ∀ x ∈ (t.core core).apert, x.id ≠ rid
    let waits (t : State) : Prop := Tab.get? (t.core core).remotes rid = none ∧ rid ∈ (t.core core).waitDone
    let open_ (u : State) (free : Bool) : Prop := Tab.get? (u.core core).remotes rid ≠ none ∧
      ∃ o k d, (u.core core).apert.find? (fun o => decide (o.id = rid)) = some o ∧ o.body = .copy k d ∧
        (u.core core).mayComplete rid d = free
    (∀ st bm ms f aw u, s.net[n]? = some (.mergedAck g rid st bm ms f aw) →
      (s.apertureWrites core rid (·.res) (leBytes 64 bm.toNat) = (false, u) → exec (.mergedAckArrival n) s = .next u) ∧
      (s.apertureWrites core rid (·.res) (leBytes 64 bm.toNat) = (true, u) →
        (open_ u true → Runs (.mergedAckArrival n) s ended) ∧
        (open_ u false → s.twinRemote core rid = none → Runs (.mergedAckArrival n) s waits))) ∧
    (∀ st l c m u, s.net[n]? = some (.reduced g rid st l c m) →
      (if st = .ok then s.apertureWrites core rid (·.dst) l else (true, s)) = (true, u) →
        (open_ u true → Runs (.reducedLineArrival n) s ended) ∧
        (open_ u false → s.twinRemote core rid = none → Runs (.reducedLineArrival n) s waits))) ∧
  (∀ tr h, s.net[n]? = some (.transfer tr) → s.isLocal tr.dest = true → nameCore tr.dest = core → core ≠ hostPlace →
    s.taking core tr.dest = true → s.flowFirst n (.transfer tr) = true → s.alive core tr.dest = true →
    (s.actor core (nameSlot tr.dest)).pool = false → (s.core core).freeHandle (nameSlot tr.dest) = some h →
    (tr.zeroCopy = true → Runs (.transferComplete n) s fun t =>
      Tab.get? (t.actor core (nameSlot tr.dest)).regions h = some (attrRegion tr.attr.toNat tr.base tr.size tr.cidx)) ∧
    (∀ base idx, tr.zeroCopy = false → s.placeRegion core (bits tr.attr.toNat 12 2) tr.size = some (base, idx) →
      Runs (.transferComplete n) s fun t =>
        let r := { attrRegion tr.attr.toNat base tr.size idx with tagged := false }
        Tab.get? (t.actor core (nameSlot tr.dest)).regions h = some r ∧
          t.readBytes (regionHome core r) tr.bytes.length = tr.bytes)) ∧
  (∀ h t0 g rid, s.net[n]? = some (.wqQuery h t0 g rid) → nameModule h = s.mod.num.toNat →
    (s.closing h = true → exec (.wqQueryArrival n) s = .next s) ∧
    (s.closing h = false → g / 0x20000 = s.mod.num.toNat →
      (∀ d, (s.die (bits h.toNat 50 4)).distOf h = some d →
        (d.tenant = t0 → d.next < d.x * d.y → Runs (.wqQueryArrival n) s fun t => .response g rid t0 .ok (leBytes 8 d.index.toNat) ∈ t.net ∧
          Tab.get? (t.die (bits h.toNat 50 4)).dists (bits h.toNat 0 6) = some { d with next := d.next + 1 }) ∧
        (d.tenant = t0 → d.x * d.y ≤ d.next → Runs (.wqQueryArrival n) s fun t =>
          .response g rid t0 .ok (leBytes 8 (2 ^ 64 - 1)) ∈ t.net ∧ t.dies = s.dies)) ∧
      ((∀ d, (s.die (bits h.toNat 50 4)).distOf h = some d → d.tenant ≠ t0) → Runs (.wqQueryArrival n) s fun t =>
        .response g rid t0 .ok (leBytes 8 (2 ^ 64 - 1)) ∈ t.net ∧ t.cores = (s.count (dieCore (bits h.toNat 50 4)) t0 0x056).cores))) ∧
  (∀ h owner g rid d, s.net[n]? = some (.wqClose h owner g rid) → nameModule h = s.mod.num.toNat →
    (s.die (bits h.toNat 50 4)).distOf h = some d → d.owner = owner → Runs (.wqCloseArrival n) s fun t =>
      Tab.get? (t.die (bits h.toNat 50 4)).dists (bits h.toNat 0 6) = some { d with busy := false, gen := nextSkip0 d.gen })

/-! ### Contexts behind the programs, waves, sleep (chapters 05, 08, 26) -/

/-- R126, R128, R133, R134, R418: a write-back leaves the eviction buffer, and one that fails is counted off; a prefetch's fills land in
free cells; behind those, as many as evictions of this cycle have made room for are dropped and stay in their records, and the rest claim
cells by eviction or wait. A core
without work evicts its cells and then sleeps; it wakes for a packet with an empty context map, asks about the identifiers of its records,
and asks for fresh ones. -/
def Rules.ContextsBehind : Prop := ∀ (s : State) (core i : Nat),
  let k := s.core core
  (∀ e, k.evicts[i]? = some e → Runs (.writeBackComplete core i) s fun t => (t.core core).evicts = dropAt k.evicts i ∧
    ((s.hbmWrite (s.actor core e.cell.entry).tenant ((s.actor core e.cell.entry).ova + e.off) (recordBytes e.cell)).2.1 ≠ .ok →
      (t.actor core e.cell.entry).recCount = (s.actor core e.cell.entry).recCount - 1)) ∧
  (∀ r sr, k.recalls[i]? = some r → r.why = .prefetch sr →
    let x := k.fills (s.now core) ((s.records core r.entry r.ctx).filter fun e => !r.dropped.contains e.1)
    let gone := r.dropped ++ x.2.map (·.1)
    let got := (s.countN core (s.actor core r.entry).tenant 0x063 x.2.length).recallList core r.entry r.ctx x.1
    let goesOn (u : State) : Prop := Runs (.prefetchFill core i) s fun t => (t.core core).cells = (u.core core).cells ∧
      (t.core core).recalls[i]? = some { r with dropped := gone } ∧ ∀ a, t.readHome a = u.readHome a
    let ends (u : State) : Prop := Runs (.prefetchFill core i) s fun t => (t.core core).cells = (u.core core).cells ∧
      (t.core core).recalls = dropAt k.recalls i
    ∀ u, (got = .done u → ends u) ∧ (got = .wait u → goesOn u) ∧ (got = .short u 0 → goesOn u) ∧ ∀ m, got = .short u (m + 1) → ends u) ∧
  (s.awake core = true → k.noWork = true → k.cfg.sleept ≠ 0 →
    (∀ v c, k.cells ≠ [] → s.victim core = some (v, c) → k.evicts.length < 32 → exec (.coreSleep core) s = .next (s.evict core v c)) ∧
    (∀ t0, k.cells = [] → k.evicts = [] → k.idleSince = some t0 → t0 + 1000 * k.cfg.sleept ≤ s.mod.timeNs →
      Runs (.coreSleep core) s fun t => (t.core core).asleep = true ∧ ∀ a, t.readHome a = s.readHome a)) ∧
  (k.asleep = true → (∃ p ∈ s.net, core ∈ s.packetCores p) → Runs (.coreWake core) s fun t =>
    (t.core core).asleep = false ∧ (t.core core).waking = true ∧ (t.core core).ctxMap = [] ∧ (t.core core).wakeAsk = s.recordIds core ∧
    t.net = s.net) ∧
  (k.waking = true → k.wakeAsk = [] → k.wakeSent = [] → Runs (.wakeComplete core) s fun t => (t.core core).waking = false) ∧
  (∀ c : CtxId, k.waking = true → c ∈ k.wakeAsk → Runs (.wakingQuery core c) s fun t =>
    (t.core core).wakeAsk = k.wakeAsk.filter (· != c) ∧
    (c.toNat / 0x400000 ≠ s.mod.num.toNat → s.isLost (c.toNat / 0x400000) = false → (t.core core).wakeSent = k.wakeSent ++ [c])) ∧
  (∀ c : CtxId, k.waking = true → c ∉ k.wakeAsk → c ∈ k.wakeSent → c.toNat / 0x400000 ≠ s.mod.num.toNat →
    s.isLost (c.toNat / 0x400000) = false →
    (s.wakeAnsAt core c = none → exec (.wakingQuery core c) s = .next s) ∧
    ∀ p b, s.wakeAnsAt core c = some (p, b) → Runs (.wakingQuery core c) s fun t =>
      t.net = dropAt s.net p ∧ (t.core core).wakeSent = k.wakeSent.filter (· != c)) ∧
  (s.awake core = true → s.clearDue (dieOf core) = false → k.fresh.length < 16 → (s.die (dieOf core)).tagOn = true → k.refill = 0 →
    Runs (.tagRefill core) s fun t =>
      ∃ l, (t.core core).fresh = k.fresh ++ l ∧ l.length ≤ 32 ∧ (t.core core).refill = 32 - l.length)

/-- R76, R132, R134, R204, R205, R362, R418, R435: a wave acts at each place it reaches and is counted there, and skips a core that sleeps,
but for a core that a loss concerns, which is woken for it. A retire wave that every place of the module and every other module has taken
counts its identifier as retired at its allocator, which serves its open requests with it, and one from another module is answered. A wave
that is met ends with its message to the steward that started it: the wave's code, its operand, and the numbers of places that took and
that skipped it. The routers of a steward that sleeps hold the message, and the order of waves that are met is log entry 29's; that of a
core asleep at a loss is log entry 30's. -/
def Rules.WavesTravel : Prop := ∀ (s : State) (wave place : Nat) (w : Wave), Tab.get? s.waves wave = some w →
  let took (t : State) : Prop := ∃ w', Tab.get? t.waves wave = some w' ∧ place ∉ w'.todo ∧ w'.took = w.took + 1 ∧ w'.skipped = w.skipped
  let skips (i : Instr) : Prop := place < coreCount → (s.core place).asleep = true → Runs i s fun t => t.cores = s.cores ∧
    ∃ w', Tab.get? t.waves wave = some w' ∧ place ∉ w'.todo ∧ w'.took = w.took ∧ w'.skipped = w.skipped + 1
  (place ∈ w.todo →
    (∀ c, w.kind = .retire c → skips (.retireWaveArrival wave place) ∧ ((place < coreCount → s.awake place = true) →
      Runs (.retireWaveArrival wave place) s fun t => took t ∧ (∀ x ∈ (t.core place).cells, x.ctx ≠ c) ∧
        ∀ q ∈ (t.core place).queue, q.msg.ctx = c → q.msg.chan = 0#2)) ∧
    (∀ tn pg all, w.kind = .shootdown tn pg all → skips (.shootdownArrival wave place) ∧ ((place < coreCount → s.awake place = true) →
      Runs (.shootdownArrival wave place) s fun t => took t ∧
        (coreCount ≤ place → ∀ e ∈ (t.mgate (place - gatePlace 0)).tlb, e.shot tn pg all = false))) ∧
    (∀ m, w.kind = .moduleLoss m →
      ((s.core place).lossStake m = false → skips (.moduleLossWaveArrival wave place)) ∧
      ((s.core place).lossStake m = true → (s.core place).asleep = true →
        exec (.moduleLossWaveArrival wave place) s = .next (s.wakeCore place)) ∧
      (s.awake place = true → Runs (.moduleLossWaveArrival wave place) s fun t => took t ∧
        ∀ i r, Tab.get? (t.core place).remotes i = some r → r.module ≠ m))) ∧
  (w.todo = [] → w.awaits = [] → w.cleared = false → ∀ c, w.kind = .retire c →
    (∀ m k, w.origin = some (m, k) → Runs (.retireWaveComplete wave) s fun t => Tab.get? t.waves wave = none) ∧
    (w.origin = none →
      let die := c.toNat % 0x400000 / 0x40000
      let u := s.retireAt c
      (c.toNat / 0x400000 = s.mod.num.toNat →
        u = (s.modDie die fun d => d.retireId c).serveTags die (s.die die).tagWaiting ∧
        ((s.die die).tagWaiting = [] → bitAt (u.die die).tagIssued (c.toNat % 0x40000) = false)) ∧
      (w.steward = none → w.service = none → exec (.retireWaveComplete wave) s = .next { u with waves := Tab.del u.waves wave }) ∧
      (w.steward ≠ none → exec (.retireWaveComplete wave) s =
        .next { u with waves := Tab.put u.waves wave (Wave.stamp { w with cleared := true } s.mod.cycle) }))) ∧
  (s.waveEnds wave w = true →
    (∀ tn pg all, w.kind = .shootdown tn pg all → Runs (.shootdownComplete wave) s fun t => Tab.get? t.waves wave = none) ∧
    (∀ core name operand cw ctx, w.steward = some (core, name, operand, cw, ctx) →
      let u := ({ s with waves := Tab.del s.waves wave } : State).modCore core fun k => { k with wavesOpen := k.wavesOpen - 1 }
      let m := hwMsg name cw ctx (BitVec.ofNat 64 w.kind.code) operand (BitVec.ofNat 64 w.took) (BitVec.ofNat 64 w.skipped)
      let v := if s.awake core then u.arriveBuilt core m else u.emit (.msg m)
      (w.service = none → (∀ x, w.kind ≠ .moduleLoss x) → exec (.waveCompleteMessage wave) s = .next v) ∧
      (∀ x, w.service = none → w.kind = .moduleLoss x → Runs (.waveCompleteMessage wave) s fun t => t.cores = v.cores ∧
        (∀ p ∈ v.net, p ∈ t.net) ∧ x ∈ t.fw.declared) ∧
      Runs (.waveCompleteMessage wave) s fun t => Tab.get? t.waves wave = none ∧
        (t.core core).wavesOpen = (s.core core).wavesOpen - 1))

/-- Contexts behind the programs, sleep, and waves. -/
def Obligations.BehindPrograms : Prop := Rules.ContextsBehind ∧ Rules.WavesTravel

/-- R5, R359, R360, R363, R413, R417, R419, R430, R431, R454: a steward's read is answered with the word of its table; an accepted write
is read back, the reserved bits of a membership header as zero, and a refused one answered PROT; slice words wait for the boundary; a group
header starts its installation at every switch that the ports reach; a pre-emption request takes the
actor's handlers out of their slots; one to a gateway's name is discarded and counted at the core that stands for it (log entry 25). -/
def Obligations.StewardAccesses : Prop := ∀ (s : State) (n core : Nat),
  (∀ a, s.net[n]? = some (.steward a) → s.ownCore a.target = some core → s.awake core = true → s.accessFirst n a = true →
    let u := s.takePacket n
    let tbl := a.tbl.toNat
    let idx := a.idx.toNat
    (a.write = none → exec (.stewardAccessArrival n) s =
      .next (u.emit (.response a.core a.rid 0#12 .ok (leBytes 8 (u.tableRead core tbl idx).toNat)))) ∧
    (∀ v, a.write = some v → u.tableWrite core tbl idx v (a.core, a.rid) = .refused →
      exec (.stewardAccessArrival n) s = .next (u.emit (.response a.core a.rid 0#12 .prot []))) ∧
    (∀ v t', a.write = some v → u.tableWrite core tbl idx v (a.core, a.rid) = .done t' →
      let back (i : Instr) : Prop := Runs i s fun t => .response a.core a.rid 0#12 .ok [] ∈ t.net ∧
        t.tableRead core tbl idx = if tbl = 0x0A ∧ idx % 2048 = 0 then headerKept v else v
      (tbl = 0x08 → back (.coreConfigurationWrite n)) ∧ (tbl = 0x09 → back (.tagAllocatorWrite n)) ∧
      (tbl = 0x0A → back (.membershipWrite n)) ∧ (tbl = 0x0C → back (.pageTableRootWrite n)) ∧
      (tbl = 0x07 → Runs (.sliceTableWrite n) s fun t => (t.core core).sliceWrites = (s.core core).sliceWrites ++ [(idx, v, s.now core)] ∧
        (t.core core).slices = (s.core core).slices)) ∧
    (∀ v, a.write = some v → tbl = 0x0B → idx % 1024 = 0 → (u.group (idx / 1024)).busy = false → u.headerOk (idx / 1024) v = true →
      Runs (.groupTableWrite n) s fun t => (t.group (idx / 1024)).installing = headerValid v ∧ (t.group (idx / 1024)).withdrawing = !headerValid v ∧
        (t.group (idx / 1024)).awaits = s.switchPorts ∧ ∀ p ∈ s.switchPorts, ∃ hdr tag, .flit p hdr tag (.manage s.mod.num.toNat s.mod.num.toNat
          (if headerValid v then .install (idx / 1024) v (s.group (idx / 1024)).keys else .withdraw (idx / 1024))) ∈ t.out)) ∧
  (∀ x op, s.net[n]? = some (.prmt x op) → nameCore x = core →
    (core = hostPlace → exec (.prmtArrival n) s = .next ((s.takePacket n).count gateCore 0#12 0x037)) ∧
    (core ≠ hostPlace → s.awake core = true →
      (s.alive core x = false → exec (.prmtArrival n) s = .next ((s.takePacket n).count core 0#12 0x037)) ∧
      (s.alive core x = true → Runs (.prmtArrival n) s fun t => t.net = dropAt s.net n ∧
        ∀ r h, Tab.get? (t.core core).handlers r = some h → h.entry = nameSlot x →
          (op ≠ 2#2 → h.status.slot? = none) ∧ (op = 2#2 → h.status ≠ .held))))

/-! ### The edge gateways (chapter 27) -/

/-- R201, R423 to R429, R431, R435, R436, R439, R440, R454, R457: combining buffers and holds end in time; flits are delivered or counted,
those malformed, of a lost module or not verified among the latter, and acknowledge what their port has sent; what only a switch originates
counts on a switch's port alone; a port goes down with an unacknowledged flit of 10 us; lanes turn and retire by both sides of their eye;
heartbeats, suspicion, probes and loss; pod time; a router's combining step in the order of R365. That the 32 cycles of R427 are periods of
CYCLE is the choice of log entry 62, the ports of a probe, the links and connectors that lanes are of, and what a lane report gives are log
entry 31's, the module's group is log entry 10's, the seals and what a switch's flits need are log entry 44's, the headers log entry 18's,
and the die that counts a flit is log entry 25's. -/
def Obligations.FabricEvents : Prop := ∀ (s : State) (p m i : Nat),
  let q := s.port p
  let now := s.mod.timeNs
  let sends (t : State) (port : Nat) (x : Packet) : Prop := ∃ hdr tag, .flit port hdr tag x ∈ t.out
  (∀ b, s.combine[i]? = some b → b.since + 32 ≤ s.mod.cycle → Runs (.combineFlush i) s fun t => t.combine = dropAt s.combine i) ∧
  (∀ h, s.holds[i]? = some h →
    ((∃ x ∈ s.holds.take i, x.module = h.module) → exec (.maskHoldExpiry i) s = .next s) ∧
    ((∀ x ∈ s.holds.take i, x.module ≠ h.module) → h.until_ ≤ now → Runs (.maskHoldExpiry i) s fun t =>
      t.holds.length + 1 = s.holds.length)) ∧
  (∀ f : WireFlit, f.port < 24 → (s.port f.port).up = true →
    let kind := hdrKind f.header
    let left (t : State) : Prop := (t.port f.port).unacked = (s.port f.port).unacked.filter fun x => decide (f.acked ≤ x.1)
    let drops (src : Nat) : Prop := Runs (.flitReceive f) s fun t => t.net = s.net ∧ left t ∧ Tab.get? (t.die (linkDie f.port)).diag src =
      some (satAdd 0xFFFFFFFF ((Tab.get? (s.die (linkDie f.port)).diag src).getD 0) 1)
    let src := hdrSrc f.header / 65536
    let heeds (i : Instr) : Prop :=
      (s.lostNow src = true → Runs i s fun t => t.heard = s.heard ∧ t.lost = s.lost ∧ t.groups = s.groups) ∧
      (s.lostNow src = false → f.body.fromSwitch = true → (s.port f.port).isSwitch = false → Runs i s fun t =>
        t.heard = s.heard ∧ t.groups = s.groups ∧ t.net = s.net)
    (kind ≠ f.body.kind ∨ 13 ≤ kind ∨ f.body.lwOk (hdrLw f.header) = false → drops 0x103) ∧
    (kind = f.body.kind → kind < 13 → f.body.lwOk (hdrLw f.header) = true →
      (s.lostNow src = true → drops 0x107) ∧
      heeds (.flitReceive f) ∧
      (s.lostNow src = false → f.body.fromSwitch = false → s.verifies f = false → drops 0x102) ∧
      (s.lostNow src = false → (if f.body.fromSwitch then (s.port f.port).isSwitch else s.verifies f) = true →
        let plain := match f.body with
          | .retireWave .. => false
          | .waveDone .. => false
          | .retired .. => false
          | .manage .. => false
          | .wakeQuery .. => false
          | .tile .. => false
          | .transfer _ => false
          | _ => true
        (∀ ep, f.body.route = .module s.mod.num.toNat ep → plain = true → Runs (.flitReceive f) s fun t => t.net = s.net ++ [f.body]) ∧
        (∀ x y, f.body = .manage x y .heartbeat → Runs (.heartbeatArrival f) s fun t => Tab.get? t.heard src = some now ∧
          Tab.get? t.fw.probes src = none ∧ Tab.get? t.fw.suspects src = none) ∧
        (∀ x y, f.body = .manage x y .probeAns → Runs (.flitReceive f) s fun t => Tab.get? t.fw.probes src = none)))) ∧
  (p < 24 → q.up = true →
    let down (t : State) : Prop := (t.port p).up = false ∧ ∀ m x, Tab.get? t.masks m = some x → x.getLsbD p = false
    ((∃ x ∈ q.unacked, x.2 + 10000 ≤ now) → Runs (.portDown p) s down) ∧
    ((∀ x ∈ q.unacked, now < x.2 + 10000) → exec (.portDown p) s = .next s) ∧
    (q.retries + 1 < 16 → Runs (.flitCrcFail p) s fun t => (t.port p).up = true ∧ (t.port p).retries = q.retries + 1 ∧ t.masks = s.masks) ∧
    (16 ≤ q.retries + 1 → Runs (.flitCrcFail p) s down) ∧
    (q.retired = [] → q.rotatedAt + 10000000 ≤ now → Runs (.laneRotation p) s fun t =>
      (t.port p).rotation = q.rotation + 1 ∧ (t.port p).rotatedAt = now ∧ (t.port p).spare = q.spare.map fun l => (l + 1) % 9) ∧
    (∀ l v, q.retired = [] → q.spare = some l →
      (v.height < 110 ∨ v.width < 11 → Runs (.laneRetire p l v) s fun t =>
        (t.port p).retired = [l] ∧ .pldm (BitVec.ofNat 64 (2 ^ 56 + p * 2 ^ 48 + l * 2 ^ 40 + v.height % 2 ^ 32)) ∈ t.out) ∧
      (110 ≤ v.height → 11 ≤ v.width → v.height ≤ 140 ∨ v.width ≤ 14 → Runs (.laneRetire p l v) s fun t =>
        (t.port p).retired = [] ∧ (Tab.get? s.mod.reports (3 * 256 + p) = none →
          .pldm (BitVec.ofNat 64 (3 * 2 ^ 56 + p * 2 ^ 48 + l * 2 ^ 40 + v.height % 2 ^ 32)) ∈ t.out)) ∧
      (140 < v.height → 14 < v.width → exec (.laneRetire p l v) s = .next s)) ∧
    (q.retired ≠ [] → q.lanes = 8 → Runs (.laneDegrade p) s fun t => (t.port p).lanes = 4 ∧ (t.port p).up = true)) ∧
  (∀ sw ms, p < 24 → q.up = false → Runs (.linkBringUp p sw ms) s fun t => (t.port p).up = true ∧ (t.port p).isSwitch = sw ∧
    ∀ m ∈ ms, m < 1024 → m ≠ s.mod.num.toNat → ∃ x, Tab.get? t.masks m = some x ∧ x.getLsbD p = true) ∧
  (s.mod.heldReset = false → s.fabricKeys ≠ [] → s.mod.beatAt + 50000 ≤ now → Runs .heartbeatSend s fun t => t.mod.beatAt = now ∧
    (s.holds = [] → ∀ m ∈ s.podModules, ∀ port, s.portFor gateCore m (m * 65536) = some port →
      sends t port (.manage m s.mod.num.toNat .heartbeat))) ∧
  (∀ t0, Tab.get? s.heard m = some t0 → s.isLost m = false → m ≠ s.mod.num.toNat → Tab.get? s.fw.suspects m = none → t0 + 200000 ≤ now →
    Runs (.suspect m) s fun t => Tab.get? t.fw.suspects m = some now ∧
      t.net = s.net ++ [.firmware s.mod.num.toNat s.mod.num.toNat (.suspect m)]) ∧
  (∀ x y rest, s.agenda = .inner .firmwareMessage i 0 :: rest → s.mod.heldReset = false → s.net[i]? = some (.firmware x y (.suspect m)) →
    s.isLost m = false → Tab.get? s.fw.suspects m ≠ none → ∃ t, step s = .next t ∧ Tab.get? t.fw.probes m = some now ∧
      ∀ port ∈ (portsOf ((Tab.get? s.masks m).getD 0#24)).take 2, sends t port (.manage m s.mod.num.toNat .probe)) ∧
  (∀ t0, Tab.get? s.fw.probes m = some t0 → t0 + 100000 ≤ now → Runs (.probeTimeout m) s fun t => t.isLost m = true ∧
    (∀ port ∈ s.switchPorts, sends t port (.manage s.mod.num.toNat s.mod.num.toNat (.loss m))) ∧
    ∃ w, Tab.get? t.waves s.nextWave = some w ∧ w.kind = .moduleLoss m) ∧
  (∀ tn : Nat, (Tab.get? s.fabricKeys tn).isSome = true →
    let others := (s.masks.map (·.1)).filter fun m => decide (m ≠ s.mod.num.toNat)
    others ≠ [] → tn ∉ s.mod.isolated → (∀ m ∈ others, ∀ t0, Tab.get? s.heard m = some t0 → t0 + 200000 ≤ now) → Runs (.selfLost tn) s fun t =>
      tn ∈ t.mod.isolated ∧
      ∀ core e a, Tab.get? (t.core core).actors e = some a → a.tenant = BitVec.ofNat 12 tn → a.state ≠ .live) ∧
  (∀ pod : Nat, Runs (.timeSync pod) s fun t => t.mod.timeNs = Config.disciplined now pod s.freeCtr ∧
    t.mod.unsync = decide (1000 < Int.natAbs ((now : Int) - pod)) ∧ t.freeCtr = s.freeCtr + 1) ∧
  (∀ core c, core < coreCount → c.ok = true →
    (c.second = true ∨ (s.core core).contributed = true → Runs (.routerCombining core c) s fun t =>
      .combined core c.run.1 ∈ t.out ∧ t.net = s.net) ∧
    (c.second = false → (s.core core).contributed = false → exec (.routerCombining core c) s = .next s))

/-! ### Power, cooling and management (chapters 28 and 29) -/

/-- R441, R442, R443, R445, R447, R448: operating points, caps, clamps, and the input rail. -/
def Obligations.PowerEvents : Prop := ∀ (s : State) (d : Nat),
  let steered (t : State) (d : Nat) : Prop := (t.die d).target.getD (t.die d).point = (t.die d).goal
  (∀ p, (s.die d).target = some p → (s.die d).changeAt ≤ s.mod.timeNs → Runs (.dvfsChangeDone d) s fun t =>
    (t.die d).point = p ∧ ∀ e, e ≠ d → t.die e = s.die e) ∧
  (∀ w, d < 16 → Runs (.capWrite d w) s fun t => (t.die d).cap = w ∧ steered t d ∧ (w = 0 → (t.die d).capPoint = 4)) ∧
  (∀ r v, d < 16 → r < 8 → Runs (.lidSample d r v) s fun t => Tab.get? (t.die d).lids r = some (min 0xFFFF v) ∧
    (s.mod.tsat.toNat + 400 < min 0xFFFF v → (t.die d).clamped = true ∧ ((s.die d).clamped = false → (t.die d).goal = 0 ∧ steered t d)) ∧
    (s.mod.tsat.toNat + 320 < min 0xFFFF v → (s.die d).releasedAt = some (s.die d).cycles → (t.die d).clamped = true) ∧
    (min 0xFFFF v ≤ s.mod.tsat.toNat + 400 → (s.die d).releasedAt ≠ some (s.die d).cycles → (t.die d).clamped = (s.die d).clamped) ∧
    (min 0xFFFF v ≤ s.mod.tsat.toNat + 320 → (t.die d).clamped = (s.die d).clamped)) ∧
  (∀ t0, (s.die d).coolSince = some t0 → (s.die d).clamped = true → s.mod.clampAll = false → t0 + 10000000 ≤ s.mod.timeNs →
    Runs (.clampRelease d) s fun t => (t.die d).clamped = false ∧ steered t d ∧ (t.die d).releasedAt = some (s.die d).cycles) ∧
  (∀ mv us, mv < 38000 → 1000 ≤ us → s.mod.clampAll = false → Runs (.inputLow mv us) s fun t =>
    t.mod.clampAll = true ∧ ∀ e < 16, (t.die e).clamped = true ∧ (t.die e).goal = 0 ∧ steered t e) ∧
  (∀ mw, mw ≤ 6000000 → Runs (.inputLimit mw) s fun t => t.mod.limitAt = none ∧ t.dies = s.dies) ∧
  (∀ mw, 6000000 < mw → (∀ t0, s.mod.limitAt = some t0 → t0 + 50000 ≤ s.mod.timeNs) → Runs (.inputLimit mw) s fun t =>
    t.mod.limitAt = some s.mod.timeNs ∧
      ∀ e < 16, (t.die e).inputPoint = (s.die e).target.getD (s.die e).point - 1 ∧ steered t e) ∧
  (∀ r mv ma dw, railOk r = true → Runs (.railSample r mv ma dw) s fun t =>
    (∃ w, Tab.get? t.mod.rails r = some w ∧ bits w.toNat 56 8 = r ∧ bits w.toNat 40 16 = min mv 0xFFFF ∧
      bits w.toNat 20 20 = min ma 0xFFFFF ∧ bits w.toNat 0 20 = min dw 0xFFFFF) ∧ (0x10 ≤ r → r ≤ 0x1F → steered t (r - 0x10)))

/-- R438, R445, R446, R450, R453, R455, R458, R459: energy: what the cores of a die are credited, or are due, and what is carried on are the
measured energy and what was carried; a core gets its share by its issued groups and engine cycles, a tenant its part by its busy cycles.
TSAT and FEED with the buddy that follows from it, the counters of a die, the MCTP endpoint, and sensors, as they were last updated. How a
fraction of a microjoule is carried, and what a saved counter is due, is the choice of log entry 31; the terminus of PLDM type 0 is log
entry 73's. -/
def Obligations.ManagementEvents : Prop := ∀ (s : State) (d : Nat),
  (∀ uj, d < 16 → (s.die d).energyAt + 1000000 ≤ s.mod.timeNs → Tab.Sorted s.cores →
    (∀ k ∈ s.cores, Tab.Sorted k.2.energy ∧ Tab.Sorted k.2.energyDue ∧ Tab.Sorted k.2.busyCycles) →
    s.energyOf d + uj + (s.die d).energyRest ≤ 0xFFFFFFFFFFFF → Runs (.energyApportion d uj) s fun t =>
      (t.die d).energyAt = s.mod.timeNs ∧
      t.energyOf d + (t.die d).energyRest = s.energyOf d + uj + (s.die d).energyRest ∧
      ((∀ k ∈ s.cores, dieOf k.1 ≠ d) → (t.die d).energyRest = uj + (s.die d).energyRest) ∧
      ∀ c k, (c, k) ∈ s.cores → dieOf c = d → ∀ tn, 0 < tn → tn < 4096 →
        let total := ((s.cores.filter fun x => decide (dieOf x.1 = d)).map fun x => x.2.weight).sum
        let busy := (k.busyCycles.map (·.2)).sum
        let share := (uj + (s.die d).energyRest) * k.weight / total
        let held (x : Core) : Nat := (Tab.get? x.energy tn).getD 0 + (Tab.get? x.energyDue tn).getD 0
        held (t.core c) = held k + share * (Tab.get? k.busyCycles tn).getD 0 / busy) ∧
  (∀ v, exec (.tsatWrite v) s = .next { s with mod := { s.mod with tsat := v } }) ∧
  (∀ v, Runs (.feedWrite v) s fun t => t.mod = { s.mod with feed := v } ∧ t.fw.buddy = t.buddyOf ∧ ∀ a, t.readHome a = s.readHome a) ∧
  (∀ n code, d < 20 → n < 16 → sourceCode code = true → Runs (.dieCounterSelect d n code) s fun t =>
    Tab.get? (t.die d).selectors n = some code ∧ (t.die d).diag = (s.die d).diag) ∧
  (∀ e, Runs (.mctpControl (.setEndpointId e)) s fun t => t.mod.eid = e) ∧
  Runs (.mctpControl .getEndpointId) s (fun t => t.mod = s.mod ∧ t.out = s.out ++ [.mctp "endpoint id" [s.mod.eid]]) ∧
  Runs (.mctpControl .getMessageTypes) s (fun t => t.mod = s.mod) ∧
  (∀ x, Runs (.mctpControl (.pldmBase (.setTid x))) s fun t => t.mod = { s.mod with tid := x }) ∧
  Runs (.mctpControl (.pldmBase .getTid)) s (fun t => t.mod = s.mod ∧ t.out = s.out ++ [.mctp "TID" [s.mod.tid]]) ∧
  Runs (.mctpControl (.pldmBase .getTypes)) s (fun t => t.mod = s.mod ∧ t.out = s.out ++ [.mctp "PLDM types" [0#8, 2#8, 5#8]]) ∧
  (∀ r w, s.mod.sensed = none → r < 0x40 → railOk r = true → Tab.get? s.mod.rails r = some w → Runs (.pldmSensorRead (0x100 + r)) s fun t =>
    t.out = s.out ++ [.sensor (0x100 + r) [{ value := bits w.toNat 0 20, per := 10 }, { value := bits w.toNat 40 16, per := 1000 },
      { value := bits w.toNat 20 20, per := 100 }]]) ∧
  (s.mod.sensed = none → d < 16 → Runs (.pldmSensorRead (0x280 + d)) s fun t =>
    t.out = s.out ++ [.sensor (0x280 + d) [{ value := 400 - (((s.die d).hottest : Int) - s.mod.tsat.toNat), per := 16 }]]) ∧
  (∀ id v, s.shown id = some v → exec (.pldmSensorRead id) s = .next { s with out := s.out ++ [.sensor id v] })

/-! ### The host gateway (chapter 25) -/

/-- R393 to R399, R402, R403: a function's registers, send aperture, memory aperture, host queue and reset. A request that R394 denies
changes nothing of the function and gets an Unsupported Request completion, counted in HOST_DENY (a completion for a posted write too: the
reading of log entry 34; at the die of log entry 25). HQCTL takes writes within its limits while the queue is off. The module has one link
IDE stream. -/
def Rules.HostGateEvents : Prop := ∀ (s : State) (fn : Nat), s.fnExists fn = true →
  let f := s.hostFn fn
  (∀ sealed, f.accepts sealed = false →
    let denied (i : Instr) : Prop := exec i s = .next ((s.countDie moduleDie 0x10C).output (.unsupported fn))
    (∀ off bs, denied (.sendApertureWrite ⟨fn, sealed⟩ off bs)) ∧ (∀ v, denied (.fstatClear ⟨fn, sealed⟩ v) ∧ denied (.hqheadWrite ⟨fn, sealed⟩ v)) ∧
    (∀ off v, denied (.hostRegisterWrite ⟨fn, sealed⟩ off v)) ∧
    (∀ off bs, fn ≠ 0 → off + bs.length ≤ 2 ^ 34 → denied (.bar2Write fn off bs sealed)) ∧
    (∀ off len, fn ≠ 0 → off + len ≤ 2 ^ 34 → denied (.bar2Read fn off len sealed))) ∧
  (∀ sealed, f.accepts sealed = true →
    (∀ off bs, off < 4096 →
      let i : Instr := .sendApertureWrite ⟨fn, sealed⟩ off bs
      (s.refusal fn off bs = none → f.sending.length < 64 → Runs i s fun t =>
        (t.hostFn fn).sending = f.sending ++ [s.hostMsg fn bs] ∧ t.net = s.net) ∧
      (s.refusal fn off bs = none → 64 ≤ f.sending.length → Runs i s fun t =>
        (t.hostFn fn).sending = f.sending ∧ (t.hostFn fn).fstat.getLsbD 1 = true) ∧
      (∀ why, s.refusal fn off bs = some why → Runs i s fun t =>
        (t.hostFn fn).sending = f.sending ∧ (t.hostFn fn).fstat.getLsbD 0 = true ∧ bits (t.hostFn fn).fstat.toNat 8 4 = why)) ∧
    (∀ v, Runs (.fstatClear ⟨fn, sealed⟩ v) s fun t => (t.hostFn fn).fstat = f.fstat &&& ~~~(v &&& 0xF#64)) ∧
    (∀ v, Runs (.hqheadWrite ⟨fn, sealed⟩ v) s fun t => (t.hostFn fn).hqhead = v) ∧
    (∀ off v, (f.hqctl.getLsbD 0 = false → v.toNat % 4096 = 0 → off = 0x20 → Runs (.hostRegisterWrite ⟨fn, sealed⟩ off v) s fun t =>
        (t.hostFn fn).hqbase = v) ∧
      (f.hqctl.getLsbD 0 = true → off = 0x20 ∨ off = 0x28 → Runs (.hostRegisterWrite ⟨fn, sealed⟩ off v) s fun t =>
        (t.hostFn fn).hqbase = f.hqbase ∧ (t.hostFn fn).hqctl = f.hqctl ∧ (t.hostFn fn).fstat.getLsbD 3 = true) ∧
      (off = 0x28 → f.hqctl.getLsbD 0 = false →
        (v.toNat < 64 → 4 ≤ bits v.toNat 1 5 → bits v.toNat 1 5 ≤ 16 → Runs (.hostRegisterWrite ⟨fn, sealed⟩ off v) s fun t =>
          (t.hostFn fn).hqctl = v ∧ (t.hostFn fn).fstat = f.fstat ∧ (t.hostFn fn).hqbase = f.hqbase) ∧
        (64 ≤ v.toNat ∨ bits v.toNat 1 5 < 4 ∨ 16 < bits v.toNat 1 5 → Runs (.hostRegisterWrite ⟨fn, sealed⟩ off v) s fun t =>
          (t.hostFn fn).hqctl = f.hqctl ∧ (t.hostFn fn).fstat.getLsbD 3 = true)) ∧
      (v.toNat % 8 = 0 → off = 0x30 → Runs (.hostRegisterWrite ⟨fn, sealed⟩ off v) s fun t => (t.hostFn fn).hqtailp = v) ∧
      (v.toNat < 2 ^ 48 → v.toNat % 0x200000 = 0 → off = 0x40 → Runs (.hostRegisterWrite ⟨fn, sealed⟩ off v) s fun t =>
        (t.hostFn fn).apbase = v)) ∧
    (∀ tn off bs, fn ≠ 0 → f.bound = some tn → off + bs.length ≤ 2 ^ 34 →
      let r := s.hbmWrite tn (f.apbase.toNat + off) bs
      (r.2.1 = .ok → exec (.bar2Write fn off bs sealed) s = .next r.1) ∧
      (r.2.1 ≠ .ok → Runs (.bar2Write fn off bs sealed) s fun t => (t.hostFn fn).fstat.getLsbD 2 = true)) ∧
    (∀ tn off len, fn ≠ 0 → f.bound = some tn → off + len ≤ 2 ^ 34 →
      let r := s.hbmRead tn (f.apbase.toNat + off) len
      Runs (.bar2Read fn off len sealed) s fun t => (∀ a, t.readHome a = s.readHome a) ∧
        .readReply fn (if r.2.1 = .ok then r.2.2 else List.replicate len 0xFF#8) ∈ t.out)) ∧
  (∀ m rest, f.waiting = m :: rest → f.hqctl.getLsbD 0 = true → (f.hqtail + 1) % f.queueSize ≠ f.hqhead.toNat →
    Runs (.hostQueueDelivery fn) s fun t => (t.hostFn fn).waiting = rest ∧ (t.hostFn fn).hqtail = (f.hqtail + 1) % f.queueSize ∧
      .hostWrite fn (f.hqbase.toNat + 64 * f.hqtail) m.entry ∈ t.out ∧
      .hostWrite fn f.hqtailp.toNat (leBytes 8 ((f.hqtail + 1) % f.queueSize)) ∈ t.out) ∧
  (Runs (.functionLevelReset fn) s fun t => (fn ≠ 0 → (t.hostFn fn).waiting = [] ∧ (t.hostFn fn).sending = []) ∧ (t.hostFn fn).hqctl = 0#64 ∧
    (t.hostFn fn).bound = f.bound ∧ ∀ tn, fn ≠ 0 → f.bound = some tn → ∀ core e a, Tab.get? (t.core core).actors e = some a →
      a.tenant = tn → a.state ≠ .live) ∧
  (∀ q, fn ≠ 0 → Runs (.tdispRequest fn q) s fun t => (t.hostFn fn).tdi = f.tdi.after q) ∧
  (∀ e, Runs (.ideStreamSetup fn false e) s fun t => t.mod.ideLink = e ∧ t.hostFns = s.hostFns) ∧
  (∀ e, Runs (.ideStreamSetup fn true e) s fun t => (t.hostFn fn).ideSel = e ∧
    (t.hostFn fn).tdi = if e then f.tdi else f.tdi.after .error) ∧
  (∀ n, n ≤ 64 → s.boot.state ≠ .recovery → Runs (.vfEnable n) s fun t => ∀ k, 1 ≤ k → k ≤ 64 → t.fnExists k = decide (k ≤ n))

/-- R398: with a cycle, the messages that a function's gateway has accepted leave in order (the cycle is the choice of log
entry 27). -/
def Rules.AcceptedLeave : Prop := ∀ (s : State) (n fn : Nat) (rest : List Move), s.agenda = .tick n :: rest →
  s.mod.heldReset = false → ∃ t, step s = .next t ∧ (t.hostFn fn).sending = [] ∧
    ∀ m ∈ (s.hostFn fn).sending, s.isLocal m.dest = true → .msg m ∈ t.net

/-- The host gateway: requests of a function, and what it has accepted leaves. -/
def Obligations.HostGateway : Prop := Rules.HostGateEvents ∧ Rules.AcceptedLeave

/-! ### The steward service (chapters 25 and 26) -/

/-- R400, R401, R404, R407, R408, R411, R413 to R416: tenants, pages, roots and queries of the service. A tenant ends step by step: its
actors die; when their entries are FREE, its groups withdrawn, its translations gone and the other modules done, its keys and binding go
and the request is answered. A root starts on its core, which wakes for it, or the firmware of its module is asked (the order of these
requests is the choice of log entries 11 and 35, that of the modules log entry 65). -/
def Obligations.TenantRequests : Prop := ∀ (s : State) (n : Nat) (m : Msg),
  (∀ c, s.Serves n m c → c = 1 ∨ c = 2 → s.isPf m = false → Runs (if c = 1 then .tenantCreate n else .tenantDestroy n) s fun t =>
    s.Answers t m 4 0#64 0#64 0#64) ∧
  (s.Serves n m 1 → s.isPf m = true → 1 ≤ m.a1.toNat → m.a1.toNat ≤ 64 → m.a3.toNat < 2 → s.fnExists m.a1.toNat = true →
    (s.hostFn m.a1.toNat).bound = none →
    let id := lowestNot (0 :: s.fw.tenants.map (·.1))
    id < 4096 → Runs (.tenantCreate n) s fun t => s.Answers t m 0 (BitVec.ofNat 64 id) 0#64 0#64 ∧
      (t.hostFn m.a1.toNat).bound = some (BitVec.ofNat 12 id) ∧ (t.hostFn m.a1.toNat).confidential = m.a3.getLsbD 0 ∧
      Tab.get? t.hbmKeys id = some (Config.hbmKeyDraw s.freeCtr) ∧ Tab.get? t.fabricKeys id = some (Config.fabricKeyDraw s.freeCtr) ∧
      ∃ r, Tab.get? t.fw.tenants id = some r ∧ r.vf = m.a1.toNat ∧ r.quota = m.a2.toNat ∧ r.mapped = [] ∧ r.roots = []) ∧
  (∀ r, s.Serves n m 2 → s.isPf m = true → m.a1.toNat < 4096 →
    let tn : Tenant := m.a1.setWidth 12
    s.tenantRec tn = some r → r.vf ≠ 0 → (∀ x, s.fw.rootPending = some x → x.tenant ≠ tn) →
    (r.destroying = false → Runs (.tenantDestroy n) s fun t =>
      (∃ r', t.tenantRec tn = some r' ∧ r'.destroying = true ∧ r'.awaits = s.podModules) ∧
      ∀ core e a, Tab.get? (t.core core).actors e = some a → a.tenant = tn → a.state ≠ .live) ∧
    (∀ w, r.destroying = true → s.tenantLive tn = false → s.tenantLeft tn = false → s.groupOf tn Group.busy = none →
      s.groupOf tn (fun g => headerValid g.header) = none → r.wave = some w → Tab.get? s.waves w = none →
      (∀ x ∈ r.awaits, s.isLost x = true) →
      Runs (.tenantDestroy n) s fun t => s.Answers t m 0 0#64 0#64 0#64 ∧ t.tenantRec tn = none ∧ Tab.get? t.hbmKeys tn.toNat = none ∧
        Tab.get? t.fabricKeys tn.toNat = none ∧ (t.hostFn r.vf).bound = none)) ∧
  (∀ r, s.isUser m = true → s.tenantRec m.tenant = some r → pageRange m = true →
    (∀ u, s.Serves n m 3 → m.a3.toNat < 2 → r.mapped.length + m.a2.toNat ≤ r.quota →
      ((pagesOf m).any fun p => r.mapped.any fun q => decide (q.1 = p)) = false →
      s.mapPages m.tenant (m.a3.getLsbD 0) (pagesOf m) = some u → Runs (.map n) s fun t => s.Answers t m 0 0#64 0#64 0#64 ∧
        ∃ r', t.tenantRec m.tenant = some r' ∧ ∀ p ∈ pagesOf m, ∃ f, (p, f) ∈ r'.mapped) ∧
    (s.Serves n m 3 → m.a3.toNat < 2 → r.quota < r.mapped.length + m.a2.toNat → Runs (.map n) s fun t =>
      s.Answers t m 3 0#64 0#64 0#64 ∧ t.mem = s.mem) ∧
    (s.Serves n m 4 → m.a2.toNat ≤ r.mapped.length →
      ((pagesOf m).all fun p => r.mapped.any fun q => decide (q.1 = p)) = true → Runs (.unmap n) s fun t =>
        (∃ r', t.tenantRec m.tenant = some r' ∧ ∀ q ∈ r'.mapped, q.1 ∉ pagesOf m) ∧
        ∃ w, Tab.get? t.waves s.nextWave = some w ∧ w.service = some (m.answer 0 0#64 0#64 0#64) ∧
          w.kind = .shootdown m.tenant (if m.a2 = 1#64 then m.a1.toNat else 0) (m.a2 != 1#64))) ∧
  (∀ r, s.Serves n m 5 → s.isVf m = true → s.tenantRec m.tenant = some r →
    let ilen := bits m.a2.toNat 0 32
    let place := bits m.a2.toNat 32 26
    let core := epCore place
    bits m.a2.toNat 58 6 = 0 → m.a1.toNat % 64 = 0 → m.a1.toNat + ilen ≤ 2 ^ 48 → (s.liveRoots r).length < 64 →
    s.isLost (place / 65536) = false → s.fw.rootPending = none →
    (place / 65536 ≠ s.mod.num.toNat → Runs (.startRoot n) s fun t => t.fw.rootPending = some m ∧ ∀ a, t.readHome a = s.readHome a) ∧
    (place / 65536 = s.mod.num.toNat → (s.core core).asleep = true → exec (.startRoot n) s = .next (s.wakeCore core)) ∧
    (place / 65536 = s.mod.num.toNat → s.awake core = true →
      ((s.core core).lowestEntry = none → Runs (.startRoot n) s fun t => s.Answers t m 2 0#64 0#64 0#64) ∧
      ∀ e mon, (s.core core).lowestEntry = some e → Tab.lowestFree (s.core core).monitors 256 = some mon →
        let born := s.bear core e { tenant := m.tenant, supv := true } m.a1.toNat ilen
        let ends (st : Nat) : Prop := Runs (.startRoot n) s fun t => s.Answers t m st 0#64 0#64 0#64
        (∀ u, born = .ok u → Runs (.startRoot n) s fun t =>
          s.Answers t m 0 (u.actor core e).name (s.fw.nextRef.setWidth 64) 0#64 ∧
          ∀ r', u.tenantRec m.tenant = some r' → ∃ r'', t.tenantRec m.tenant = some r'' ∧ (u.actor core e).name ∈ r''.roots) ∧
        (born = .rejected → ends 1) ∧ (born = .noSpace → ends 3) ∧ (∀ u, born = .unreadable u → ends 6))) ∧
  (s.Serves n m 6 → Runs (.query n) s fun t => ∃ pages roots, s.Answers t m 0 (m.tenant.setWidth 64) (BitVec.ofNat 64 pages) (BitVec.ofNat 64 roots) ∧
    (∀ r, s.tenantRec m.tenant = some r → pages = r.mapped.length ∧ roots = (s.liveRoots r).length)) ∧
  (s.serviceMsg n = some m → m.proper = false → Runs (.serviceBadRequest n) s fun t =>
    s.Answers t m (if s.boot.state = .recovery then 4 else 5) 0#64 0#64 0#64)

/-- R400, R419 to R421, R426, R430, R431: multicast groups are installed at the switches and withdrawn, and answered when the last of those
acknowledges on its port, or when one does not within 100 us (a withdrawal that runs into the limit is answered PROT: log entry 36);
membership groups are created, read, deleted, and lose the members of a lost module. -/
def Obligations.GroupRequests : Prop := ∀ (s : State) (n e : Nat) (m : Msg),
  let told (t : State) (x : Mgmt) : Prop :=
    ∀ p ∈ s.switchPorts, ∃ hdr tag, .flit p hdr tag (.manage s.mod.num.toNat s.mod.num.toNat x) ∈ t.out
  (s.isUser m = true →
    let num := m.a1.toNat
    (∀ u keys, s.Serves n m 7 → num < 4096 → m.a2 ≠ 0#64 → m.a2.toNat ≤ 512 → listOk m = true →
      s.groupOf m.tenant (holdsGroup num) = none → s.wordsOf m.tenant m.a3.toNat m.a2.toNat = (u, some keys) → u.freeGroup = some e →
      keys.all (groupKeyOk m.tenant) = true → Runs (.mcastSet n) s fun t => (t.group e).keys = keys ∧ (t.group e).installing = true ∧
        headerTenant (t.group e).header = m.tenant ∧ headerGroup (t.group e).header = num ∧
        (t.group e).answerTo = some (m.answer 0 0#64 0#64 0#64) ∧ told t (.install e (t.group e).header keys)) ∧
    (s.Serves n m 8 → num < 4096 → s.groupOf m.tenant (holdsGroup num) = some e → (s.group e).busy = false → Runs (.mcastDel n) s fun t =>
      headerValid (t.group e).header = false ∧ (t.group e).withdrawing = true ∧ (t.group e).answerTo = some (m.answer 0 0#64 0#64 0#64) ∧
        told t (.withdraw e)) ∧
    (∀ u names, s.Serves n m 0x10 → num < 64 → m.a2 ≠ 0#64 → m.a2.toNat ≤ 1024 → listOk m = true → (s.membership num).valid = false →
      s.wordsOf m.tenant m.a3.toNat m.a2.toNat = (u, some names) → (∀ x ∈ names, nameBad x = false ∧ nameTenant x = m.tenant) →
      Runs (.groupCreate n) s fun t => s.Answers t m 0 (BitVec.ofNat 64 (((u.membership num).epoch + 1) % 2 ^ 32)) 0#64 0#64 ∧
        (t.membership num).valid = true ∧ (t.membership num).tenant = m.tenant ∧ (t.membership num).count = names.length ∧
        ∀ k < names.length, (t.membership num).word (17 + k) = names.getD k 0#64) ∧
    (s.Serves n m 0x11 → num < 64 → m.a2.toNat < 16 → s.ownGroup m = true → Runs (.groupRead n) s fun t =>
      s.Answers t m 0 ((s.membership num).word (m.a2.toNat + 1)) (BitVec.ofNat 64 (s.membership num).epoch)
        (BitVec.ofNat 64 (s.membership num).count) ∧ t.members = s.members) ∧
    (s.Serves n m 0x12 → num < 64 → s.ownGroup m = true → Runs (.groupDelete n) s fun t => s.Answers t m 0 0#64 0#64 0#64 ∧
      (t.membership num).valid = false ∧ (t.membership num).epoch = ((s.membership num).epoch + 1) % 2 ^ 32)) ∧
  (∀ (f : WireFlit) x y, f.body = .manage x y (.installAck e) → f.port < 24 → (s.port f.port).up = true →
    (hdrKind f.header = 12 → 7 ≤ hdrLw f.header → s.lostNow (hdrSrc f.header / 65536) = false → (s.port f.port).isSwitch = true →
      (s.group e).busy = true →
      (s.mod.timeNs < (s.group e).since + 100000 → (∀ p ∈ (s.group e).awaits, p = f.port) → Runs (.groupInstallAck f) s fun t =>
        (t.group e).busy = false ∧
        ((s.group e).withdrawing = false → (t.group e).header = (s.group e).header ||| 0x40000000#64 ∧ (t.group e).installed = true) ∧
        ∀ c rid, (s.group e).ackTo = some (c, rid) → .response c rid 0#12 .ok [] ∈ t.net) ∧
      (s.mod.timeNs < (s.group e).since + 100000 → (∃ p ∈ (s.group e).awaits, p ≠ f.port) → Runs (.groupInstallAck f) s fun t =>
        (t.group e).busy = true ∧ (t.group e).awaits = (s.group e).awaits.filter (· ≠ f.port) ∧ t.net = s.net) ∧
      ((s.group e).since + 100000 ≤ s.mod.timeNs → Runs (.groupInstallAck f) s fun t => t.groups = s.groups ∧ t.net = s.net)) ∧
    ((s.port f.port).isSwitch = false → Runs (.groupInstallAck f) s fun t => t.groups = s.groups ∧ t.net = s.net)) ∧
  ((s.group e).busy = true → (s.group e).since + 100000 ≤ s.mod.timeNs → Runs (.groupInstallTimeout e) s fun t =>
    (t.group e).busy = false ∧ ((s.group e).withdrawing = false → headerValid (t.group e).header = false ∧ told t (.withdraw e)) ∧
    ∀ c rid, (s.group e).ackTo = some (c, rid) → .response c rid 0#12 .prot [] ∈ t.net) ∧
  (s.fw.declared.contains e = true → Runs (.membershipLossUpdate e) s fun t => t.fw.declared.contains e = false ∧
    ∀ g r, Tab.get? s.members g = some r → Tab.get? t.members g = some (if r.valid then r.lose e else r))

/-! ### Reset, boot and attestation (chapters 01, 26 and 28) -/

/-- R33, R407, R408, R411, R441, R458: module reset empties the module but for HBM, and boots: the higher of the two slots that qualify
runs (slot A where they are equal: log entry 13), its image is in the TCM of every steward core (where: log entry 11), what boot measured is
recorded and stays, and tenant 0 has a key. The module's number, clock, flash and fuses stay (log entries 2 and 43). The input rail holds the module in reset and lets it go; the flash and the fused SVN change. -/
def Obligations.ResetAndBoot : Prop := ∀ (s : State),
  let fresh (t : State) : Prop := t.cores = [] ∧ t.net = [] ∧ t.hostFns = [] ∧ t.mod.cycle = 0 ∧ t.mod.num = s.mod.num ∧
    t.boot.state = s.boot.choose ∧ t.fabricKeys = [] ∧ (∀ i, 1 ≤ i → i ≤ 4 → Tab.get? t.boot.recorded i ≠ none) ∧
    (s.badWords = [] → ∀ a, hbmBase ≤ a → t.readHome a = s.readHome a)
  let cleared (t : State) : Prop := fresh t ∧
    (s.boot.choose = .recovery → t.hbmKeys = [] ∧ ∀ a < hbmBase, t.readHome a = 0#8) ∧
    (∀ f, (∃ b, s.boot.choose = .running b ∧ (if b then s.boot.slotB else s.boot.slotA) = some f) →
      (∃ k, t.hbmKeys = [(0, k)]) ∧
      let img := f.image.take (Config.tcmSize - imageBase)
      (∀ i < 32, t.readBytes (localHome (65536 + i) imageBase) img.length = img) ∧
      ∀ a < hbmBase, (∀ i < 32, a < localHome (65536 + i) imageBase ∨ localHome (65536 + i) imageBase + img.length ≤ a) → t.readHome a = 0#8)
  Runs .moduleReset s cleared ∧
  (∀ mv us, mv < 36000 → Runs (.inputUndervoltage mv us) s fun t => cleared t ∧ t.mod.heldReset = true) ∧
  (∀ mv us, 62000 < mv → Runs (.inputOvervoltage mv us) s fun t => cleared t ∧ t.mod.heldReset = true ∧ t.mod.disconnected = true) ∧
  (∀ mv us, 40000 < mv → 10000 ≤ us → s.mod.disconnected = false → s.mod.heldReset = true → Runs (.inputRecovery mv us) s fun t =>
    t.mod.heldReset = false ∧ t.cores = s.cores) ∧
  (∀ f, Runs (.firmwareUpdate f) s fun t => t.boot.fusedSvn = s.boot.fusedSvn ∧ t.boot.recorded = s.boot.recorded ∧
    (s.boot.state = .running false → t.boot.slotB = some f ∧ t.boot.slotA = s.boot.slotA) ∧
    (s.boot.state = .running true → t.boot.slotA = some f ∧ t.boot.slotB = s.boot.slotB)) ∧
  (∀ v, s.boot.state ≠ .recovery → Runs (.fusedSvnAdvance v) s fun t => t.boot.fusedSvn = max s.boot.fusedSvn v ∧
    t.boot.recorded = s.boot.recorded) ∧
  (∀ x y, s.boot.slotA = some x → s.boot.slotB = some y → s.boot.choose =
    if s.boot.qualifies x then .running (s.boot.qualifies y && decide (x.svn < y.svn))
    else if s.boot.qualifies y then .running true else .recovery)

/-- R408 to R410: the SPDM requests of a function in their order, and ERROR to one out of order; index 0xFF asks for all five blocks (log
entry 28). The steward of another module asks over the fabric, and is answered there (log entry 65); the MCTP endpoint answers as well. -/
def Obligations.Attestation : Prop := ∀ (s : State) (fn k : Nat) (nonce : List Byte), s.fnExists fn = true →
  let x := s.spdm fn
  let answers (i : Instr) (what : String) (bs : List Byte) (P : Spdm → Prop) : Prop :=
    Runs i s fun t => .spdm fn what bs ∈ t.out ∧ P (t.spdm fn)
  let chain := leBytes 32 (Config.sha3 s.certChain).toNat
  let same (y : Spdm) : Prop := y = x
  answers (.getVersion fn) "VERSION" [0x13#8] (fun y => y.version = true) ∧
  (x.version = true → answers (.getCapabilities fn) "CAPABILITIES" [] fun y => y.capabilities = true) ∧
  (x.version = false → answers (.getCapabilities fn) "ERROR" [] same) ∧
  (∀ algs, x.capabilities = true → (algs.filterMap SpdmAlg.code) ≠ [] →
    answers (.negotiateAlgorithms fn algs) "ALGORITHMS" (algs.filterMap SpdmAlg.code) fun y => y.negotiated = true) ∧
  (x.negotiated = true →
    answers (.getDigests fn) "DIGESTS" chain same ∧ answers (.getCertificate fn) "CERTIFICATE" s.certChain same ∧
    answers (.challenge fn nonce) "CHALLENGE_AUTH" (nonce ++ s.sign (nonce ++ chain)) same ∧
    answers (.getMeasurements fn 0xFF nonce) "MEASUREMENTS" (let b := ((List.range 5).flatMap fun i => s.measurement fn (i + 1)) ++ nonce
      b ++ s.sign b) same ∧
    (1 ≤ k → k ≤ 5 → answers (.getMeasurements fn k nonce) "MEASUREMENTS"
      (s.measurement fn k ++ nonce ++ s.sign (s.measurement fn k ++ nonce)) same) ∧
    (∃ bs, answers (.keyExchange fn nonce) "KEY_EXCHANGE_RSP" bs fun y => (x.nextSession, false) ∈ y.sessions)) ∧
  (x.negotiated = false → answers (.challenge fn nonce) "ERROR" [] same) ∧
  (x.sessions.contains (k, false) = true → answers (.finish fn k) "FINISH_RSP" (Config.sealMessage k []) fun y =>
    (k, true) ∈ y.sessions ∧ (k, false) ∉ y.sessions) ∧
  (∀ m < 1024, s.isLost m = false → exec (.getVersion (1024 + m)) s =
    .next ((s.setSpdm (1024 + m) { version := true }).tellModule m (.spdm "VERSION" [0x13#8]))) ∧
  exec (.getVersion 2048) s = .next ((s.setSpdm 2048 { version := true }).output (.mctp "VERSION" [0x13#8])) ∧
  (x.sessions.contains (k, true) = true → answers (.endSession fn k) "END_SESSION_ACK" (Config.sealMessage k []) fun y =>
    ∀ e ∈ y.sessions, e.1 ≠ k)

/-! ### Encoding (chapters 09, 10 and 24) -/

/-- Decoding the words of a well-formed instruction gives it back, whatever its operands. -/
def Obligations.DecodeEncode : Prop := ∀ (i : Instr) (ws : List Half), i.wf = true → encode i = some ws → decode ws = .instr i ws.length

/-- What the decoder answers is well formed, and its own words are no more than those it was read from. -/
def Obligations.DecodedWellFormed : Prop := ∀ (ws : List Half) (i : Instr) (n : Nat), decode ws = .instr i n → i.wf = true ∧ n ≤ ws.length ∧
  ∃ es, encode i = some es ∧ es.length ≤ n

/-- R210, R213: the groups of the example of R456, word by word. -/
def Obligations.KnownWords : Prop :=
  decode [0xF000#16, 0x5534#16] = .instr (.li 9#5 20#64) 2 ∧
  decode [0xFB61#16, 0x0509#16] = .instr (.cwr 0x28#8 9#5) 2 ∧
  decode [0xF928#16, 0x0041#16] = .instr (.vrsum 2#4 1#4) 2 ∧
  decode [0xFB60#16, 0x0540#16] = .instr (.crd 10#5 0x20#8) 2 ∧
  decode [0xFB60#16, 0x0173#16] = .instr (.crdFlags 11#5) 2

/-! ### Steps of the module -/

/-- R207, R213, R215, R229: where the words at the pc of a slot's handler decode to an instruction, the step is that instruction of that
handler, with `npc` after its words; where the first of them cannot be fetched it is the fault, or waits for the operation that writes it.
An event that the agenda names is exec of it. -/
def Obligations.StepRunsDecoded : Prop := ∀ (s : State) (rest : List Move),
  (∀ core slot rec ws i n t, s.agenda = .issue core slot :: rest → noSlot core slot = false → s.mod.heldReset = false →
    (s.core core).asleep = false → (s.core core).occupant slot = some rec →
    let u : State := { s with agenda := rest, cur := { core := core, rec_ := rec } }
    u.Fetches u.hd.pc [] ws t → ws ≠ [] → ws.length ≤ 5 → decode ws = .instr i n →
    step s = exec i (t.modHd fun h => { h with npc := h.pc + 2 * n })) ∧
  (∀ core slot rec, s.agenda = .issue core slot :: rest → noSlot core slot = false → s.mod.heldReset = false →
    (s.core core).asleep = false → (s.core core).occupant slot = some rec →
    let u : State := { s with agenda := rest, cur := { core := core, rec_ := rec } }
    (∀ c, u.fetchWord u.hd.pc = .fault c → step s = .next (u.takeFault c)) ∧ (u.fetchWord u.hd.pc = .wait → step s = .next u.stall)) ∧
  (∀ i, s.agenda = .event i :: rest → s.admitsEvent i = true → step s = exec i { s with agenda := rest }) ∧
  (∀ n, s.agenda = .inner .messageArrival n 0 :: rest → s.mod.heldReset = false → step s = exec (.messageArrival n) { s with agenda := rest }) ∧
  (∀ n, s.agenda = .tick n :: rest → ∃ t, step s = .next t ∧ t.mod.cycle = (s.mod.cycle + n) % 2 ^ 64)

/-- The instruction placed by `withFetchWord` is the one that the next step runs. -/
def Obligations.PlacedWordRuns : Prop := ∀ (nbits w : Nat) (i : Instr), decodeTableWord nbits w = some i →
  ∃ t, step (State.reset.withFetchWord nbits w) = exec i t ∧ t.hd.pc = placeBase ∧ t.cur.core = 65536

/-- Every operation of the table answers a next state, and a step stops only where the agenda names a slot that does not exist. -/
def Obligations.NothingStops : Prop := (∀ (i : Instr) (s : State), ∃ t, exec i s = .next t) ∧
  ∀ s : State, (∀ core slot, s.agenda.head? = some (.issue core slot) → noSlot core slot = false) → ∃ t, step s = .next t

/-- The invariant: every step keeps the canonical form of the memory. -/
def Obligations.StepKeepsInv : Prop := ∀ s t : State, s.Inv → step s = .next t → t.Inv

/-- R33, and the values of log entries 4, 9 and 13: the module right after reset. -/
def Obligations.ResetState : Prop := State.reset.Inv ∧ State.reset.AgendaOk ∧ State.reset.mod.cycle = 0 ∧
  (∀ core e, (State.reset.actor core e).state = .free ∧ (State.reset.actor core e).inc = 0#16 ∧ (State.reset.actor core e).regions = []) ∧
  (∀ core slot, (State.reset.core core).occupant slot = none) ∧ (∀ a, State.reset.readHome a = 0#8) ∧
  (∀ d, (State.reset.die d).point = 2) ∧ State.reset.boot.state = .recovery
end

