-- ==== Sys2Proof/Laws/Tab.lean ====
section
/-! SUPPORT. Laws of sparse tables: reading after writing, and the rising order of the keys. -/

namespace Sys2Proof.Machine

theorem Tab.get?_put_self {α : Type} (t : Tab α) (k : Nat) (v : α) : Tab.get? (Tab.put t k v) k = some v := by
  induction t with
  | nil => simp [Tab.put, Tab.get?]
  | cons e t ih =>
    obtain ⟨j, w⟩ := e
    simp only [Tab.put]
    split
    · simp [Tab.get?]
    · split
      · simp [Tab.get?]
      · simp [Tab.get?, *]

theorem Tab.get?_put_ne {α : Type} (t : Tab α) (k j : Nat) (v : α) (h : j ≠ k) : Tab.get? (Tab.put t k v) j = Tab.get? t j := by
  induction t with
  | nil => simp [Tab.put, Tab.get?, h.symm]
  | cons e t ih =>
    obtain ⟨i, w⟩ := e
    simp only [Tab.put]
    split
    · next e => subst e; simp [Tab.get?, h.symm]
    · split
      · simp [Tab.get?, h.symm]
      · simp only [Tab.get?]; split <;> simp [*]

theorem Tab.get?_put {α : Type} (t : Tab α) (k j : Nat) (v : α) :
    Tab.get? (Tab.put t k v) j = if j = k then some v else Tab.get? t j := by
  split
  · next h => subst h; exact Tab.get?_put_self t j v
  · next h => exact Tab.get?_put_ne t k j v h

theorem Tab.get?_del_self {α : Type} (t : Tab α) (k : Nat) : Tab.get? (Tab.del t k) k = none := by
  induction t with
  | nil => rfl
  | cons e t ih =>
    obtain ⟨j, w⟩ := e
    simp only [Tab.del]
    split
    · exact ih
    · simp [Tab.get?, *]

theorem Tab.get?_del_ne {α : Type} (t : Tab α) (k j : Nat) (h : j ≠ k) : Tab.get? (Tab.del t k) j = Tab.get? t j := by
  induction t with
  | nil => rfl
  | cons e t ih =>
    obtain ⟨i, w⟩ := e
    simp only [Tab.del]
    split
    · next e => subst e; simp [Tab.get?, h.symm, ih]
    · simp only [Tab.get?]; split <;> simp [*]

/-- A key of a table with an entry put into it. -/
theorem Tab.mem_put {α : Type} {t : Tab α} {k : Nat} {v : α} {e : Nat × α} (h : e ∈ Tab.put t k v) : e = (k, v) ∨ e ∈ t := by
  induction t with
  | nil => simpa [Tab.put] using h
  | cons a t ih =>
    obtain ⟨j, w⟩ := a
    simp only [Tab.put] at h
    split at h
    · simp only [List.mem_cons] at h ⊢; exact h.imp id .inr
    · split at h
      · simpa using h
      · simp only [List.mem_cons] at h ⊢
        exact h.elim (fun h => .inr (.inl h)) fun h => (ih h).imp id .inr

theorem Tab.mem_del {α : Type} {t : Tab α} {k : Nat} {e : Nat × α} (h : e ∈ Tab.del t k) : e ∈ t := by
  induction t with
  | nil => simp [Tab.del] at h
  | cons a t ih =>
    obtain ⟨j, w⟩ := a
    simp only [Tab.del] at h
    split at h
    · exact List.mem_cons_of_mem _ (ih h)
    · simp only [List.mem_cons] at h ⊢; exact h.imp id ih

/-- Putting an entry keeps the keys rising. -/
theorem Tab.sorted_put {α : Type} {t : Tab α} (h : Tab.Sorted t) (k : Nat) (v : α) : Tab.Sorted (Tab.put t k v) := by
  induction t with
  | nil => simp [Tab.put]
  | cons a t ih =>
    obtain ⟨j, w⟩ := a
    rw [Tab.Sorted, List.pairwise_cons] at h
    simp only [Tab.put]
    split
    · next e => subst e; exact List.pairwise_cons.mpr ⟨h.1, h.2⟩
    · split
      · next hk =>
        refine List.pairwise_cons.mpr ⟨fun e he => ?_, List.pairwise_cons.mpr h⟩
        rcases List.mem_cons.mp he with rfl | he
        · exact hk
        · exact Nat.lt_trans hk (h.1 e he)
      · next hj hk =>
        refine List.pairwise_cons.mpr ⟨fun e he => ?_, ih h.2⟩
        rcases Tab.mem_put he with rfl | he
        · show j < k; omega
        · exact h.1 e he

/-- Removing an entry keeps the keys rising. -/
theorem Tab.sorted_del {α : Type} {t : Tab α} (h : Tab.Sorted t) (k : Nat) : Tab.Sorted (Tab.del t k) := by
  induction t with
  | nil => simp [Tab.del]
  | cons a t ih =>
    obtain ⟨j, w⟩ := a
    rw [Tab.Sorted, List.pairwise_cons] at h
    simp only [Tab.del]
    split
    · exact ih h.2
    · exact List.pairwise_cons.mpr ⟨fun e he => h.1 e (Tab.mem_del he), ih h.2⟩

/-- Keeping a part of the entries keeps the keys rising. -/
theorem Tab.sorted_filter {α : Type} {t : Tab α} (h : Tab.Sorted t) (p : Nat × α → Bool) : Tab.Sorted (t.filter p) :=
  h.filter p

end Sys2Proof.Machine
end

