-- ==== Sys2Proof/Laws/Mem.lean ====
section
/-! SUPPORT. Laws of the byte memory: a read after a write, every other byte unchanged, and the canonical form kept by each
memory operation. -/

namespace Sys2Proof.Machine

open Sys2Proof

theorem Memory.read_write_self (m : Tab Byte) (a : Nat) (b : Byte) : Memory.read (Memory.write m a b) a = b := by
  unfold Memory.read Memory.write
  split
  · next h => simp [Tab.get?_del_self, h]
  · simp [Tab.get?_put_self]

theorem Memory.read_write_ne (m : Tab Byte) (a c : Nat) (b : Byte) (h : c ≠ a) :
    Memory.read (Memory.write m a b) c = Memory.read m c := by
  unfold Memory.read Memory.write
  split
  · rw [Tab.get?_del_ne _ _ _ h]
  · rw [Tab.get?_put_ne _ _ _ _ h]

theorem Memory.wf_nil : Memory.wf [] := ⟨List.Pairwise.nil, fun _ h => absurd h (by simp)⟩

/-- Writing a byte keeps the canonical form. -/
theorem Memory.wf_write {m : Tab Byte} (h : Memory.wf m) (a : Nat) (b : Byte) : Memory.wf (Memory.write m a b) := by
  unfold Memory.write
  split
  · exact ⟨Tab.sorted_del h.1 a, fun e he => h.2 e (Tab.mem_del he)⟩
  · next hb =>
    refine ⟨Tab.sorted_put h.1 a b, fun e he => ?_⟩
    rcases Tab.mem_put he with rfl | he
    · exact hb
    · exact h.2 e he

/-- Clearing bytes keeps the canonical form. -/
theorem Memory.wf_clear {m : Tab Byte} (h : Memory.wf m) (a n : Nat) : Memory.wf (Memory.clear m a n) := by
  induction n with
  | zero => exact h
  | succ n ih => exact Memory.wf_write ih _ _

/-- Dropping entries keeps the canonical form. -/
theorem Memory.wf_filter {m : Tab Byte} (h : Memory.wf m) (p : Nat × Byte → Bool) : Memory.wf (m.filter p) :=
  ⟨Tab.sorted_filter h.1 p, fun e he => h.2 e (List.mem_filter.mp he).1⟩

theorem State.openLine_wf {s : State} (h : Memory.wf s.mem) (a : Nat) : Memory.wf (s.openLine a).mem := by
  unfold State.openLine
  split
  · exact h
  · dsimp only; exact Memory.wf_clear h (a / 64 * 64) 64

theorem State.writeHome_wf {s : State} (h : Memory.wf s.mem) (a : Nat) (b : Byte) : Memory.wf (s.writeHome a b).mem :=
  Memory.wf_write (State.openLine_wf h a) a b

theorem State.writeBytes_wf (bs : List Byte) : ∀ {s : State} (_ : Memory.wf s.mem) (a : Nat), Memory.wf (s.writeBytes a bs).mem := by
  induction bs with
  | nil => exact fun h _ => h
  | cons b t ih => exact fun h a => ih (State.writeHome_wf h a b) (a + 1)

theorem State.physWrite_wf {s : State} (h : Memory.wf s.mem) (k : BitVec 512) (a : Nat) (bs : List Byte) :
    Memory.wf (s.physWrite k a bs).mem := by
  unfold State.physWrite
  generalize s.physBytes k (a / 64 * 64) 64 = old
  dsimp only
  apply State.writeBytes_wf
  apply State.writeBytes_wf
  exact h

theorem State.wipe_wf {s : State} (h : Memory.wf s.mem) (a n : Nat) : Memory.wf (s.wipe a n).mem := Memory.wf_filter h _

theorem State.countDie_mem (s : State) (d c : Nat) : (s.countDie d c).mem = s.mem := rfl

/-- A translation touches no memory. -/
theorem State.hbmLine_mem (s : State) (t : Tenant) (va : Nat) (w : Bool) : (s.hbmLine t va w).1.mem = s.mem := by
  unfold State.hbmLine
  split
  · rfl
  · split
    · split <;> rfl
    · dsimp only
      split <;> split <;> rfl

theorem State.hbmWriteLines_wf (l : List (Nat × Nat)) :
    ∀ {s : State} (_ : Memory.wf s.mem) (t : Tenant) (bs : List Byte) (d : Nat), Memory.wf (s.hbmWriteLines t l bs d).1.mem := by
  induction l with
  | nil => exact fun h _ _ _ => h
  | cons p l ih =>
    intro s h t bs d
    obtain ⟨a, n⟩ := p
    have hl := State.hbmLine_mem s t a true
    unfold State.hbmWriteLines
    generalize hs : s.hbmLine t a true = r at hl
    obtain ⟨s1, r⟩ := r
    cases r with
    | error e => exact (show s1.mem = s.mem from hl) ▸ h
    | ok x => exact ih (State.physWrite_wf ((show s1.mem = s.mem from hl) ▸ h) _ _ _) _ _ _

/-- Writing through a memory gateway keeps the canonical form. -/
theorem State.hbmWrite_wf {s : State} (h : Memory.wf s.mem) (t : Tenant) (va : Nat) (bs : List Byte) :
    Memory.wf (s.hbmWrite t va bs).1.mem :=
  State.hbmWriteLines_wf _ h _ _ _

/-- Reading through a memory gateway changes no byte. -/
theorem State.hbmReadLines_mem (l : List (Nat × Nat)) :
    ∀ (s : State) (t : Tenant) (acc : List Byte), (s.hbmReadLines t l acc).1.mem = s.mem := by
  induction l with
  | nil => exact fun _ _ _ => rfl
  | cons p l ih =>
    intro s t acc
    obtain ⟨a, n⟩ := p
    have hl := State.hbmLine_mem s t a false
    unfold State.hbmReadLines
    generalize hs : s.hbmLine t a false = r at hl
    obtain ⟨s1, r⟩ := r
    cases r with
    | error e => exact hl
    | ok x =>
      dsimp only
      split
      · exact hl
      · exact (ih _ _ _).trans hl

theorem State.hbmRead_mem (s : State) (t : Tenant) (va n : Nat) : (s.hbmRead t va n).1.mem = s.mem :=
  State.hbmReadLines_mem _ _ _ _

/-! ### Views -/

/-- Reading the ids of records changes no byte. -/
theorem State.probeArea_mem (a : Actor) (l : List Nat) : ∀ s : State, (s.probeArea a l).mem = s.mem := by
  induction l with
  | nil => exact fun _ => rfl
  | cons o l ih => exact fun s => (ih _).trans (State.hbmRead_mem s _ _ _)

/-- An eviction touches no byte of memory. -/
theorem State.evict_mem (s : State) (c i : Nat) (x : Cell) : (s.evict c i x).mem = s.mem := State.probeArea_mem _ _ _

/-- Taking a cell touches no byte of memory. -/
theorem State.takeCell_mem {s t : State} {c : Nat} (h : s.takeCell c = .ok t) : t.mem = s.mem := by
  unfold State.takeCell at h
  dsimp only at h
  split at h
  · cases h; rfl
  · split at h
    · cases h
    · split at h
      · cases h
      · cases h; exact State.evict_mem _ _ _ _

theorem State.storeLine_wf {s t : State} (hs : Memory.wf s.mem) {v : View} {n : Nat} {r : Region} {a : Nat} {bs : List Byte}
    (h : s.storeLine v n r a bs = .ok t) : Memory.wf t.mem := by
  unfold State.storeLine at h
  dsimp only at h
  split at h
  · split at h
    · cases h; exact hs
    · split at h
      · cases h; exact hs
      · generalize hc : s.takeCell v.core = g at h
        cases g with
        | ok s1 => cases h; exact (State.takeCell_mem hc) ▸ hs
        | noCell => cases h
        | full => cases h
  · cases h; exact State.writeBytes_wf _ hs _

/-- Writing through a view keeps the canonical form. -/
theorem State.storeLines_wf (l : List (Nat × Nat)) : ∀ {s t : State} (_ : Memory.wf s.mem) {v : View} {n : Nat} {r : Region}
    {bs : List Byte}, s.storeLines v n r l bs = .ok t → Memory.wf t.mem := by
  induction l with
  | nil => intro s t hs v n r bs h; cases h; exact hs
  | cons p l ih =>
    intro s t hs v n r bs h
    obtain ⟨a, k⟩ := p
    unfold State.storeLines at h
    generalize hg : s.storeLine v n r a (bs.take k) = g at h
    cases g with
    | ok s1 => exact ih (State.storeLine_wf hs hg) h
    | noCell => cases h
    | full => cases h

theorem State.storeView_wf {s t : State} (hs : Memory.wf s.mem) {v : View} {n : Nat} {r : Region} {a : Nat} {bs : List Byte}
    (h : s.storeView v n r a bs = .ok t) : Memory.wf t.mem := State.storeLines_wf _ hs h

theorem State.poke_wf {s t : State} (hs : Memory.wf s.mem) {v : View} {a : Nat} {bs : List Byte} (h : s.poke v a bs = .ok t) :
    Memory.wf t.mem := by
  unfold State.poke at h
  split at h
  · exact State.storeView_wf hs h
  · cases h; exact hs

theorem State.pokeBase_wf {s : State} (hs : Memory.wf s.mem) (c e a : Nat) (bs : List Byte) : Memory.wf (s.pokeBase c e a bs).mem := by
  unfold State.pokeBase
  split
  · exact State.writeBytes_wf _ hs _
  · exact hs

theorem State.foldl_wf {α : Type} (f : State → α → State) (hf : ∀ s a, Memory.wf s.mem → Memory.wf (f s a).mem) (l : List α) :
    ∀ {s : State}, Memory.wf s.mem → Memory.wf (l.foldl f s).mem := by
  induction l with
  | nil => exact fun h => h
  | cons a l ih => exact fun h => ih (hf _ a h)

/-- Boot loads the image and keeps the canonical form (R407). -/
theorem State.booted_wf {s : State} (hs : Memory.wf s.mem) : Memory.wf s.booted.mem := by
  unfold State.booted
  dsimp only
  split
  · exact hs
  · exact State.foldl_wf _ (fun _ _ h => State.writeBytes_wf _ h _) _ hs

/-- Reset keeps the canonical form of what it leaves of memory. -/
theorem State.afterReset_wf {s : State} (hs : Memory.wf s.mem) : Memory.wf s.afterReset.mem :=
  State.booted_wf (Memory.wf_filter hs _)

end Sys2Proof.Machine
end

