-- ==== Sys2Proof/Laws/State.lean ====
section
/-! SUPPORT. What each named update of the state does to each of its fields. -/

namespace Sys2Proof.Machine

/-! ### setCore -/

@[simp] theorem State.setCore_mod (s : State) (c : Nat) (k : Core) : (s.setCore c k).mod = s.mod := rfl
@[simp] theorem State.setCore_cores (s : State) (c : Nat) (k : Core) : (s.setCore c k).cores = Tab.put s.cores c k := rfl
@[simp] theorem State.setCore_clusters (s : State) (c : Nat) (k : Core) : (s.setCore c k).clusters = s.clusters := rfl
@[simp] theorem State.setCore_dies (s : State) (c : Nat) (k : Core) : (s.setCore c k).dies = s.dies := rfl
@[simp] theorem State.setCore_mgates (s : State) (c : Nat) (k : Core) : (s.setCore c k).mgates = s.mgates := rfl
@[simp] theorem State.setCore_hbmKeys (s : State) (c : Nat) (k : Core) : (s.setCore c k).hbmKeys = s.hbmKeys := rfl
@[simp] theorem State.setCore_fabricKeys (s : State) (c : Nat) (k : Core) : (s.setCore c k).fabricKeys = s.fabricKeys := rfl
@[simp] theorem State.setCore_ports (s : State) (c : Nat) (k : Core) : (s.setCore c k).ports = s.ports := rfl
@[simp] theorem State.setCore_masks (s : State) (c : Nat) (k : Core) : (s.setCore c k).masks = s.masks := rfl
@[simp] theorem State.setCore_holds (s : State) (c : Nat) (k : Core) : (s.setCore c k).holds = s.holds := rfl
@[simp] theorem State.setCore_combine (s : State) (c : Nat) (k : Core) : (s.setCore c k).combine = s.combine := rfl
@[simp] theorem State.setCore_lost (s : State) (c : Nat) (k : Core) : (s.setCore c k).lost = s.lost := rfl
@[simp] theorem State.setCore_heard (s : State) (c : Nat) (k : Core) : (s.setCore c k).heard = s.heard := rfl
@[simp] theorem State.setCore_groups (s : State) (c : Nat) (k : Core) : (s.setCore c k).groups = s.groups := rfl
@[simp] theorem State.setCore_members (s : State) (c : Nat) (k : Core) : (s.setCore c k).members = s.members := rfl
@[simp] theorem State.setCore_hostFns (s : State) (c : Nat) (k : Core) : (s.setCore c k).hostFns = s.hostFns := rfl
@[simp] theorem State.setCore_fw (s : State) (c : Nat) (k : Core) : (s.setCore c k).fw = s.fw := rfl
@[simp] theorem State.setCore_boot (s : State) (c : Nat) (k : Core) : (s.setCore c k).boot = s.boot := rfl
@[simp] theorem State.setCore_mem (s : State) (c : Nat) (k : Core) : (s.setCore c k).mem = s.mem := rfl
@[simp] theorem State.setCore_lineValid (s : State) (c : Nat) (k : Core) : (s.setCore c k).lineValid = s.lineValid := rfl
@[simp] theorem State.setCore_badWords (s : State) (c : Nat) (k : Core) : (s.setCore c k).badWords = s.badWords := rfl
@[simp] theorem State.setCore_lineKeys (s : State) (c : Nat) (k : Core) : (s.setCore c k).lineKeys = s.lineKeys := rfl
@[simp] theorem State.setCore_frameKeys (s : State) (c : Nat) (k : Core) : (s.setCore c k).frameKeys = s.frameKeys := rfl
@[simp] theorem State.setCore_net (s : State) (c : Nat) (k : Core) : (s.setCore c k).net = s.net := rfl
@[simp] theorem State.setCore_waves (s : State) (c : Nat) (k : Core) : (s.setCore c k).waves = s.waves := rfl
@[simp] theorem State.setCore_nextWave (s : State) (c : Nat) (k : Core) : (s.setCore c k).nextWave = s.nextWave := rfl
@[simp] theorem State.setCore_out (s : State) (c : Nat) (k : Core) : (s.setCore c k).out = s.out := rfl
@[simp] theorem State.setCore_agenda (s : State) (c : Nat) (k : Core) : (s.setCore c k).agenda = s.agenda := rfl
@[simp] theorem State.setCore_cur (s : State) (c : Nat) (k : Core) : (s.setCore c k).cur = s.cur := rfl
@[simp] theorem State.setCore_freeCtr (s : State) (c : Nat) (k : Core) : (s.setCore c k).freeCtr = s.freeCtr := rfl
@[simp] theorem State.setCore_nextSerial (s : State) (c : Nat) (k : Core) : (s.setCore c k).nextSerial = s.nextSerial := rfl

/-! ### modDie -/

@[simp] theorem State.modDie_mod (s : State) (d : Nat) (f : Die → Die) : (s.modDie d f).mod = s.mod := rfl
@[simp] theorem State.modDie_cores (s : State) (d : Nat) (f : Die → Die) : (s.modDie d f).cores = s.cores := rfl
@[simp] theorem State.modDie_clusters (s : State) (d : Nat) (f : Die → Die) : (s.modDie d f).clusters = s.clusters := rfl
@[simp] theorem State.modDie_dies (s : State) (d : Nat) (f : Die → Die) : (s.modDie d f).dies = Tab.put s.dies d (f (s.die d)) := rfl
@[simp] theorem State.modDie_mgates (s : State) (d : Nat) (f : Die → Die) : (s.modDie d f).mgates = s.mgates := rfl
@[simp] theorem State.modDie_hbmKeys (s : State) (d : Nat) (f : Die → Die) : (s.modDie d f).hbmKeys = s.hbmKeys := rfl
@[simp] theorem State.modDie_fabricKeys (s : State) (d : Nat) (f : Die → Die) : (s.modDie d f).fabricKeys = s.fabricKeys := rfl
@[simp] theorem State.modDie_ports (s : State) (d : Nat) (f : Die → Die) : (s.modDie d f).ports = s.ports := rfl
@[simp] theorem State.modDie_masks (s : State) (d : Nat) (f : Die → Die) : (s.modDie d f).masks = s.masks := rfl
@[simp] theorem State.modDie_holds (s : State) (d : Nat) (f : Die → Die) : (s.modDie d f).holds = s.holds := rfl
@[simp] theorem State.modDie_combine (s : State) (d : Nat) (f : Die → Die) : (s.modDie d f).combine = s.combine := rfl
@[simp] theorem State.modDie_lost (s : State) (d : Nat) (f : Die → Die) : (s.modDie d f).lost = s.lost := rfl
@[simp] theorem State.modDie_heard (s : State) (d : Nat) (f : Die → Die) : (s.modDie d f).heard = s.heard := rfl
@[simp] theorem State.modDie_groups (s : State) (d : Nat) (f : Die → Die) : (s.modDie d f).groups = s.groups := rfl
@[simp] theorem State.modDie_members (s : State) (d : Nat) (f : Die → Die) : (s.modDie d f).members = s.members := rfl
@[simp] theorem State.modDie_hostFns (s : State) (d : Nat) (f : Die → Die) : (s.modDie d f).hostFns = s.hostFns := rfl
@[simp] theorem State.modDie_fw (s : State) (d : Nat) (f : Die → Die) : (s.modDie d f).fw = s.fw := rfl
@[simp] theorem State.modDie_boot (s : State) (d : Nat) (f : Die → Die) : (s.modDie d f).boot = s.boot := rfl
@[simp] theorem State.modDie_mem (s : State) (d : Nat) (f : Die → Die) : (s.modDie d f).mem = s.mem := rfl
@[simp] theorem State.modDie_lineValid (s : State) (d : Nat) (f : Die → Die) : (s.modDie d f).lineValid = s.lineValid := rfl
@[simp] theorem State.modDie_badWords (s : State) (d : Nat) (f : Die → Die) : (s.modDie d f).badWords = s.badWords := rfl
@[simp] theorem State.modDie_lineKeys (s : State) (d : Nat) (f : Die → Die) : (s.modDie d f).lineKeys = s.lineKeys := rfl
@[simp] theorem State.modDie_frameKeys (s : State) (d : Nat) (f : Die → Die) : (s.modDie d f).frameKeys = s.frameKeys := rfl
@[simp] theorem State.modDie_net (s : State) (d : Nat) (f : Die → Die) : (s.modDie d f).net = s.net := rfl
@[simp] theorem State.modDie_waves (s : State) (d : Nat) (f : Die → Die) : (s.modDie d f).waves = s.waves := rfl
@[simp] theorem State.modDie_nextWave (s : State) (d : Nat) (f : Die → Die) : (s.modDie d f).nextWave = s.nextWave := rfl
@[simp] theorem State.modDie_out (s : State) (d : Nat) (f : Die → Die) : (s.modDie d f).out = s.out := rfl
@[simp] theorem State.modDie_agenda (s : State) (d : Nat) (f : Die → Die) : (s.modDie d f).agenda = s.agenda := rfl
@[simp] theorem State.modDie_cur (s : State) (d : Nat) (f : Die → Die) : (s.modDie d f).cur = s.cur := rfl
@[simp] theorem State.modDie_freeCtr (s : State) (d : Nat) (f : Die → Die) : (s.modDie d f).freeCtr = s.freeCtr := rfl
@[simp] theorem State.modDie_nextSerial (s : State) (d : Nat) (f : Die → Die) : (s.modDie d f).nextSerial = s.nextSerial := rfl

/-! ### modMgate -/

@[simp] theorem State.modMgate_mod (s : State) (g : Nat) (f : MemGate → MemGate) : (s.modMgate g f).mod = s.mod := rfl
@[simp] theorem State.modMgate_cores (s : State) (g : Nat) (f : MemGate → MemGate) : (s.modMgate g f).cores = s.cores := rfl
@[simp] theorem State.modMgate_clusters (s : State) (g : Nat) (f : MemGate → MemGate) : (s.modMgate g f).clusters = s.clusters := rfl
@[simp] theorem State.modMgate_dies (s : State) (g : Nat) (f : MemGate → MemGate) : (s.modMgate g f).dies = s.dies := rfl
@[simp] theorem State.modMgate_mgates (s : State) (g : Nat) (f : MemGate → MemGate) : (s.modMgate g f).mgates = Tab.put s.mgates g (f (s.mgate g)) := rfl
@[simp] theorem State.modMgate_hbmKeys (s : State) (g : Nat) (f : MemGate → MemGate) : (s.modMgate g f).hbmKeys = s.hbmKeys := rfl
@[simp] theorem State.modMgate_fabricKeys (s : State) (g : Nat) (f : MemGate → MemGate) : (s.modMgate g f).fabricKeys = s.fabricKeys := rfl
@[simp] theorem State.modMgate_ports (s : State) (g : Nat) (f : MemGate → MemGate) : (s.modMgate g f).ports = s.ports := rfl
@[simp] theorem State.modMgate_masks (s : State) (g : Nat) (f : MemGate → MemGate) : (s.modMgate g f).masks = s.masks := rfl
@[simp] theorem State.modMgate_holds (s : State) (g : Nat) (f : MemGate → MemGate) : (s.modMgate g f).holds = s.holds := rfl
@[simp] theorem State.modMgate_combine (s : State) (g : Nat) (f : MemGate → MemGate) : (s.modMgate g f).combine = s.combine := rfl
@[simp] theorem State.modMgate_lost (s : State) (g : Nat) (f : MemGate → MemGate) : (s.modMgate g f).lost = s.lost := rfl
@[simp] theorem State.modMgate_heard (s : State) (g : Nat) (f : MemGate → MemGate) : (s.modMgate g f).heard = s.heard := rfl
@[simp] theorem State.modMgate_groups (s : State) (g : Nat) (f : MemGate → MemGate) : (s.modMgate g f).groups = s.groups := rfl
@[simp] theorem State.modMgate_members (s : State) (g : Nat) (f : MemGate → MemGate) : (s.modMgate g f).members = s.members := rfl
@[simp] theorem State.modMgate_hostFns (s : State) (g : Nat) (f : MemGate → MemGate) : (s.modMgate g f).hostFns = s.hostFns := rfl
@[simp] theorem State.modMgate_fw (s : State) (g : Nat) (f : MemGate → MemGate) : (s.modMgate g f).fw = s.fw := rfl
@[simp] theorem State.modMgate_boot (s : State) (g : Nat) (f : MemGate → MemGate) : (s.modMgate g f).boot = s.boot := rfl
@[simp] theorem State.modMgate_mem (s : State) (g : Nat) (f : MemGate → MemGate) : (s.modMgate g f).mem = s.mem := rfl
@[simp] theorem State.modMgate_lineValid (s : State) (g : Nat) (f : MemGate → MemGate) : (s.modMgate g f).lineValid = s.lineValid := rfl
@[simp] theorem State.modMgate_badWords (s : State) (g : Nat) (f : MemGate → MemGate) : (s.modMgate g f).badWords = s.badWords := rfl
@[simp] theorem State.modMgate_lineKeys (s : State) (g : Nat) (f : MemGate → MemGate) : (s.modMgate g f).lineKeys = s.lineKeys := rfl
@[simp] theorem State.modMgate_frameKeys (s : State) (g : Nat) (f : MemGate → MemGate) : (s.modMgate g f).frameKeys = s.frameKeys := rfl
@[simp] theorem State.modMgate_net (s : State) (g : Nat) (f : MemGate → MemGate) : (s.modMgate g f).net = s.net := rfl
@[simp] theorem State.modMgate_waves (s : State) (g : Nat) (f : MemGate → MemGate) : (s.modMgate g f).waves = s.waves := rfl
@[simp] theorem State.modMgate_nextWave (s : State) (g : Nat) (f : MemGate → MemGate) : (s.modMgate g f).nextWave = s.nextWave := rfl
@[simp] theorem State.modMgate_out (s : State) (g : Nat) (f : MemGate → MemGate) : (s.modMgate g f).out = s.out := rfl
@[simp] theorem State.modMgate_agenda (s : State) (g : Nat) (f : MemGate → MemGate) : (s.modMgate g f).agenda = s.agenda := rfl
@[simp] theorem State.modMgate_cur (s : State) (g : Nat) (f : MemGate → MemGate) : (s.modMgate g f).cur = s.cur := rfl
@[simp] theorem State.modMgate_freeCtr (s : State) (g : Nat) (f : MemGate → MemGate) : (s.modMgate g f).freeCtr = s.freeCtr := rfl
@[simp] theorem State.modMgate_nextSerial (s : State) (g : Nat) (f : MemGate → MemGate) : (s.modMgate g f).nextSerial = s.nextSerial := rfl

/-! ### modCluster -/

@[simp] theorem State.modCluster_mod (s : State) (c : Nat) (f : Tab SpaceEnt → Tab SpaceEnt) : (s.modCluster c f).mod = s.mod := rfl
@[simp] theorem State.modCluster_cores (s : State) (c : Nat) (f : Tab SpaceEnt → Tab SpaceEnt) : (s.modCluster c f).cores = s.cores := rfl
@[simp] theorem State.modCluster_clusters (s : State) (c : Nat) (f : Tab SpaceEnt → Tab SpaceEnt) : (s.modCluster c f).clusters = Tab.put s.clusters c (f (s.cluster c)) := rfl
@[simp] theorem State.modCluster_dies (s : State) (c : Nat) (f : Tab SpaceEnt → Tab SpaceEnt) : (s.modCluster c f).dies = s.dies := rfl
@[simp] theorem State.modCluster_mgates (s : State) (c : Nat) (f : Tab SpaceEnt → Tab SpaceEnt) : (s.modCluster c f).mgates = s.mgates := rfl
@[simp] theorem State.modCluster_hbmKeys (s : State) (c : Nat) (f : Tab SpaceEnt → Tab SpaceEnt) : (s.modCluster c f).hbmKeys = s.hbmKeys := rfl
@[simp] theorem State.modCluster_fabricKeys (s : State) (c : Nat) (f : Tab SpaceEnt → Tab SpaceEnt) : (s.modCluster c f).fabricKeys = s.fabricKeys := rfl
@[simp] theorem State.modCluster_ports (s : State) (c : Nat) (f : Tab SpaceEnt → Tab SpaceEnt) : (s.modCluster c f).ports = s.ports := rfl
@[simp] theorem State.modCluster_masks (s : State) (c : Nat) (f : Tab SpaceEnt → Tab SpaceEnt) : (s.modCluster c f).masks = s.masks := rfl
@[simp] theorem State.modCluster_holds (s : State) (c : Nat) (f : Tab SpaceEnt → Tab SpaceEnt) : (s.modCluster c f).holds = s.holds := rfl
@[simp] theorem State.modCluster_combine (s : State) (c : Nat) (f : Tab SpaceEnt → Tab SpaceEnt) : (s.modCluster c f).combine = s.combine := rfl
@[simp] theorem State.modCluster_lost (s : State) (c : Nat) (f : Tab SpaceEnt → Tab SpaceEnt) : (s.modCluster c f).lost = s.lost := rfl
@[simp] theorem State.modCluster_heard (s : State) (c : Nat) (f : Tab SpaceEnt → Tab SpaceEnt) : (s.modCluster c f).heard = s.heard := rfl
@[simp] theorem State.modCluster_groups (s : State) (c : Nat) (f : Tab SpaceEnt → Tab SpaceEnt) : (s.modCluster c f).groups = s.groups := rfl
@[simp] theorem State.modCluster_members (s : State) (c : Nat) (f : Tab SpaceEnt → Tab SpaceEnt) : (s.modCluster c f).members = s.members := rfl
@[simp] theorem State.modCluster_hostFns (s : State) (c : Nat) (f : Tab SpaceEnt → Tab SpaceEnt) : (s.modCluster c f).hostFns = s.hostFns := rfl
@[simp] theorem State.modCluster_fw (s : State) (c : Nat) (f : Tab SpaceEnt → Tab SpaceEnt) : (s.modCluster c f).fw = s.fw := rfl
@[simp] theorem State.modCluster_boot (s : State) (c : Nat) (f : Tab SpaceEnt → Tab SpaceEnt) : (s.modCluster c f).boot = s.boot := rfl
@[simp] theorem State.modCluster_mem (s : State) (c : Nat) (f : Tab SpaceEnt → Tab SpaceEnt) : (s.modCluster c f).mem = s.mem := rfl
@[simp] theorem State.modCluster_lineValid (s : State) (c : Nat) (f : Tab SpaceEnt → Tab SpaceEnt) : (s.modCluster c f).lineValid = s.lineValid := rfl
@[simp] theorem State.modCluster_badWords (s : State) (c : Nat) (f : Tab SpaceEnt → Tab SpaceEnt) : (s.modCluster c f).badWords = s.badWords := rfl
@[simp] theorem State.modCluster_lineKeys (s : State) (c : Nat) (f : Tab SpaceEnt → Tab SpaceEnt) : (s.modCluster c f).lineKeys = s.lineKeys := rfl
@[simp] theorem State.modCluster_frameKeys (s : State) (c : Nat) (f : Tab SpaceEnt → Tab SpaceEnt) : (s.modCluster c f).frameKeys = s.frameKeys := rfl
@[simp] theorem State.modCluster_net (s : State) (c : Nat) (f : Tab SpaceEnt → Tab SpaceEnt) : (s.modCluster c f).net = s.net := rfl
@[simp] theorem State.modCluster_waves (s : State) (c : Nat) (f : Tab SpaceEnt → Tab SpaceEnt) : (s.modCluster c f).waves = s.waves := rfl
@[simp] theorem State.modCluster_nextWave (s : State) (c : Nat) (f : Tab SpaceEnt → Tab SpaceEnt) : (s.modCluster c f).nextWave = s.nextWave := rfl
@[simp] theorem State.modCluster_out (s : State) (c : Nat) (f : Tab SpaceEnt → Tab SpaceEnt) : (s.modCluster c f).out = s.out := rfl
@[simp] theorem State.modCluster_agenda (s : State) (c : Nat) (f : Tab SpaceEnt → Tab SpaceEnt) : (s.modCluster c f).agenda = s.agenda := rfl
@[simp] theorem State.modCluster_cur (s : State) (c : Nat) (f : Tab SpaceEnt → Tab SpaceEnt) : (s.modCluster c f).cur = s.cur := rfl
@[simp] theorem State.modCluster_freeCtr (s : State) (c : Nat) (f : Tab SpaceEnt → Tab SpaceEnt) : (s.modCluster c f).freeCtr = s.freeCtr := rfl
@[simp] theorem State.modCluster_nextSerial (s : State) (c : Nat) (f : Tab SpaceEnt → Tab SpaceEnt) : (s.modCluster c f).nextSerial = s.nextSerial := rfl

/-! ### modPort -/

@[simp] theorem State.modPort_mod (s : State) (p : Nat) (f : Port → Port) : (s.modPort p f).mod = s.mod := rfl
@[simp] theorem State.modPort_cores (s : State) (p : Nat) (f : Port → Port) : (s.modPort p f).cores = s.cores := rfl
@[simp] theorem State.modPort_clusters (s : State) (p : Nat) (f : Port → Port) : (s.modPort p f).clusters = s.clusters := rfl
@[simp] theorem State.modPort_dies (s : State) (p : Nat) (f : Port → Port) : (s.modPort p f).dies = s.dies := rfl
@[simp] theorem State.modPort_mgates (s : State) (p : Nat) (f : Port → Port) : (s.modPort p f).mgates = s.mgates := rfl
@[simp] theorem State.modPort_hbmKeys (s : State) (p : Nat) (f : Port → Port) : (s.modPort p f).hbmKeys = s.hbmKeys := rfl
@[simp] theorem State.modPort_fabricKeys (s : State) (p : Nat) (f : Port → Port) : (s.modPort p f).fabricKeys = s.fabricKeys := rfl
@[simp] theorem State.modPort_ports (s : State) (p : Nat) (f : Port → Port) : (s.modPort p f).ports = Tab.put s.ports p (f (s.port p)) := rfl
@[simp] theorem State.modPort_masks (s : State) (p : Nat) (f : Port → Port) : (s.modPort p f).masks = s.masks := rfl
@[simp] theorem State.modPort_holds (s : State) (p : Nat) (f : Port → Port) : (s.modPort p f).holds = s.holds := rfl
@[simp] theorem State.modPort_combine (s : State) (p : Nat) (f : Port → Port) : (s.modPort p f).combine = s.combine := rfl
@[simp] theorem State.modPort_lost (s : State) (p : Nat) (f : Port → Port) : (s.modPort p f).lost = s.lost := rfl
@[simp] theorem State.modPort_heard (s : State) (p : Nat) (f : Port → Port) : (s.modPort p f).heard = s.heard := rfl
@[simp] theorem State.modPort_groups (s : State) (p : Nat) (f : Port → Port) : (s.modPort p f).groups = s.groups := rfl
@[simp] theorem State.modPort_members (s : State) (p : Nat) (f : Port → Port) : (s.modPort p f).members = s.members := rfl
@[simp] theorem State.modPort_hostFns (s : State) (p : Nat) (f : Port → Port) : (s.modPort p f).hostFns = s.hostFns := rfl
@[simp] theorem State.modPort_fw (s : State) (p : Nat) (f : Port → Port) : (s.modPort p f).fw = s.fw := rfl
@[simp] theorem State.modPort_boot (s : State) (p : Nat) (f : Port → Port) : (s.modPort p f).boot = s.boot := rfl
@[simp] theorem State.modPort_mem (s : State) (p : Nat) (f : Port → Port) : (s.modPort p f).mem = s.mem := rfl
@[simp] theorem State.modPort_lineValid (s : State) (p : Nat) (f : Port → Port) : (s.modPort p f).lineValid = s.lineValid := rfl
@[simp] theorem State.modPort_badWords (s : State) (p : Nat) (f : Port → Port) : (s.modPort p f).badWords = s.badWords := rfl
@[simp] theorem State.modPort_lineKeys (s : State) (p : Nat) (f : Port → Port) : (s.modPort p f).lineKeys = s.lineKeys := rfl
@[simp] theorem State.modPort_frameKeys (s : State) (p : Nat) (f : Port → Port) : (s.modPort p f).frameKeys = s.frameKeys := rfl
@[simp] theorem State.modPort_net (s : State) (p : Nat) (f : Port → Port) : (s.modPort p f).net = s.net := rfl
@[simp] theorem State.modPort_waves (s : State) (p : Nat) (f : Port → Port) : (s.modPort p f).waves = s.waves := rfl
@[simp] theorem State.modPort_nextWave (s : State) (p : Nat) (f : Port → Port) : (s.modPort p f).nextWave = s.nextWave := rfl
@[simp] theorem State.modPort_out (s : State) (p : Nat) (f : Port → Port) : (s.modPort p f).out = s.out := rfl
@[simp] theorem State.modPort_agenda (s : State) (p : Nat) (f : Port → Port) : (s.modPort p f).agenda = s.agenda := rfl
@[simp] theorem State.modPort_cur (s : State) (p : Nat) (f : Port → Port) : (s.modPort p f).cur = s.cur := rfl
@[simp] theorem State.modPort_freeCtr (s : State) (p : Nat) (f : Port → Port) : (s.modPort p f).freeCtr = s.freeCtr := rfl
@[simp] theorem State.modPort_nextSerial (s : State) (p : Nat) (f : Port → Port) : (s.modPort p f).nextSerial = s.nextSerial := rfl

/-! ### modHostFn -/

@[simp] theorem State.modHostFn_mod (s : State) (n : Nat) (f : HostFn → HostFn) : (s.modHostFn n f).mod = s.mod := rfl
@[simp] theorem State.modHostFn_cores (s : State) (n : Nat) (f : HostFn → HostFn) : (s.modHostFn n f).cores = s.cores := rfl
@[simp] theorem State.modHostFn_clusters (s : State) (n : Nat) (f : HostFn → HostFn) : (s.modHostFn n f).clusters = s.clusters := rfl
@[simp] theorem State.modHostFn_dies (s : State) (n : Nat) (f : HostFn → HostFn) : (s.modHostFn n f).dies = s.dies := rfl
@[simp] theorem State.modHostFn_mgates (s : State) (n : Nat) (f : HostFn → HostFn) : (s.modHostFn n f).mgates = s.mgates := rfl
@[simp] theorem State.modHostFn_hbmKeys (s : State) (n : Nat) (f : HostFn → HostFn) : (s.modHostFn n f).hbmKeys = s.hbmKeys := rfl
@[simp] theorem State.modHostFn_fabricKeys (s : State) (n : Nat) (f : HostFn → HostFn) : (s.modHostFn n f).fabricKeys = s.fabricKeys := rfl
@[simp] theorem State.modHostFn_ports (s : State) (n : Nat) (f : HostFn → HostFn) : (s.modHostFn n f).ports = s.ports := rfl
@[simp] theorem State.modHostFn_masks (s : State) (n : Nat) (f : HostFn → HostFn) : (s.modHostFn n f).masks = s.masks := rfl
@[simp] theorem State.modHostFn_holds (s : State) (n : Nat) (f : HostFn → HostFn) : (s.modHostFn n f).holds = s.holds := rfl
@[simp] theorem State.modHostFn_combine (s : State) (n : Nat) (f : HostFn → HostFn) : (s.modHostFn n f).combine = s.combine := rfl
@[simp] theorem State.modHostFn_lost (s : State) (n : Nat) (f : HostFn → HostFn) : (s.modHostFn n f).lost = s.lost := rfl
@[simp] theorem State.modHostFn_heard (s : State) (n : Nat) (f : HostFn → HostFn) : (s.modHostFn n f).heard = s.heard := rfl
@[simp] theorem State.modHostFn_groups (s : State) (n : Nat) (f : HostFn → HostFn) : (s.modHostFn n f).groups = s.groups := rfl
@[simp] theorem State.modHostFn_members (s : State) (n : Nat) (f : HostFn → HostFn) : (s.modHostFn n f).members = s.members := rfl
@[simp] theorem State.modHostFn_hostFns (s : State) (n : Nat) (f : HostFn → HostFn) : (s.modHostFn n f).hostFns = Tab.put s.hostFns n (f (s.hostFn n)) := rfl
@[simp] theorem State.modHostFn_fw (s : State) (n : Nat) (f : HostFn → HostFn) : (s.modHostFn n f).fw = s.fw := rfl
@[simp] theorem State.modHostFn_boot (s : State) (n : Nat) (f : HostFn → HostFn) : (s.modHostFn n f).boot = s.boot := rfl
@[simp] theorem State.modHostFn_mem (s : State) (n : Nat) (f : HostFn → HostFn) : (s.modHostFn n f).mem = s.mem := rfl
@[simp] theorem State.modHostFn_lineValid (s : State) (n : Nat) (f : HostFn → HostFn) : (s.modHostFn n f).lineValid = s.lineValid := rfl
@[simp] theorem State.modHostFn_badWords (s : State) (n : Nat) (f : HostFn → HostFn) : (s.modHostFn n f).badWords = s.badWords := rfl
@[simp] theorem State.modHostFn_lineKeys (s : State) (n : Nat) (f : HostFn → HostFn) : (s.modHostFn n f).lineKeys = s.lineKeys := rfl
@[simp] theorem State.modHostFn_frameKeys (s : State) (n : Nat) (f : HostFn → HostFn) : (s.modHostFn n f).frameKeys = s.frameKeys := rfl
@[simp] theorem State.modHostFn_net (s : State) (n : Nat) (f : HostFn → HostFn) : (s.modHostFn n f).net = s.net := rfl
@[simp] theorem State.modHostFn_waves (s : State) (n : Nat) (f : HostFn → HostFn) : (s.modHostFn n f).waves = s.waves := rfl
@[simp] theorem State.modHostFn_nextWave (s : State) (n : Nat) (f : HostFn → HostFn) : (s.modHostFn n f).nextWave = s.nextWave := rfl
@[simp] theorem State.modHostFn_out (s : State) (n : Nat) (f : HostFn → HostFn) : (s.modHostFn n f).out = s.out := rfl
@[simp] theorem State.modHostFn_agenda (s : State) (n : Nat) (f : HostFn → HostFn) : (s.modHostFn n f).agenda = s.agenda := rfl
@[simp] theorem State.modHostFn_cur (s : State) (n : Nat) (f : HostFn → HostFn) : (s.modHostFn n f).cur = s.cur := rfl
@[simp] theorem State.modHostFn_freeCtr (s : State) (n : Nat) (f : HostFn → HostFn) : (s.modHostFn n f).freeCtr = s.freeCtr := rfl
@[simp] theorem State.modHostFn_nextSerial (s : State) (n : Nat) (f : HostFn → HostFn) : (s.modHostFn n f).nextSerial = s.nextSerial := rfl

/-! ### modMod -/

@[simp] theorem State.modMod_mod (s : State) (f : Module → Module) : (s.modMod f).mod = f s.mod := rfl
@[simp] theorem State.modMod_cores (s : State) (f : Module → Module) : (s.modMod f).cores = s.cores := rfl
@[simp] theorem State.modMod_clusters (s : State) (f : Module → Module) : (s.modMod f).clusters = s.clusters := rfl
@[simp] theorem State.modMod_dies (s : State) (f : Module → Module) : (s.modMod f).dies = s.dies := rfl
@[simp] theorem State.modMod_mgates (s : State) (f : Module → Module) : (s.modMod f).mgates = s.mgates := rfl
@[simp] theorem State.modMod_hbmKeys (s : State) (f : Module → Module) : (s.modMod f).hbmKeys = s.hbmKeys := rfl
@[simp] theorem State.modMod_fabricKeys (s : State) (f : Module → Module) : (s.modMod f).fabricKeys = s.fabricKeys := rfl
@[simp] theorem State.modMod_ports (s : State) (f : Module → Module) : (s.modMod f).ports = s.ports := rfl
@[simp] theorem State.modMod_masks (s : State) (f : Module → Module) : (s.modMod f).masks = s.masks := rfl
@[simp] theorem State.modMod_holds (s : State) (f : Module → Module) : (s.modMod f).holds = s.holds := rfl
@[simp] theorem State.modMod_combine (s : State) (f : Module → Module) : (s.modMod f).combine = s.combine := rfl
@[simp] theorem State.modMod_lost (s : State) (f : Module → Module) : (s.modMod f).lost = s.lost := rfl
@[simp] theorem State.modMod_heard (s : State) (f : Module → Module) : (s.modMod f).heard = s.heard := rfl
@[simp] theorem State.modMod_groups (s : State) (f : Module → Module) : (s.modMod f).groups = s.groups := rfl
@[simp] theorem State.modMod_members (s : State) (f : Module → Module) : (s.modMod f).members = s.members := rfl
@[simp] theorem State.modMod_hostFns (s : State) (f : Module → Module) : (s.modMod f).hostFns = s.hostFns := rfl
@[simp] theorem State.modMod_fw (s : State) (f : Module → Module) : (s.modMod f).fw = s.fw := rfl
@[simp] theorem State.modMod_boot (s : State) (f : Module → Module) : (s.modMod f).boot = s.boot := rfl
@[simp] theorem State.modMod_mem (s : State) (f : Module → Module) : (s.modMod f).mem = s.mem := rfl
@[simp] theorem State.modMod_lineValid (s : State) (f : Module → Module) : (s.modMod f).lineValid = s.lineValid := rfl
@[simp] theorem State.modMod_badWords (s : State) (f : Module → Module) : (s.modMod f).badWords = s.badWords := rfl
@[simp] theorem State.modMod_lineKeys (s : State) (f : Module → Module) : (s.modMod f).lineKeys = s.lineKeys := rfl
@[simp] theorem State.modMod_frameKeys (s : State) (f : Module → Module) : (s.modMod f).frameKeys = s.frameKeys := rfl
@[simp] theorem State.modMod_net (s : State) (f : Module → Module) : (s.modMod f).net = s.net := rfl
@[simp] theorem State.modMod_waves (s : State) (f : Module → Module) : (s.modMod f).waves = s.waves := rfl
@[simp] theorem State.modMod_nextWave (s : State) (f : Module → Module) : (s.modMod f).nextWave = s.nextWave := rfl
@[simp] theorem State.modMod_out (s : State) (f : Module → Module) : (s.modMod f).out = s.out := rfl
@[simp] theorem State.modMod_agenda (s : State) (f : Module → Module) : (s.modMod f).agenda = s.agenda := rfl
@[simp] theorem State.modMod_cur (s : State) (f : Module → Module) : (s.modMod f).cur = s.cur := rfl
@[simp] theorem State.modMod_freeCtr (s : State) (f : Module → Module) : (s.modMod f).freeCtr = s.freeCtr := rfl
@[simp] theorem State.modMod_nextSerial (s : State) (f : Module → Module) : (s.modMod f).nextSerial = s.nextSerial := rfl

/-! ### modFw -/

@[simp] theorem State.modFw_mod (s : State) (f : Firmware → Firmware) : (s.modFw f).mod = s.mod := rfl
@[simp] theorem State.modFw_cores (s : State) (f : Firmware → Firmware) : (s.modFw f).cores = s.cores := rfl
@[simp] theorem State.modFw_clusters (s : State) (f : Firmware → Firmware) : (s.modFw f).clusters = s.clusters := rfl
@[simp] theorem State.modFw_dies (s : State) (f : Firmware → Firmware) : (s.modFw f).dies = s.dies := rfl
@[simp] theorem State.modFw_mgates (s : State) (f : Firmware → Firmware) : (s.modFw f).mgates = s.mgates := rfl
@[simp] theorem State.modFw_hbmKeys (s : State) (f : Firmware → Firmware) : (s.modFw f).hbmKeys = s.hbmKeys := rfl
@[simp] theorem State.modFw_fabricKeys (s : State) (f : Firmware → Firmware) : (s.modFw f).fabricKeys = s.fabricKeys := rfl
@[simp] theorem State.modFw_ports (s : State) (f : Firmware → Firmware) : (s.modFw f).ports = s.ports := rfl
@[simp] theorem State.modFw_masks (s : State) (f : Firmware → Firmware) : (s.modFw f).masks = s.masks := rfl
@[simp] theorem State.modFw_holds (s : State) (f : Firmware → Firmware) : (s.modFw f).holds = s.holds := rfl
@[simp] theorem State.modFw_combine (s : State) (f : Firmware → Firmware) : (s.modFw f).combine = s.combine := rfl
@[simp] theorem State.modFw_lost (s : State) (f : Firmware → Firmware) : (s.modFw f).lost = s.lost := rfl
@[simp] theorem State.modFw_heard (s : State) (f : Firmware → Firmware) : (s.modFw f).heard = s.heard := rfl
@[simp] theorem State.modFw_groups (s : State) (f : Firmware → Firmware) : (s.modFw f).groups = s.groups := rfl
@[simp] theorem State.modFw_members (s : State) (f : Firmware → Firmware) : (s.modFw f).members = s.members := rfl
@[simp] theorem State.modFw_hostFns (s : State) (f : Firmware → Firmware) : (s.modFw f).hostFns = s.hostFns := rfl
@[simp] theorem State.modFw_fw (s : State) (f : Firmware → Firmware) : (s.modFw f).fw = f s.fw := rfl
@[simp] theorem State.modFw_boot (s : State) (f : Firmware → Firmware) : (s.modFw f).boot = s.boot := rfl
@[simp] theorem State.modFw_mem (s : State) (f : Firmware → Firmware) : (s.modFw f).mem = s.mem := rfl
@[simp] theorem State.modFw_lineValid (s : State) (f : Firmware → Firmware) : (s.modFw f).lineValid = s.lineValid := rfl
@[simp] theorem State.modFw_badWords (s : State) (f : Firmware → Firmware) : (s.modFw f).badWords = s.badWords := rfl
@[simp] theorem State.modFw_lineKeys (s : State) (f : Firmware → Firmware) : (s.modFw f).lineKeys = s.lineKeys := rfl
@[simp] theorem State.modFw_frameKeys (s : State) (f : Firmware → Firmware) : (s.modFw f).frameKeys = s.frameKeys := rfl
@[simp] theorem State.modFw_net (s : State) (f : Firmware → Firmware) : (s.modFw f).net = s.net := rfl
@[simp] theorem State.modFw_waves (s : State) (f : Firmware → Firmware) : (s.modFw f).waves = s.waves := rfl
@[simp] theorem State.modFw_nextWave (s : State) (f : Firmware → Firmware) : (s.modFw f).nextWave = s.nextWave := rfl
@[simp] theorem State.modFw_out (s : State) (f : Firmware → Firmware) : (s.modFw f).out = s.out := rfl
@[simp] theorem State.modFw_agenda (s : State) (f : Firmware → Firmware) : (s.modFw f).agenda = s.agenda := rfl
@[simp] theorem State.modFw_cur (s : State) (f : Firmware → Firmware) : (s.modFw f).cur = s.cur := rfl
@[simp] theorem State.modFw_freeCtr (s : State) (f : Firmware → Firmware) : (s.modFw f).freeCtr = s.freeCtr := rfl
@[simp] theorem State.modFw_nextSerial (s : State) (f : Firmware → Firmware) : (s.modFw f).nextSerial = s.nextSerial := rfl

/-! ### modBoot -/

@[simp] theorem State.modBoot_mod (s : State) (f : Boot → Boot) : (s.modBoot f).mod = s.mod := rfl
@[simp] theorem State.modBoot_cores (s : State) (f : Boot → Boot) : (s.modBoot f).cores = s.cores := rfl
@[simp] theorem State.modBoot_clusters (s : State) (f : Boot → Boot) : (s.modBoot f).clusters = s.clusters := rfl
@[simp] theorem State.modBoot_dies (s : State) (f : Boot → Boot) : (s.modBoot f).dies = s.dies := rfl
@[simp] theorem State.modBoot_mgates (s : State) (f : Boot → Boot) : (s.modBoot f).mgates = s.mgates := rfl
@[simp] theorem State.modBoot_hbmKeys (s : State) (f : Boot → Boot) : (s.modBoot f).hbmKeys = s.hbmKeys := rfl
@[simp] theorem State.modBoot_fabricKeys (s : State) (f : Boot → Boot) : (s.modBoot f).fabricKeys = s.fabricKeys := rfl
@[simp] theorem State.modBoot_ports (s : State) (f : Boot → Boot) : (s.modBoot f).ports = s.ports := rfl
@[simp] theorem State.modBoot_masks (s : State) (f : Boot → Boot) : (s.modBoot f).masks = s.masks := rfl
@[simp] theorem State.modBoot_holds (s : State) (f : Boot → Boot) : (s.modBoot f).holds = s.holds := rfl
@[simp] theorem State.modBoot_combine (s : State) (f : Boot → Boot) : (s.modBoot f).combine = s.combine := rfl
@[simp] theorem State.modBoot_lost (s : State) (f : Boot → Boot) : (s.modBoot f).lost = s.lost := rfl
@[simp] theorem State.modBoot_heard (s : State) (f : Boot → Boot) : (s.modBoot f).heard = s.heard := rfl
@[simp] theorem State.modBoot_groups (s : State) (f : Boot → Boot) : (s.modBoot f).groups = s.groups := rfl
@[simp] theorem State.modBoot_members (s : State) (f : Boot → Boot) : (s.modBoot f).members = s.members := rfl
@[simp] theorem State.modBoot_hostFns (s : State) (f : Boot → Boot) : (s.modBoot f).hostFns = s.hostFns := rfl
@[simp] theorem State.modBoot_fw (s : State) (f : Boot → Boot) : (s.modBoot f).fw = s.fw := rfl
@[simp] theorem State.modBoot_boot (s : State) (f : Boot → Boot) : (s.modBoot f).boot = f s.boot := rfl
@[simp] theorem State.modBoot_mem (s : State) (f : Boot → Boot) : (s.modBoot f).mem = s.mem := rfl
@[simp] theorem State.modBoot_lineValid (s : State) (f : Boot → Boot) : (s.modBoot f).lineValid = s.lineValid := rfl
@[simp] theorem State.modBoot_badWords (s : State) (f : Boot → Boot) : (s.modBoot f).badWords = s.badWords := rfl
@[simp] theorem State.modBoot_lineKeys (s : State) (f : Boot → Boot) : (s.modBoot f).lineKeys = s.lineKeys := rfl
@[simp] theorem State.modBoot_frameKeys (s : State) (f : Boot → Boot) : (s.modBoot f).frameKeys = s.frameKeys := rfl
@[simp] theorem State.modBoot_net (s : State) (f : Boot → Boot) : (s.modBoot f).net = s.net := rfl
@[simp] theorem State.modBoot_waves (s : State) (f : Boot → Boot) : (s.modBoot f).waves = s.waves := rfl
@[simp] theorem State.modBoot_nextWave (s : State) (f : Boot → Boot) : (s.modBoot f).nextWave = s.nextWave := rfl
@[simp] theorem State.modBoot_out (s : State) (f : Boot → Boot) : (s.modBoot f).out = s.out := rfl
@[simp] theorem State.modBoot_agenda (s : State) (f : Boot → Boot) : (s.modBoot f).agenda = s.agenda := rfl
@[simp] theorem State.modBoot_cur (s : State) (f : Boot → Boot) : (s.modBoot f).cur = s.cur := rfl
@[simp] theorem State.modBoot_freeCtr (s : State) (f : Boot → Boot) : (s.modBoot f).freeCtr = s.freeCtr := rfl
@[simp] theorem State.modBoot_nextSerial (s : State) (f : Boot → Boot) : (s.modBoot f).nextSerial = s.nextSerial := rfl

/-! ### emit -/

@[simp] theorem State.emit_mod (s : State) (p : Packet) : (s.emit p).mod = s.mod := rfl
@[simp] theorem State.emit_cores (s : State) (p : Packet) : (s.emit p).cores = s.cores := rfl
@[simp] theorem State.emit_clusters (s : State) (p : Packet) : (s.emit p).clusters = s.clusters := rfl
@[simp] theorem State.emit_dies (s : State) (p : Packet) : (s.emit p).dies = s.dies := rfl
@[simp] theorem State.emit_mgates (s : State) (p : Packet) : (s.emit p).mgates = s.mgates := rfl
@[simp] theorem State.emit_hbmKeys (s : State) (p : Packet) : (s.emit p).hbmKeys = s.hbmKeys := rfl
@[simp] theorem State.emit_fabricKeys (s : State) (p : Packet) : (s.emit p).fabricKeys = s.fabricKeys := rfl
@[simp] theorem State.emit_ports (s : State) (p : Packet) : (s.emit p).ports = s.ports := rfl
@[simp] theorem State.emit_masks (s : State) (p : Packet) : (s.emit p).masks = s.masks := rfl
@[simp] theorem State.emit_holds (s : State) (p : Packet) : (s.emit p).holds = s.holds := rfl
@[simp] theorem State.emit_combine (s : State) (p : Packet) : (s.emit p).combine = s.combine := rfl
@[simp] theorem State.emit_lost (s : State) (p : Packet) : (s.emit p).lost = s.lost := rfl
@[simp] theorem State.emit_heard (s : State) (p : Packet) : (s.emit p).heard = s.heard := rfl
@[simp] theorem State.emit_groups (s : State) (p : Packet) : (s.emit p).groups = s.groups := rfl
@[simp] theorem State.emit_members (s : State) (p : Packet) : (s.emit p).members = s.members := rfl
@[simp] theorem State.emit_hostFns (s : State) (p : Packet) : (s.emit p).hostFns = s.hostFns := rfl
@[simp] theorem State.emit_fw (s : State) (p : Packet) : (s.emit p).fw = s.fw := rfl
@[simp] theorem State.emit_boot (s : State) (p : Packet) : (s.emit p).boot = s.boot := rfl
@[simp] theorem State.emit_mem (s : State) (p : Packet) : (s.emit p).mem = s.mem := rfl
@[simp] theorem State.emit_lineValid (s : State) (p : Packet) : (s.emit p).lineValid = s.lineValid := rfl
@[simp] theorem State.emit_badWords (s : State) (p : Packet) : (s.emit p).badWords = s.badWords := rfl
@[simp] theorem State.emit_lineKeys (s : State) (p : Packet) : (s.emit p).lineKeys = s.lineKeys := rfl
@[simp] theorem State.emit_frameKeys (s : State) (p : Packet) : (s.emit p).frameKeys = s.frameKeys := rfl
@[simp] theorem State.emit_net (s : State) (p : Packet) : (s.emit p).net = s.net ++ [p] := rfl
@[simp] theorem State.emit_waves (s : State) (p : Packet) : (s.emit p).waves = s.waves := rfl
@[simp] theorem State.emit_nextWave (s : State) (p : Packet) : (s.emit p).nextWave = s.nextWave := rfl
@[simp] theorem State.emit_out (s : State) (p : Packet) : (s.emit p).out = s.out := rfl
@[simp] theorem State.emit_agenda (s : State) (p : Packet) : (s.emit p).agenda = s.agenda := rfl
@[simp] theorem State.emit_cur (s : State) (p : Packet) : (s.emit p).cur = s.cur := rfl
@[simp] theorem State.emit_freeCtr (s : State) (p : Packet) : (s.emit p).freeCtr = s.freeCtr := rfl
@[simp] theorem State.emit_nextSerial (s : State) (p : Packet) : (s.emit p).nextSerial = s.nextSerial := rfl

/-! ### output -/

@[simp] theorem State.output_mod (s : State) (o : Out) : (s.output o).mod = s.mod := rfl
@[simp] theorem State.output_cores (s : State) (o : Out) : (s.output o).cores = s.cores := rfl
@[simp] theorem State.output_clusters (s : State) (o : Out) : (s.output o).clusters = s.clusters := rfl
@[simp] theorem State.output_dies (s : State) (o : Out) : (s.output o).dies = s.dies := rfl
@[simp] theorem State.output_mgates (s : State) (o : Out) : (s.output o).mgates = s.mgates := rfl
@[simp] theorem State.output_hbmKeys (s : State) (o : Out) : (s.output o).hbmKeys = s.hbmKeys := rfl
@[simp] theorem State.output_fabricKeys (s : State) (o : Out) : (s.output o).fabricKeys = s.fabricKeys := rfl
@[simp] theorem State.output_ports (s : State) (o : Out) : (s.output o).ports = s.ports := rfl
@[simp] theorem State.output_masks (s : State) (o : Out) : (s.output o).masks = s.masks := rfl
@[simp] theorem State.output_holds (s : State) (o : Out) : (s.output o).holds = s.holds := rfl
@[simp] theorem State.output_combine (s : State) (o : Out) : (s.output o).combine = s.combine := rfl
@[simp] theorem State.output_lost (s : State) (o : Out) : (s.output o).lost = s.lost := rfl
@[simp] theorem State.output_heard (s : State) (o : Out) : (s.output o).heard = s.heard := rfl
@[simp] theorem State.output_groups (s : State) (o : Out) : (s.output o).groups = s.groups := rfl
@[simp] theorem State.output_members (s : State) (o : Out) : (s.output o).members = s.members := rfl
@[simp] theorem State.output_hostFns (s : State) (o : Out) : (s.output o).hostFns = s.hostFns := rfl
@[simp] theorem State.output_fw (s : State) (o : Out) : (s.output o).fw = s.fw := rfl
@[simp] theorem State.output_boot (s : State) (o : Out) : (s.output o).boot = s.boot := rfl
@[simp] theorem State.output_mem (s : State) (o : Out) : (s.output o).mem = s.mem := rfl
@[simp] theorem State.output_lineValid (s : State) (o : Out) : (s.output o).lineValid = s.lineValid := rfl
@[simp] theorem State.output_badWords (s : State) (o : Out) : (s.output o).badWords = s.badWords := rfl
@[simp] theorem State.output_lineKeys (s : State) (o : Out) : (s.output o).lineKeys = s.lineKeys := rfl
@[simp] theorem State.output_frameKeys (s : State) (o : Out) : (s.output o).frameKeys = s.frameKeys := rfl
@[simp] theorem State.output_net (s : State) (o : Out) : (s.output o).net = s.net := rfl
@[simp] theorem State.output_waves (s : State) (o : Out) : (s.output o).waves = s.waves := rfl
@[simp] theorem State.output_nextWave (s : State) (o : Out) : (s.output o).nextWave = s.nextWave := rfl
@[simp] theorem State.output_out (s : State) (o : Out) : (s.output o).out = s.out ++ [o] := rfl
@[simp] theorem State.output_agenda (s : State) (o : Out) : (s.output o).agenda = s.agenda := rfl
@[simp] theorem State.output_cur (s : State) (o : Out) : (s.output o).cur = s.cur := rfl
@[simp] theorem State.output_freeCtr (s : State) (o : Out) : (s.output o).freeCtr = s.freeCtr := rfl
@[simp] theorem State.output_nextSerial (s : State) (o : Out) : (s.output o).nextSerial = s.nextSerial := rfl

/-! ### draw -/

@[simp] theorem State.draw_mod (s : State) : (s.draw).mod = s.mod := rfl
@[simp] theorem State.draw_cores (s : State) : (s.draw).cores = s.cores := rfl
@[simp] theorem State.draw_clusters (s : State) : (s.draw).clusters = s.clusters := rfl
@[simp] theorem State.draw_dies (s : State) : (s.draw).dies = s.dies := rfl
@[simp] theorem State.draw_mgates (s : State) : (s.draw).mgates = s.mgates := rfl
@[simp] theorem State.draw_hbmKeys (s : State) : (s.draw).hbmKeys = s.hbmKeys := rfl
@[simp] theorem State.draw_fabricKeys (s : State) : (s.draw).fabricKeys = s.fabricKeys := rfl
@[simp] theorem State.draw_ports (s : State) : (s.draw).ports = s.ports := rfl
@[simp] theorem State.draw_masks (s : State) : (s.draw).masks = s.masks := rfl
@[simp] theorem State.draw_holds (s : State) : (s.draw).holds = s.holds := rfl
@[simp] theorem State.draw_combine (s : State) : (s.draw).combine = s.combine := rfl
@[simp] theorem State.draw_lost (s : State) : (s.draw).lost = s.lost := rfl
@[simp] theorem State.draw_heard (s : State) : (s.draw).heard = s.heard := rfl
@[simp] theorem State.draw_groups (s : State) : (s.draw).groups = s.groups := rfl
@[simp] theorem State.draw_members (s : State) : (s.draw).members = s.members := rfl
@[simp] theorem State.draw_hostFns (s : State) : (s.draw).hostFns = s.hostFns := rfl
@[simp] theorem State.draw_fw (s : State) : (s.draw).fw = s.fw := rfl
@[simp] theorem State.draw_boot (s : State) : (s.draw).boot = s.boot := rfl
@[simp] theorem State.draw_mem (s : State) : (s.draw).mem = s.mem := rfl
@[simp] theorem State.draw_lineValid (s : State) : (s.draw).lineValid = s.lineValid := rfl
@[simp] theorem State.draw_badWords (s : State) : (s.draw).badWords = s.badWords := rfl
@[simp] theorem State.draw_lineKeys (s : State) : (s.draw).lineKeys = s.lineKeys := rfl
@[simp] theorem State.draw_frameKeys (s : State) : (s.draw).frameKeys = s.frameKeys := rfl
@[simp] theorem State.draw_net (s : State) : (s.draw).net = s.net := rfl
@[simp] theorem State.draw_waves (s : State) : (s.draw).waves = s.waves := rfl
@[simp] theorem State.draw_nextWave (s : State) : (s.draw).nextWave = s.nextWave := rfl
@[simp] theorem State.draw_out (s : State) : (s.draw).out = s.out := rfl
@[simp] theorem State.draw_agenda (s : State) : (s.draw).agenda = s.agenda := rfl
@[simp] theorem State.draw_cur (s : State) : (s.draw).cur = s.cur := rfl
@[simp] theorem State.draw_freeCtr (s : State) : (s.draw).freeCtr = s.freeCtr + 1 := rfl
@[simp] theorem State.draw_nextSerial (s : State) : (s.draw).nextSerial = s.nextSerial := rfl

/-! ### setHd -/

@[simp] theorem State.setHd_mod (s : State) (h : Handler) : (s.setHd h).mod = s.mod := rfl
@[simp] theorem State.setHd_cores (s : State) (h : Handler) : (s.setHd h).cores = Tab.put s.cores s.cur.core { s.core s.cur.core with handlers := Tab.put (s.core s.cur.core).handlers s.cur.rec_ h } := rfl
@[simp] theorem State.setHd_clusters (s : State) (h : Handler) : (s.setHd h).clusters = s.clusters := rfl
@[simp] theorem State.setHd_dies (s : State) (h : Handler) : (s.setHd h).dies = s.dies := rfl
@[simp] theorem State.setHd_mgates (s : State) (h : Handler) : (s.setHd h).mgates = s.mgates := rfl
@[simp] theorem State.setHd_hbmKeys (s : State) (h : Handler) : (s.setHd h).hbmKeys = s.hbmKeys := rfl
@[simp] theorem State.setHd_fabricKeys (s : State) (h : Handler) : (s.setHd h).fabricKeys = s.fabricKeys := rfl
@[simp] theorem State.setHd_ports (s : State) (h : Handler) : (s.setHd h).ports = s.ports := rfl
@[simp] theorem State.setHd_masks (s : State) (h : Handler) : (s.setHd h).masks = s.masks := rfl
@[simp] theorem State.setHd_holds (s : State) (h : Handler) : (s.setHd h).holds = s.holds := rfl
@[simp] theorem State.setHd_combine (s : State) (h : Handler) : (s.setHd h).combine = s.combine := rfl
@[simp] theorem State.setHd_lost (s : State) (h : Handler) : (s.setHd h).lost = s.lost := rfl
@[simp] theorem State.setHd_heard (s : State) (h : Handler) : (s.setHd h).heard = s.heard := rfl
@[simp] theorem State.setHd_groups (s : State) (h : Handler) : (s.setHd h).groups = s.groups := rfl
@[simp] theorem State.setHd_members (s : State) (h : Handler) : (s.setHd h).members = s.members := rfl
@[simp] theorem State.setHd_hostFns (s : State) (h : Handler) : (s.setHd h).hostFns = s.hostFns := rfl
@[simp] theorem State.setHd_fw (s : State) (h : Handler) : (s.setHd h).fw = s.fw := rfl
@[simp] theorem State.setHd_boot (s : State) (h : Handler) : (s.setHd h).boot = s.boot := rfl
@[simp] theorem State.setHd_mem (s : State) (h : Handler) : (s.setHd h).mem = s.mem := rfl
@[simp] theorem State.setHd_lineValid (s : State) (h : Handler) : (s.setHd h).lineValid = s.lineValid := rfl
@[simp] theorem State.setHd_badWords (s : State) (h : Handler) : (s.setHd h).badWords = s.badWords := rfl
@[simp] theorem State.setHd_lineKeys (s : State) (h : Handler) : (s.setHd h).lineKeys = s.lineKeys := rfl
@[simp] theorem State.setHd_frameKeys (s : State) (h : Handler) : (s.setHd h).frameKeys = s.frameKeys := rfl
@[simp] theorem State.setHd_net (s : State) (h : Handler) : (s.setHd h).net = s.net := rfl
@[simp] theorem State.setHd_waves (s : State) (h : Handler) : (s.setHd h).waves = s.waves := rfl
@[simp] theorem State.setHd_nextWave (s : State) (h : Handler) : (s.setHd h).nextWave = s.nextWave := rfl
@[simp] theorem State.setHd_out (s : State) (h : Handler) : (s.setHd h).out = s.out := rfl
@[simp] theorem State.setHd_agenda (s : State) (h : Handler) : (s.setHd h).agenda = s.agenda := rfl
@[simp] theorem State.setHd_cur (s : State) (h : Handler) : (s.setHd h).cur = s.cur := rfl
@[simp] theorem State.setHd_freeCtr (s : State) (h : Handler) : (s.setHd h).freeCtr = s.freeCtr := rfl
@[simp] theorem State.setHd_nextSerial (s : State) (h : Handler) : (s.setHd h).nextSerial = s.nextSerial := rfl

end Sys2Proof.Machine
end

