-- ==== Sys2Proof/Laws/Ops.lean ====
section
/-! SUPPORT. What the shared operations do: cores, the current handler and its registers, counting, retiring, the guards of a
group, and what taking a fault leaves of its actor. -/

namespace Sys2Proof.Machine

open Sys2Proof

/-! ### Cores and the current handler -/

@[simp] theorem State.core_setCore_self (s : State) (c : Nat) (k : Core) : (s.setCore c k).core c = k := by
  simp [State.core, State.setCore, Tab.get?_put_self]

theorem State.core_setCore_ne (s : State) (c d : Nat) (k : Core) (h : d ≠ c) : (s.setCore c k).core d = s.core d := by
  simp [State.core, State.setCore, Tab.get?_put_ne _ _ _ _ h]

@[simp] theorem State.core_modCore_self (s : State) (c : Nat) (f : Core → Core) : (s.modCore c f).core c = f (s.core c) :=
  State.core_setCore_self _ _ _

theorem State.core_modCore_ne (s : State) (c d : Nat) (f : Core → Core) (h : d ≠ c) : (s.modCore c f).core d = s.core d :=
  State.core_setCore_ne _ _ _ _ h

@[simp] theorem State.here_setHd (s : State) (h : Handler) :
    (s.setHd h).here = { s.here with handlers := Tab.put s.here.handlers s.cur.rec_ h } :=
  State.core_setCore_self _ _ _

@[simp] theorem State.hd_setHd (s : State) (h : Handler) : (s.setHd h).hd = h := by
  have e := State.here_setHd s h
  simp only [State.hd]
  rw [show (s.setHd h).core (s.setHd h).cur.core = (s.setHd h).here from rfl, e]
  simp [Tab.get?_put_self]

theorem State.core_setHd_ne (s : State) (h : Handler) (d : Nat) (hd : d ≠ s.cur.core) : (s.setHd h).core d = s.core d :=
  State.core_setCore_ne _ _ _ _ hd

@[simp] theorem State.modHd_eq (s : State) (f : Handler → Handler) : s.modHd f = s.setHd (f s.hd) := rfl

/-! ### Registers -/

/-- s0 reads zero (R17). -/
@[simp] theorem Handler.reg_zero (h : Handler) : h.reg 0#5 = 0#64 := rfl

/-- s0 and p0 read alike in every cycle (R17, R21, R23). -/
@[simp] theorem Handler.staleOf_zero (h : Handler) (n : Nat) (p : Bool) : h.staleOf n p 0#5 = none := by simp [Handler.staleOf]
@[simp] theorem State.reg_zero (s : State) : s.reg 0#5 = 0#64 := by simp [State.reg]
@[simp] theorem State.pred_zero (s : State) : s.pred 0#3 = true := by simp [State.pred, Handler.pred]

/-- A write to s0 is discarded (R17). -/
@[simp] theorem Handler.setReg_zero (h : Handler) (v : Word) : h.setReg 0#5 v = h := rfl

theorem Handler.reg_setReg_self (h : Handler) (a : Reg) (v : Word) (ha : a ≠ 0#5) : (h.setReg a v).reg a = v := by
  simp [Handler.reg, Handler.setReg, ha]

theorem Handler.reg_setReg_ne (h : Handler) (a r : Reg) (v : Word) (hr : r ≠ a) : (h.setReg a v).reg r = h.reg r := by
  unfold Handler.setReg
  split
  · rfl
  · have : a.toNat ≠ r.toNat := fun e => hr (BitVec.eq_of_toNat_eq e.symm)
    simp [Handler.reg, this]

@[simp] theorem Handler.pred_setReg (h : Handler) (a : Reg) (v : Word) (p : Pred) : (h.setReg a v).pred p = h.pred p := by
  unfold Handler.setReg; split <;> rfl

/-- p0 reads 1 (R21). -/
@[simp] theorem Handler.pred_zero (h : Handler) : h.pred 0#3 = true := rfl

theorem Handler.pred_setPred_self (h : Handler) (p : Pred) (v : Bool) (hp : p ≠ 0#3) : (h.setPred p v).pred p = v := by
  simp [Handler.pred, Handler.setPred, hp]

theorem Handler.pred_setPred_ne (h : Handler) (p q : Pred) (v : Bool) (hq : q ≠ p) : (h.setPred p v).pred q = h.pred q := by
  unfold Handler.setPred
  split
  · rfl
  · have : p.toNat ≠ q.toNat := fun e => hq (BitVec.eq_of_toNat_eq e.symm)
    simp [Handler.pred, this]

@[simp] theorem Handler.reg_setPred (h : Handler) (p : Pred) (v : Bool) (r : Reg) : (h.setPred p v).reg r = h.reg r := by
  unfold Handler.setPred; split <;> rfl

/-- A register written anew has no earlier value of this cycle (R23). -/
theorem Handler.staleOf_setReg_self (h : Handler) (n : Nat) (a : Reg) (v : Word) (ha : a ≠ 0#5) :
    (h.setReg a v).staleOf n false a = none := by
  simp [Handler.staleOf, Handler.setReg, ha, List.find?_filter]

/-- Writing a register leaves what another shows of this cycle (R23). -/
theorem Handler.staleOf_setReg_ne (h : Handler) (n : Nat) (a r : Reg) (v : Word) (hr : r ≠ a) :
    (h.setReg a v).staleOf n false r = h.staleOf n false r := by
  unfold Handler.setReg
  split
  · rfl
  · simp only [Handler.staleOf, List.find?_filter]
    congr 2
    congr 1
    funext x
    by_cases e : x.2.1 = r
    · subst e; simp [hr]
    · simp [e]

/-- The die's cycle does not follow the current handler. -/
@[simp] theorem State.now_setHd (s : State) (h : Handler) (c : Nat) : (s.setHd h).now c = s.now c := rfl

theorem State.reg_setReg (s : State) (a r : Reg) (v : Word) (ha : a ≠ 0#5) :
    (s.setReg a v).reg r = if r = a then v else s.reg r := by
  have hc : (s.setHd (s.hd.setReg a v)).cur = s.cur := rfl
  simp only [State.setReg, State.reg, State.modHd_eq, State.hd_setHd, State.now_setHd, hc]
  split
  · next e => subst e; rw [Handler.staleOf_setReg_self _ _ _ _ ha]; exact Handler.reg_setReg_self _ _ _ ha
  · next e => rw [Handler.staleOf_setReg_ne _ _ _ _ _ e, Handler.reg_setReg_ne _ _ _ _ e]

/-! ### Counting -/

/-- Counting an event touches tables of counters only: handlers, actors, memory and packets stay. -/
theorem State.countN_frame (s : State) (c : Nat) (t : Tenant) (src n : Nat) :
    (s.countN c t src n).mem = s.mem ∧ (s.countN c t src n).net = s.net ∧ (s.countN c t src n).cur = s.cur ∧
      (s.countN c t src n).agenda = s.agenda ∧ (s.countN c t src n).lineValid = s.lineValid ∧
      ∀ d, ((s.countN c t src n).core d).handlers = (s.core d).handlers ∧ ((s.countN c t src n).core d).actors = (s.core d).actors := by
  unfold State.countN
  split
  · simp
  · have hk : ∀ d, ((s.modCore c fun k => k.countN t src n).core d).handlers = (s.core d).handlers ∧
        ((s.modCore c fun k => k.countN t src n).core d).actors = (s.core d).actors := by
      intro d
      by_cases hd : d = c
      · subst hd; rw [State.core_modCore_self]; exact ⟨rfl, rfl⟩
      · rw [State.core_modCore_ne _ _ _ _ hd]; exact ⟨rfl, rfl⟩
    dsimp only
    split
    · exact ⟨rfl, rfl, rfl, rfl, rfl, hk⟩
    · exact ⟨rfl, rfl, rfl, rfl, rfl, hk⟩

@[simp] theorem State.hd_count (s : State) (c : Nat) (t : Tenant) (src : Nat) : (s.count c t src).hd = s.hd := by
  have h := State.countN_frame s c t src 1
  simp only [State.hd, State.count]
  rw [h.2.2.1, (h.2.2.2.2.2 s.cur.core).1]

@[simp] theorem State.mem_count (s : State) (c : Nat) (t : Tenant) (src : Nat) : (s.count c t src).mem = s.mem :=
  (State.countN_frame s c t src 1).1

/-- Retiring a group moves the handler to its next group and counts it; memory stays (R213, R453). -/
theorem State.retire_hd (s : State) : s.retire.hd = s.hd.advance := by
  simp [State.retire, State.countHere]

theorem State.retire_mem (s : State) : s.retire.mem = s.mem := by simp [State.retire, State.countHere]

/-! ### Guards -/

theorem State.guardRegs_of_named (s : State) (rs : List Reg) (k : Res) (h : s.hd.named (rs.map BitVec.toNat)) :
    s.guardRegs rs k = k := by simp [State.guardRegs, h]

/-- A register at or beyond the declared count is REGBOUND (R18). -/
theorem State.guardRegs_of_not_named (s : State) (rs : List Reg) (k : Res) (h : s.hd.named (rs.map BitVec.toNat) = false) :
    s.guardRegs rs k = .next (s.takeFault .regbound) := by simp [State.guardRegs, h, State.fault]

theorem State.guardPriv_of_steward (s : State) (k : Res) (h : isSteward s.cur.core) : s.guardPriv k = k := by
  simp [State.guardPriv, h]

/-! ### Death -/

/-- A death of an actor that is not LIVE changes nothing, but where its cause outranks that of this cycle (R66). -/
theorem State.enterExiting_of_not_live (s : State) (c e : Nat) (cls : DeathClass) (d : BitVec 8) (w : Word) (x : Option Nat)
    (h : (s.actor c e).state ≠ .live) (ho : s.outranks c e cls = false) : s.enterExiting c e cls d w x = s := by
  simp [State.enterExiting, h, ho]

/-- One actor's death leaves its entry EXITING with the class, detail and w2 of the cause (R66, R67). -/
theorem State.exitOne_actor (s : State) (c e : Nat) (cls : DeathClass) (d : BitVec 8) (w : Word) (x : Option Nat) :
    ((s.exitOne c e cls d w x).actor c e).state = .exiting ∧
      ((s.exitOne c e cls d w x).actor c e).death = some { cls := cls, detail := d, w2 := w } ∧
      ((s.exitOne c e cls d w x).actor c e).sup = none := by
  unfold State.exitOne
  simp only [State.modActor, State.actor, State.core_modCore_self, Core.modActor, Core.setActor, Core.actor, Tab.get?_put_self,
    Option.getD_some, and_self]

end Sys2Proof.Machine
end

