-- ==== Sys2Proof/Tests/Slice0.lean ====
section
/-! SUPPORT. Tests: what the encodings refuse, a word of every form, single steps with results taken from the manual or worked
out by hand, and for the statements states that meet their hypotheses. -/

namespace Sys2Proof.Tests

open Sys2Proof Sys2Proof.Machine

/-! ### Well-formed and ill-formed terms -/

/-- Terms that the checks refuse, one for each: reach of an immediate, of an offset with and without a PFX.R, orderings,
register numbers, reserved values, and numbers of ports, dies and functions that do not exist. -/
theorem test_ill_formed : (([.addi 9 (2 ^ 44), .br (2 ^ 49), .brp 1 (2 ^ 44), .ldD 9 10 (2 ^ 39) .relaxed, .ldD 9 10 (2 ^ 29) (.acquire .mo),
    .ldB 9 10 0 (.release .cl), .stB 9 10 0 (.acquire .cl), .ldx .d 9 10 11 (2 ^ 29) .relaxed, .stx .d 9 10 11 0 (.acquire .di),
    .aadd 9 10 11 (2 ^ 29) .relaxed, .send 9 10 none (.acquire .pd), .rst 0 9 10 11 (.acqRel .mo), .rld 0 9 10 11 (.release .mo),
    .dld 3 9 (2 ^ 29), .dldBase 3 9 (2 ^ 19) 10, .selfq 0 9 10, .brk 0x3C, .hhn 0x3C 9 10, .crd 9 0x15, .crd 9 0x13, .cwr 0x00 9, .cwr 0x10 9,
    .lidSample 16 0 900, .dvfsChangeDone 16, .dieCounterSelect 20 0 1, .portDown 24, .laneRetire 0 9 ⟨100, 20⟩, .suspect 1024, .vfEnable 65,
    .fstatClear ⟨65, true⟩ 0] : List Instr).all fun i => !i.wf) = true := by decide

/-- Their neighbours that the checks take. -/
theorem test_well_formed : (([.addi 9 (2 ^ 44 - 1), .br (2 ^ 49 - 1), .brp 1 (-(2 ^ 44)), .ldD 9 10 (2 ^ 39 - 1) .relaxed,
    .ldD 9 10 (2 ^ 29 - 1) (.acquire .mo), .stB 9 10 0 (.release .cl), .ldx .d 9 10 11 (-(2 ^ 29)) .relaxed, .aadd 9 10 0 (2 ^ 39 - 1) .relaxed,
    .dldBase 3 9 (2 ^ 19 - 1) 10, .selfq 6 9 10, .brk 0x3B, .hhn 0x3B 9 10, .crd 9 0x14, .cwr 0x0D 9, .lidSample 15 7 900, .dieCounterSelect 19 15 1,
    .portDown 23, .laneRetire 0 8 ⟨100, 20⟩, .vfEnable 64] : List Instr).all Instr.wf) = true := by decide

/-! ### Decoding: a word of every form, from the operation table's encodings, and the manual's own words -/

/-- Words decode to the instructions that stand beside them. -/
def decodes (l : List (List Half × Instr)) : Bool := l.all fun x => decide (decode x.1 = .instr x.2 x.1.length)

theorem test_decode_scalar_1 : decodes [([0x0532], .add 9#5 18#5 0#5 .w64),
    ([0x0932], .sub 9#5 18#5 0#5 .w64),
    ([0x0D32], .and 9#5 18#5 0#5 .w64),
    ([0x1132], .or 9#5 18#5 0#5 .w64),
    ([0x1532], .xor 9#5 18#5 0#5 .w64),
    ([0x1932], .shl 9#5 18#5 0#5 .w64),
    ([0x1D32], .shr 9#5 18#5 0#5 .w64),
    ([0x2132], .sra 9#5 18#5 0#5 .w64),
    ([0x2532], .mul 9#5 18#5 0#5 .w64),
    ([0x2932], .mulh 9#5 18#5 0#5 .w64),
    ([0x2D32], .mulhu 9#5 18#5 0#5 .w64),
    ([0x3132], .div 9#5 18#5 0#5 .w64)] = true := by decide

theorem test_decode_scalar_2 : decodes [([0x3532], .divu 9#5 18#5 0#5 .w64),
    ([0x3932], .rem 9#5 18#5 0#5 .w64),
    ([0x3D32], .remu 9#5 18#5 0#5 .w64),
    ([0x4137], .addi 9#5 (-9#64)),
    ([0x4537], .andi 9#5 23#64),
    ([0x4937], .shli 9#5 23#64),
    ([0x4D37], .shri 9#5 23#64),
    ([0x5137], .srai 9#5 23#64),
    ([0x5537], .li 9#5 (-9#64)),
    ([0xE137], .ori 9#5 23#64),
    ([0xE537], .xori 9#5 23#64),
    ([0x5972], .cmp .ne 3#3 18#5 0#5)] = true := by decide

theorem test_decode_scalar_3 : decodes [([0x5D72], .cmpu .geu 3#3 18#5 0#5),
    ([0x6132], .sel 9#5 18#5 0#3),
    ([0x6565], .plog .or 3#3 5#3 0#3),
    ([0x6932], .extu 9#5 18#5 0#6 0#6),
    ([0x6D32], .exts 9#5 18#5 0#6 0#6),
    ([0x7132], .ins 9#5 18#5 0#6 0#6),
    ([0x7532], .clz 9#5 18#5 .w64),
    ([0x7932], .ctz 9#5 18#5 .w64),
    ([0x7D32], .popc 9#5 18#5 .w64),
    ([0x8132], .ldB 9#5 18#5 0#64 .relaxed),
    ([0x8532], .ldH 9#5 18#5 0#64 .relaxed),
    ([0x8932], .ldW 9#5 18#5 0#64 .relaxed)] = true := by decide

theorem test_decode_memory : decodes [([0x8D32], .ldD 9#5 18#5 0#64 .relaxed),
    ([0x9132], .stB 9#5 18#5 0#64 .relaxed),
    ([0x9532], .stH 9#5 18#5 0#64 .relaxed),
    ([0x9932], .stW 9#5 18#5 0#64 .relaxed),
    ([0x9D32], .stD 9#5 18#5 0#64 .relaxed),
    ([0xF4ED, 0x8932], .ldx .w 9#5 18#5 7#5 0#64 (.acquire .mo)),
    ([0xF4F5, 0x9932], .stx .w 9#5 18#5 7#5 0#64 (.release .mo)),
    ([0xA132], .aadd 9#5 18#5 0#5 0#64 .relaxed),
    ([0xA532], .aswp 9#5 18#5 0#5 0#64 .relaxed),
    ([0xA932], .acas 9#5 18#5 0#5 0#64 .relaxed),
    ([0xAEA5], .br (-347#64)),
    ([0xB2A5], .call (-347#64))] = true := by decide

theorem test_decode_branches_messages : decodes [([0xB477], .brp 3#3 (-9#64)),
    ([0xB577], .brpF 3#3 (-9#64)),
    ([0xB812], .jr 18#5),
    ([0xBC12], .callr 18#5),
    ([0xC132], .send 9#5 18#5 none .relaxed),
    ([0xC412], .reply 18#5 none .relaxed),
    ([0xC800], .done),
    ([0xCD32], .fadd 9#5 18#5 0#5),
    ([0xD132], .fsub 9#5 18#5 0#5),
    ([0xD532], .fmul 9#5 18#5 0#5),
    ([0xD932], .fma 9#5 18#5 0#5),
    ([0xDD72], .fcmp .lt 3#3 18#5 0#5)] = true := by decide

theorem test_decode_floating_point : decodes [([0xFAC0, 0x0132], .fdiv 9#5 18#5 0#5),
    ([0xFAC1, 0x0132], .fsqrt 9#5 18#5),
    ([0xFAC2, 0x0132], .fmin 9#5 18#5 0#5),
    ([0xFAC3, 0x0132], .fmax 9#5 18#5 0#5),
    ([0xFAC4, 0x0532], .fcvt 1#4 9#5 18#5),
    ([0xFAC8, 0x0132], .dadd 9#5 18#5 0#5),
    ([0xFAC9, 0x0132], .dsub 9#5 18#5 0#5),
    ([0xFACA, 0x0132], .dmul 9#5 18#5 0#5),
    ([0xFACB, 0x0132], .dfma 9#5 18#5 0#5),
    ([0xFACC, 0x0172], .dcmp .lt 3#3 18#5 0#5),
    ([0xFACD, 0x0132], .ddiv 9#5 18#5 0#5),
    ([0xFACE, 0x0132], .dsqrt 9#5 18#5)] = true := by decide

theorem test_decode_shapes : decodes [([0xFACF, 0x0132], .dmin 9#5 18#5 0#5),
    ([0xFAD0, 0x0132], .dmax 9#5 18#5 0#5),
    ([0xF900, 0x00B2], .dld 5#4 18#5 0#64),
    ([0xF908, 0x8122], .vadd 9#4 2#4 (.scalar 0#5)),
    ([0xF909, 0x8122], .vsub 9#4 2#4 (.scalar 0#5)),
    ([0xF90A, 0x8122], .vmul 9#4 2#4 (.scalar 0#5)),
    ([0xF90B, 0x8122], .vfma 9#4 2#4 (.scalar 0#5)),
    ([0xF90C, 0x8122], .vdiv 9#4 2#4 (.scalar 0#5)),
    ([0xF90D, 0x8122], .vmin 9#4 2#4 (.scalar 0#5)),
    ([0xF90E, 0x8122], .vmax 9#4 2#4 (.scalar 0#5)),
    ([0xF90F, 0x0122], .vabs 9#4 2#4),
    ([0xF910, 0x0122], .vneg 9#4 2#4)] = true := by decide

theorem test_decode_vector_1 : decodes [([0xF911, 0x8122], .vand 9#4 2#4 (.scalar 0#5)),
    ([0xF912, 0x8122], .vor 9#4 2#4 (.scalar 0#5)),
    ([0xF913, 0x8122], .vxor 9#4 2#4 (.scalar 0#5)),
    ([0xF914, 0x8122], .vshl 9#4 2#4 (.scalar 0#5)),
    ([0xF915, 0x8122], .vshr 9#4 2#4 (.scalar 0#5)),
    ([0xF916, 0x8122], .vsra 9#4 2#4 (.scalar 0#5)),
    ([0xF918, 0x0122], .vexp 9#4 2#4),
    ([0xF919, 0x0122], .vlog 9#4 2#4),
    ([0xF91A, 0x0122], .vsqrt 9#4 2#4),
    ([0xF91B, 0x0122], .vrsq 9#4 2#4),
    ([0xF91C, 0x0122], .vrcp 9#4 2#4),
    ([0xF91D, 0x0122], .vtanh 9#4 2#4)] = true := by decide

theorem test_decode_vector_2 : decodes [([0xF91E, 0x0122], .vsig 9#4 2#4),
    ([0xF920, 0x8D22], .vcmp .le 9#4 2#4 (.scalar 0#5)),
    ([0xF921, 0xAD22], .vsel 9#4 11#4 2#4 (.scalar 0#5)),
    ([0xF922, 0x0122], .vcvt 9#4 2#4),
    ([0xF923, 0x0132], .vfill 9#4 18#5),
    ([0xF928, 0x0122], .vrsum 9#4 2#4),
    ([0xF929, 0x0122], .vrmax 9#4 2#4),
    ([0xF92A, 0x0122], .vrmin 9#4 2#4),
    ([0xF930, 0x0122], .vperm 9#4 2#4 0#4),
    ([0xF931, 0x0122], .vtrn 9#4 2#4),
    ([0xF932, 0x0132], .vxch 9#4 18#5 0#5),
    ([0xFA00, 0x0932], .mma 2#2 9#5 18#5 0#5)] = true := by decide

theorem test_decode_matrix : decodes [([0xFA01, 0x0932], .mmat 2#2 9#5 18#5 0#5),
    ([0xFA02, 0x0932], .msp 2#2 9#5 18#5 0#5),
    ([0xFA03, 0x0932], .mspt 2#2 9#5 18#5 0#5),
    ([0xFA04, 0x0800], .mzero 2#2),
    ([0xFA05, 0x2812], .mld .i32 2#2 18#5 0#5),
    ([0xFA06, 0x3812], .mst .i32 true 2#2 18#5 0#5),
    ([0xFA07, 0x1400], .mcp 1#2 1#2),
    ([0xFA08, 0x5400], .madd .i32 1#2 1#2),
    ([0xFA09, 0x1400], .mtrn 1#2 1#2),
    ([0xFA09, 0x5400], .mtrnD 1#2 1#2),
    ([0xFA40, 0x0122], .qski 9#5 2#4),
    ([0xFA41, 0x0132], .qskm 9#5 18#5)] = true := by decide

theorem test_decode_summaries : decodes [([0xFA42, 0x0132], .qskq 9#5 18#5 0#5),
    ([0xFA43, 0x0132], .qskr 9#5 18#5 0#5),
    ([0xFA44, 0x0132], .qskn 9#5 18#5),
    ([0xFA48, 0x0122], .hhi 9#5 2#4),
    ([0xFA49, 0x0132], .hhm 9#5 18#5),
    ([0xFA4A, 0x0132], .hhq 9#5 18#5 0#5),
    ([0xFA4B, 0x3532], .hhn 13#6 9#5 18#5),
    ([0xFA50, 0x0122], .dci 9#5 2#4),
    ([0xFA51, 0x0132], .dcm 9#5 18#5),
    ([0xFA52, 0x0132], .dce 9#5 18#5),
    ([0xFA53, 0x3532], .dcn 13#6 9#5 18#5),
    ([0xFA58, 0x0132], .rngd 9#5 18#5 0#5)] = true := by decide

theorem test_decode_actors_1 : decodes [([0xFA59, 0x0132], .rngv 9#4 18#5 0#5),
    ([0xFB00, 0x0012], .sendp 18#5 .relaxed),
    ([0xFB01, 0x0132], .spawn 9#5 18#5 0#5),
    ([0xFB02, 0x0132], .kill 9#5 18#5),
    ([0xFB03, 0x0012], .exit 18#5),
    ([0xFB04, 0x0012], .link 18#5),
    ([0xFB05, 0x0012], .unlink 18#5),
    ([0xFB06, 0x0132], .mon 9#5 18#5),
    ([0xFB07, 0x0012], .demon 18#5),
    ([0xFB08, 0x0132], .trapx 9#5 18#5),
    ([0xFB09, 0x0132], .timer 9#5 18#5 0#5),
    ([0xFB0A, 0x0072], .tcancel 3#3 18#5)] = true := by decide

theorem test_decode_actors_2 : decodes [([0xFB0B, 0x0012], .watch 18#5),
    ([0xFB0C, 0x0000], .wkick),
    ([0xFB0D, 0x0132], .fork 9#5 18#5),
    ([0xFB0E, 0x0000], .join),
    ([0xFB0F, 0x0132], .arm 9#5 18#5 0#5),
    ([0xFB10, 0x0132], .dec 9#5 18#5 .relaxed),
    ([0xFB11, 0x0120], .jcget 9#5),
    ([0xFB12, 0x0012], .jcput 18#5),
    ([0xFB13, 0x0132], .rstart 9#5 18#5),
    ([0xFB14, 0x0012], .supv 18#5),
    ([0xFB15, 0x1932], .selfq 6#3 9#5 18#5),
    ([0xFB16, 0x0072], .rdln 3#3 18#5)] = true := by decide

theorem test_decode_contexts_regions : decodes [([0xFB20, 0x0120], .ctxnew 9#5),
    ([0xFB21, 0x0072], .ctxset 3#3 18#5),
    ([0xFB22, 0x0012], .ctxret 18#5),
    ([0xFB23, 0x0532], .ctxq true 9#5 18#5),
    ([0xFB24, 0x0072], .ctxpf 3#3 18#5),
    ([0xFB25, 0x0002], .commit 2#3),
    ([0xFB40, 0x0132], .ralloc 9#5 18#5 0#5),
    ([0xFB41, 0x0012], .rfree 18#5),
    ([0xFB42, 0x0132], .give 9#5 18#5 0#5),
    ([0xFB43, 0x0132], .grant 9#5 18#5),
    ([0xFB44, 0x0012], .revoke 18#5),
    ([0xFB45, 0x0412], .publish true 18#5)] = true := by decide

theorem test_decode_copies : decodes [([0xFB46, 0x0012], .cpy 18#5),
    ([0xFB47, 0x0012], .cpyc 18#5 .relaxed),
    ([0xFB48, 0x0012], .deal 18#5 .relaxed),
    ([0xFB49, 0x0012], .gath 18#5),
    ([0xFB4A, 0x0932], .rst 2#5 9#5 18#5 0#5 .relaxed),
    ([0xFB4B, 0x0932], .rstc 2#5 9#5 18#5 0#5 .relaxed),
    ([0xFB4C, 0x0D32], .rld 3#3 9#5 18#5 0#5 .relaxed),
    ([0xFB4D, 0x2D32], .ratom .swp 3#3 9#5 18#5 0#5 .relaxed),
    ([0xFB4E, 0x0012], .mcst 18#5 .relaxed),
    ([0xFB4F, 0x0012], .pull 18#5),
    ([0xFB50, 0x0132], .wqQuery 9#5 18#5),
    ([0xFB50, 0x0532], .wqOpen 9#5 18#5)] = true := by decide

theorem test_decode_remote : decodes [([0xFB50, 0x0812], .wqClose 18#5),
    ([0xFB51, 0x0460], .fenceR .di 3#3),
    ([0xFB52, 0x0412], .cpye .encE5M2 18#5),
    ([0xFB60, 0x0520], .crd 9#5 32#8),
    ([0xFB60, 0x0133], .crdFlags 9#5),
    ([0xFB60, 0x0921], .crdEntr 9#5),
    ([0xFB61, 0x0512], .cwr 40#8 18#5),
    ([0xFB61, 0x0212], .cwrMbox 18#5),
    ([0xFB61, 0x0232], .cwrTrapx 18#5),
    ([0xFB61, 0x0252], .cwrWatch 18#5),
    ([0xFB61, 0x0272], .cwrFlags 18#5),
    ([0xFB62, 0x0400], .fence .di)] = true := by decide

theorem test_decode_control : decodes [([0xFB63, 0x0400], .tfence .di),
    ([0xFB64, 0x0012], .sysreq 18#5 .relaxed),
    ([0xFB65, 0x0800], .brk 2#6),
    ([0xFB66, 0x0000], .nop),
    ([0xFBC0, 0x0D32], .strd 3#3 9#5 18#5),
    ([0xFBC1, 0x0C12], .stwr 3#3 18#5 0#5),
    ([0xFBC2, 0x0C12], .keyset 3#3 18#5),
    ([0xFBC3, 0x0C12], .keydel 3#3 18#5),
    ([0xFBC4, 0x0012], .waveShootdown 18#5 0#5),
    ([0xFBC4, 0x0412], .waveRetire 18#5 0#5),
    ([0xFBC4, 0x0812], .waveModuleLoss 18#5 0#5),
    ([0xFBC5, 0x0012], .prmtPreempt 18#5)] = true := by decide

theorem test_decode_stewards : decodes [([0xFBC5, 0x0412], .prmtHold 18#5),
    ([0xFBC5, 0x0812], .prmtRelease 18#5)] = true := by decide

/-- Words of the manual's examples (R233, R248, R456), with their prefixes. -/
theorem test_decode_examples : decodes [([0xF561, 0x312A], .div 9 10 11 .w32), ([0xF403, 0x352A], .divu 9 10 0 .w8),
    ([0xF560, 0x392A], .rem 9 10 11 .w64), ([0xF561, 0x212A], .sra 9 10 11 .w32), ([0xF402, 0x752A], .clz 9 10 .w16),
    ([0x5520], .li 9 0), ([0xF480, 0x0529], .add 9 9 4 .w64), ([0x409F], .addi 4 (-1)), ([0x5924], .cmp .ne 1 4 0), ([0xB43C], .brp 1 (-4)),
    ([0xC800], .done), ([0xF000, 0x5534], .li 9 0x14), ([0xFB61, 0x0509], .cwr 0x28 9), ([0xF928, 0x0041], .vrsum 2 1),
    ([0xFB60, 0x0540], .crd 10 0x20), ([0xFB60, 0x0173], .crdFlags 11)] = true := by decide

/-- DLD with a base register (R313): D = 1 and a PFX.R for the register. -/
theorem test_decode_dld_base : decodes [([0xF5A0, 0xF900, 0x0492], .dldBase 4 18 0 13)] = true := by decide

/-- Encodings that name nothing (R207, R223, R228): major 0, major 0x3F, page 1 SUB 1, a form that admits no PFX.R, CMPU
condition 2. -/
theorem test_decode_unassigned : decodes [([0x0000], .unassignedEncoding), ([0xFC00], .unassignedEncoding),
    ([0xF901, 0x0000], .unassignedEncoding), ([0xF560, 0x5529], .unassignedEncoding), ([0x5E00], .unassignedEncoding)] = true := by decide

/-- Prefix faults of R208: two PFX.R, and a fifth prefix word. -/
theorem test_prefix_faults : (decode [0xF400, 0xF400] = .prefixFault ∧ decode [0xF000, 0xF000, 0xF000, 0xF000, 0xF000] = .prefixFault) := by decide

/-! ### The machine of the tests -/

/-- The outcome is a next state of which a test holds. -/
def got (r : Res) (p : State → Bool) : Bool := match r with | .next t => p t | _ => false

/-- Actor 3 of core 5, of tenant 7, with a code region, an untagged and a tagged data region. -/
def myName : Name := State.reset.mkName 5 3 1#16 { tenant := 7#12 }
def codeRegion : Region := { base := 0x8000, size := 0x1000, rd := true, ex := true }
def dataRegion : Region := { base := 0x9000, size := 0x1000, rd := true, wr := true, gr := true }
def taggedRegion : Region := { base := 0xA000, size := 0x1000, rd := true, wr := true, tagged := true, privx := true }
def myActor : Actor := { state := .live, inc := 1#16, tenant := 7#12, name := myName, htab := 0x8000,
                         regions := [(0, codeRegion), (1, dataRegion), (2, taggedRegion)] }

/-- Registers: zero but for those listed. -/
def regsOf (l : List (Nat × Word)) : Vector Word 32 := l.foldl (fun v x => v.set! x.1 x.2) (Vector.replicate 32 0#64)
def myHandler (l : List (Nat × Word)) : Handler :=
  { serial := 1, entry := 3, status := .running 0, pc := 0x8100, npc := 0x8102, count := 32, regs := regsOf l,
    msg := { (default : Msg) with chan := 1#2 } }
def myCore (l : List (Nat × Word)) : Core := { actors := [(3, myActor)], handlers := [(0, myHandler l)] }

/-- That handler is the current one, with the registers of `l`. -/
def user (l : List (Nat × Word)) : State :=
  { State.reset with cores := [(5, myCore l)], cur := { core := 5, rec_ := 0 }, nextSerial := 2 }

/-- The same with its handler, its actor or its core changed. -/
def userH (l : List (Nat × Word)) (f : Handler → Handler) : State := (user l).modHd f
def userA (l : List (Nat × Word)) (f : Actor → Actor) : State := (user l).modActor 5 3 f
def userK (l : List (Nat × Word)) (f : Core → Core) : State := (user l).modCore 5 f

/-- A handler of steward 1 of die 0. -/
def stewardName : Name := State.reset.mkName 65537 3 1#16 { tenant := 0#12 }
def stewardCore (l : List (Nat × Word)) : Core :=
  { actors := [(3, { myActor with tenant := 0#12, name := stewardName })], handlers := [(0, myHandler l)] }
def steward (l : List (Nat × Word)) : State :=
  { State.reset with cores := [(65537, stewardCore l)], cur := { core := 65537, rec_ := 0 }, nextSerial := 2 }

/-- The actor has died of a fault with a code. -/
def died (code : BitVec 8) (t : State) : Bool :=
  decide ((t.actor 5 3).state = .exiting) && decide ((t.actor 5 3).death.map (fun d => (d.cls, d.detail)) = some (DeathClass.fault, code))

/-- The current handler stands at an address. -/
def at_ (pc : Nat) (t : State) : Bool := decide (t.hd.pc = pc)

/-! ### Scalar instructions (chapter 11) -/

/-- The rows of the example of R233, and a handler that declares 16 registers naming s16 (R18). -/
theorem test_division : (got (exec (.div 9 10 11 .w32) (user [(10, 0xFFFFFFFF80000000), (11, -1)]))
      (fun t => t.reg 9 == 0xFFFFFFFF80000000 && t.hd.flags == fOF && at_ 0x8102 t) &&
    got (exec (.divu 9 10 0 .w8) (user [(10, 0x0123456789ABCD07)])) (fun t => t.reg 9 == 0xFF && t.hd.flags == fDZ) &&
    got (exec (.rem 9 10 11 .w64) (user [(10, 7), (11, -2)])) (fun t => t.reg 9 == 1 && t.hd.flags == 0) &&
    got (exec (.sra 9 10 11 .w32) (user [(10, 0x0000000080000010), (11, 36)])) (fun t => t.reg 9 == 0xFFFFFFFFF8000001) &&
    got (exec (.clz 9 10 .w16) (user [(10, 0xFFFF0001)])) (fun t => t.reg 9 == 0xF)) = true := by decide

theorem test_arithmetic : (got (exec (.add 9 9 11 .w8) (user [(9, 0x7F), (11, 1)])) (fun t => t.reg 9 == -128#64) &&
    got (exec (.sub 9 0 11 .w64) (user [(11, 1)])) (fun t => t.reg 9 == -1#64) &&
    got (exec (.mulhu 9 10 10 .w64) (user [(10, -1)])) (fun t => t.reg 9 == -2#64) &&
    got (exec (.mulh 9 10 10 .w32) (user [(10, 0x80000000)])) (fun t => t.reg 9 == 0x40000000) &&
    got (exec (.shr 9 10 11 .w16) (user [(10, 0x18000), (11, 16)])) (fun t => t.reg 9 == 0x8000) &&
    got (exec (.add 0 10 10 .w64) (user [(10, 4)])) (fun t => t.reg 0 == 0 && at_ 0x8102 t)) = true := by decide

theorem test_immediates : (got (exec (.addi 9 (-1)) (user [])) (fun t => t.reg 9 == -1#64) &&
    got (exec (.shli 9 65) (user [(9, 3)])) (fun t => t.reg 9 == 6) &&
    got (exec (.srai 9 63) (user [(9, -5)])) (fun t => t.reg 9 == -1#64) && got (exec (.xori 9 (-1)) (user [(9, 5)])) (fun t => t.reg 9 == -6#64) &&
    got (exec (.extu 9 10 60 7) (user [(10, 0xF0F0000000000000)])) (fun t => t.reg 9 == 0xF) &&
    got (exec (.exts 9 10 4 3) (user [(10, 0x80)])) (fun t => t.reg 9 == -8#64) &&
    got (exec (.ins 9 10 4 3) (user [(9, 0xFFF), (10, 0x5)])) (fun t => t.reg 9 == 0xF5F)) = true := by decide

theorem test_predicates : (got (exec (.cmp .lt 1 10 0) (user [(10, -1)])) (fun t => t.pred 1) &&
    got (exec (.cmpu .ltu 1 10 0) (user [(10, -1)])) (fun t => !t.pred 1) &&
    got (exec (.cmp .eq 0 10 0) (user [(10, -1)])) (fun t => t.pred 0) &&
    got (exec (.plog .xor 2 1 0) (user [])) (fun t => t.pred 2) && got (exec (.sel 9 10 0) (user [(10, 6)])) (fun t => t.reg 9 == 6) &&
    got (exec (.sel 9 10 1) (user [(9, 2), (10, 6)])) (fun t => t.reg 9 == 2)) = true := by decide

/-- 1.5 + 2.25 = 3.75; 1 / 3 rounds to 0x3EAAAAAB with NX; 1 / 0 is infinite with DZ; FP64 2 × 3 = 6; -0 equals +0. -/
theorem test_floating : (got (exec (.fadd 9 10 11) (user [(10, 0x3FC00000), (11, 0x40100000)])) (fun t => t.reg 9 == 0x40700000 && t.hd.flags == 0) &&
    got (exec (.fdiv 9 10 11) (user [(10, 0x3F800000), (11, 0x40400000)])) (fun t => t.reg 9 == 0x3EAAAAAB && t.hd.flags == fNX) &&
    got (exec (.fdiv 9 10 11) (user [(10, 0x3F800000)])) (fun t => t.reg 9 == 0x7F800000 && t.hd.flags == fDZ) &&
    got (exec (.dmul 9 10 11) (user [(10, 0x4000000000000000), (11, 0x4008000000000000)])) (fun t => t.reg 9 == 0x4018000000000000) &&
    got (exec (.fcmp .eq 1 10 11) (user [(10, 0x80000000)])) (fun t => t.pred 1 && t.hd.flags == 0) &&
    got (exec (.fsqrt 9 10) (user [(10, 0xBF800000)])) (fun t => t.reg 9 == 0x7FC00000 && t.hd.flags == fNV)) = true := by decide

/-- The hypotheses of the scalar statements: registers named within the declared count, and beyond it. -/
theorem witness_scalar : ((user []).hd.named [9, 10, 31] && !(userH [] fun h => { h with count := 16 }).hd.named [9, 10, 16] &&
    decide (scalarForm (.add 9 10 11 .w64) = some ([9], [], [9, 10, 11])) && decide (flagForm (.fsqrt 9 10) = some (9, [9, 10])) &&
    got (exec (.add 9 10 16 .w64) (userH [] fun h => { h with count := 16 })) (died 4)) = true := by decide

/-- Division: y = 0; the most negative number by -1 at 8 bits; 7 by -2 (R233). -/
theorem witness_division : (zextAt .w8 0x100 = 0 ∧ (sextAt .w8 0xFF = -1#64 ∧ sextAt .w8 0x180 = sextAt .w8 (BitVec.ofNat 64 (2 ^ 7))) ∧
    zextAt .w64 (-2) ≠ 0 ∧ sextAt .w64 (-2) ≠ -1#64) := by decide

/-- JR and CALLR: an even target below 2^32, one at 2^32, an odd one (R246). -/
theorem test_jumps : (got (exec (.callr 1) (user [(1, 0xFFFFFFFE)])) (fun t => at_ 0xFFFFFFFE t && t.reg 1 == 0x8102) &&
    got (exec (.jr 9) (user [(9, 0x100000000)])) (died 6) && got (exec (.jr 9) (user [(9, 0x8001)])) (died 5) &&
    got (exec (.brp 0 (-4)) (user [])) (at_ 0x80F8) && got (exec (.brpF 0 (-4)) (user [])) (at_ 0x8102) &&
    got (exec (.call 3) (user [])) (fun t => at_ 0x8106 t && t.reg 1 == 0x8102)) = true := by decide

theorem test_done : (got (exec .done (userH [] fun h => { h with mboxPending := some 0x80#64 })) (fun t =>
    (Tab.get? (t.core 5).handlers 0).isNone && (t.actor 5 3).mbox == 0x80)) = true := by decide

theorem test_illegal_and_draw : (got (exec .unassignedEncoding (user [])) (died 1) &&
    got (exec (.rngd 9 10 0) (user [(10, 0x1234)])) (fun t => t.reg 9 == mix64 (0x1234 ^^^ mix64 1))) = true := by decide

/-! ### Local memory and contexts (chapter 12) -/

/-- An access that passes the checks of R94. -/
def Access.ok : Access → Bool | .at_ .. => true | _ => false
def Access.faults (c : FaultCode) : Access → Bool | .fault d => decide (d = c) | _ => false

/-- Loads: the last dword of a region, one byte further, and an odd address (R94, R251). -/
theorem witness_loads : ((user []).hd.named [9, 10] && Access.ok ((user [(10, 0x9FF8)]).access 0x9FF8 8 .rd) &&
    Access.faults .bounds ((user []).access 0xB000 1 .rd) &&
    got (exec (.ldD 9 10 0 .relaxed) (((user [(10, 0x9FF8)])).writeBytes (localHome 5 0x9FF8) [1, 2, 0, 0, 0, 0, 0, 0x80]))
      (fun t => t.reg 9 == 0x8000000000000201) &&
    got (exec (.ldB 9 10 0 .relaxed) (user [(10, 0xB000)])) (died 6)) = true := by decide

theorem witness_stores : (Access.ok ((user []).access 0x9FF8 8 .wr) && (user []).hd.fences.isEmpty &&
    !(user []).here.storeHeld 5 myName 1 9 { home := localHome 5 0x9FF8, len := 8 } &&
    got (exec (.stD 9 10 0x7F8 .relaxed) (user [(9, 0x0102030405060708), (10, 0x9800)])) (fun t =>
      decide (t.readBytes (localHome 5 0x9FF8) 8 = [8, 7, 6, 5, 4, 3, 2, 1]) && t.readHome (localHome 5 0x9FF7) == 0) &&
    got (exec (.stB 9 10 0 .relaxed) (user [(10, 0x8000)])) (died 6)) = true := by decide

/-- LDX and STX: base and another context, a region without PRIVX, a tagged one (R255, R256). -/
theorem witness_context_loads : (decide (ctxOperand 1 = some 1#32) && decide (ctxOperand 0 = some 0#32) &&
    !(user []).notRecalled taggedRegion 0 && Access.ok ((user []).access 0xA000 8 .wr) && Access.ok ((user []).access 0x9000 1 .wr) &&
    got (exec (.stx .b 9 10 0 0 .relaxed) (user [(10, 0x9000)])) (died 6) &&
    got (exec (.stx .b 9 10 0 0 .relaxed) (user [(9, 0x55), (10, 0xA000)])) (fun t => t.readHome (localHome 5 0xA000) == 0x55) &&
    got (exec (.ldx .b 9 10 11 0 .relaxed) (user [(10, 0x9000), (11, 1)])) (fun t => t.reg 9 == 0)) = true := by decide

theorem witness_atomics : (Access.ok ((user []).access 0x9FF8 8 .rw) &&
    got (exec (.aadd 9 10 11 0 .relaxed) ((user [(10, 0x9008), (11, 5)]).writeBytes (localHome 5 0x9008) [7]))
      (fun t => t.reg 9 == 7 && decide (t.readBytes (localHome 5 0x9008) 2 = [12, 0])) &&
    got (exec (.acas 9 10 11 0 .relaxed) ((user [(9, 9), (10, 0x9008), (11, 7)]).writeBytes (localHome 5 0x9008) [7]))
      (fun t => t.reg 9 == 7 && decide (t.readBytes (localHome 5 0x9008) 2 = [9, 0])) &&
    got (exec (.acas 9 10 11 0 .relaxed) ((user [(9, 9), (10, 0x9008), (11, 6)]).writeBytes (localHome 5 0x9008) [7]))
      (fun t => t.reg 9 == 7 && decide (t.readBytes (localHome 5 0x9008) 2 = [7, 0]))) = true := by decide

set_option maxRecDepth 8000 in
/-- Context forms: a reserved id, the base context, an id that can be mapped, and one that cannot for want of a slot. -/
theorem witness_contexts : (decide ((userH [] fun h => { h with fresh := [(5, 1), (6, 2)] }).hd.fresh = (5, 1) :: [(6, 2)]) &&
    decide (ctxOperand 5 = some 5#32) && !(user []).self.filterBit 5 && ((user []).here.mapCtx 5).isSome &&
    (({ ctxMap := (List.range 256).map fun i => (i, { id := BitVec.ofNat 32 (i + 100), use := 1 }) } : Core).mapCtx 5).isNone &&
    got (exec (.ctxnew 9) (userH [] fun h => { h with fresh := [(5, 1), (6, 2)] })) (fun t => t.reg 9 == 5 && decide (t.hd.fresh = [(6, 2)] ∧ t.hd.handed = [(5, 1)])) &&
    got (exec (.ctxset 1 9) (user [(9, 5)])) (fun t => t.pred 1 && t.hd.ctx == 5) &&
    got (exec (.ctxpf 1 9) (user [(9, 5)])) (fun t => t.pred 1) &&
    got (exec (.ctxq false 9 10) (user [(10, 255)])) (fun t => t.reg 9 == 0) && got (exec (.ctxq false 9 10) (user [(10, 256)])) (died 6) &&
    got (exec (.ctxq true 9 10) (user [(10, 0xFFFFFFFF)])) (fun t => t.reg 9 == 0) &&
    got (exec (.ctxq true 9 10) (user [(10, 0x100000000)])) (died 6)) = true := by decide

theorem witness_context_retire : ((user []).here.outq.isEmpty && got (exec (.ctxret 9) (user [(9, 5)])) (fun t =>
    match Tab.get? t.waves 0 with | some w => decide (w.kind = .retire 5) | none => false)) = true := by decide

/-- COMMIT of an entry with a value, which the next cycle reads (R23), of one still on its way, and of none (R263). -/
theorem witness_commit : (got (exec (.commit 2) (userH [] fun h => { h with landing := [(2, { isPred := false, reg := 9, value := some 77 })] }))
      (fun t => t.hd.reg 9 == 77 && t.reg 9 == 0 && (Tab.get? t.hd.landing 2).isNone && at_ 0x8102 t) &&
    got (exec (.commit 2) (userH [] fun h => { h with landing := [(2, { isPred := true, reg := 1 })] }))
      (fun t => at_ 0x8100 t && decide (t.hd.status = .stalled 0)) &&
    got (exec (.commit 2) (user [])) (at_ 0x8102)) = true := by decide

/-! ### Control registers, fences and stewards (chapter 18) -/

theorem witness_control_reads : (((user []).crd 0x14).isSome && ((steward []).crd 0x40).isSome && !(user []).flagsBusy &&
    got (exec (.crd 9 0x00) (user [])) (fun t => t.reg 9 == myName) && got (exec (.crd 9 0x40) (user [])) (died 3) &&
    got (exec (.crdFlags 9) (userH [] fun h => { h with flags := fDZ })) (fun t => t.reg 9 == fDZ.setWidth 64) &&
    got (exec (.crdEntr 9) (steward [])) (fun t => decide (t.freeCtr = 1) && at_ 0x8102 t)) = true := by decide

theorem witness_control_writes : (decide (cwrWidth 0x06 = some 4) && decide (cwrWidth 0x28 = some 10) && evSource 0x14 && (cwrWidth 0x00).isNone &&
    got (exec (.cwr 0x06 9) (user [(9, 15)])) (fun t => t.hd.ctl.fmta == 15) &&
    got (exec (.cwr 0x28 9) (user [(9, 0x14)])) (fun t => at_ 0x8102 t) && got (exec (.cwr 0x00 9) (user [])) (died 1) &&
    got (exec (.cwrMbox 9) (user [(9, 0xC2)])) (fun t => decide (t.hd.mboxPending = some 0xC2#64)) &&
    got (exec (.cwrTrapx 9) (user [(9, 1)])) (fun t => t.self.trapx) && got (exec (.cwrWatch 9) (user [(9, 0xFFFFFFFF)])) (fun t =>
      decide (t.self.watch = 0xFFFFFFFF)) &&
    got (exec (.cwrFlags 9) (user [(9, 63)])) (fun t => t.hd.flags == 63)) = true := by decide

/-- SYSREQ without and with a service, BRK not named and named by DBG (R357, R358). -/
theorem witness_services : (decide ((user [(9, 0x40)]).checkBlock 9 true false = none) &&
    decide ((userK [(9, 0x40)] fun k => { k with cfg := { k.cfg with service := stewardName } }).here.cfg.service ≠ 0#64) &&
    !(user [(9, 0x40)]).sendBlocked &&
    got (exec (.sysreq 9 .relaxed) (user [(9, 0x40)])) (at_ 0x8102) &&
    got (exec (.sysreq 9 .relaxed) (userK [(9, 0x40)] fun k => { k with cfg := { k.cfg with service := stewardName } })) (at_ 0x8102) &&
    got (exec (.brk 1) (user [])) (at_ 0x8102) &&
    got (exec (.brk 1) (userK [] fun k => { k with cfg := { k.cfg with dbg := 0x1007#13 } })) (fun t => decide (t.hd.status = .held)) &&
    got (exec (.fence .mo) (user [])) (fun t => decide (t.hd.fences = [(.mo, 0)])) && got (exec .nop (user [])) (at_ 0x8102)) = true := by decide

theorem witness_stewards : (isSteward 65537 && !isSteward 5 && !(steward []).sendBlocked && (steward []).sysAddrOk 0x0800000000 false ==
      (steward []).sysAddrOk 0x0800000000 false &&
    (steward []).sysAddrOk 0x08000000 false && (steward []).sysAddrOk 0x08000000 true &&
    ((steward []).hd.allocPair (some 9) 1 none).isSome && ((steward []).hd.allocPair none 1 none).isSome &&
    got (exec (.strd 1 9 10) (user [])) (died 3) &&
    got (exec (.strd 1 9 10) (steward [(10, 0x08000000)])) (fun t => (Tab.get? t.here.remotes 0).isSome) &&
    got (exec (.stwr 1 10 11) (steward [(10, 0x08000000)])) (fun t => (Tab.get? t.here.remotes 0).isSome) &&
    got (exec (.keydel 1 9) { steward [(9, 4095)] with hbmKeys := [(4095, 1)] }) (fun t => t.hbmKeys.isEmpty) &&
    !nameBad myName && (steward []).isLocal myName &&
    got (exec (.prmtHold 9) (steward [(9, myName)])) (fun t => decide (t.net = [.prmt myName 1]))) = true := by decide

set_option maxRecDepth 8000 in
/-- KEYSET with a record of tenant 7 at 0x9000: its key is installed and cleared from memory (R361). -/
theorem test_keyset : (got (exec (.keyset 1 9) ((steward [(9, 0x9000)]).writeBytes (localHome 65537 0x9000) ([7, 0] ++ List.replicate 62 0 ++ [0xAB])))
    (fun t => decide (Tab.get? t.hbmKeys 7 = some (BitVec.ofNat 512 0xAB)) && t.readHome (localHome 65537 0x9040) == 0)) = true := by decide

/-- WAVE of each kind, from the four operands' limits (R362). -/
theorem witness_waves : (waveWordOk 0x40 && decide ((steward []).here.wavesOpen < 4) && decide (ctxOperand 5 = some 5#32) &&
    got (exec (.waveShootdown 9 10) (steward [(9, 0x0007FFFFFFFF0000), (10, 0x40)])) (fun t => decide (t.here.wavesOpen = 1) && (Tab.get? t.waves 0).isSome) &&
    got (exec (.waveRetire 9 10) (steward [(9, 5), (10, 0x40)])) (fun t => (Tab.get? t.waves 0).isSome) &&
    got (exec (.waveModuleLoss 9 10) (steward [(9, 1023), (10, 0x40)])) (fun t => (Tab.get? t.waves 0).isSome)) = true := by decide

/-! ### Actors and messages (chapter 13) -/

/-- Actor 4 of the same core, a pool actor of the tenant, beside actor 3; bytes placed in the core's memory. -/
def peerName : Name := State.reset.mkName 5 4 1#16 { tenant := 7#12 }
def poolName : Name := State.reset.mkName 5 6 1#16 { tenant := 7#12, pool := true }
def farName : Name := 0x0080000300010070#64
def peers (k : Core) : Core :=
  { k with actors := k.actors ++ [(4, { myActor with name := peerName }), (6, { myActor with name := poolName, pool := true })] }
def withMem (addr : Nat) (bs : List Byte) (s : State) : State := s.writeBytes (localHome 5 addr) bs

/-- The handler stands after its group with the status RUNNING. -/
def ran (t : State) : Bool := at_ 0x8102 t && decide (t.hd.status = .running 0)

/-- SEND and REPLY: a block in s9 to s13 with channel 1 and a deadline, to a peer of this core; REPLY to no one; a malformed
name. -/
theorem witness_messages : (decide ((user [(9, 0x0001000000000040)]).checkBlock 9 true false = none) &&
    decide ((user [(9, 0x40)]).checkBlock 9 false false = none) && got (exec (.reply 9 none .relaxed) (user [(9, 0x0001000000000040)])) (died 6) && decide ((user []).sendCtx none = some 0#32) &&
    !(user []).sendBlocked && (user []).destOk peerName && !(user []).destOk 1 &&
    got (exec (.send 14 9 none .relaxed) (userK [(9, 0x0001000000000040), (10, 55), (14, peerName)] peers)) (fun t =>
      ran t && t.here.outq.length + t.net.length == 1 && t.here.waits.length == 1) &&
    got (exec (.reply 9 none (.release .pd)) ((userK [(9, 0x40)] peers).modHd fun h => { h with replyName := peerName })) (fun t =>
      ran t && t.here.outq.length + t.net.length == 1 && t.here.waits.isEmpty) &&
    got (exec (.reply 9 none .relaxed) (user [(9, 0x40)])) ran && got (exec (.send 14 9 none .relaxed) (user [(9, 0x40), (14, 1)])) (died 6)) =
    true := by decide

/-- A parked block of 48 bytes at 0x9000, and a wait on a peer beside none (R270, R271). -/
def parked : List Byte := leBytes 8 peerName.toNat ++ leBytes 8 0x40 ++ leBytes 8 1 ++ leBytes 8 2 ++ leBytes 8 3 ++ leBytes 8 4
set_option maxRecDepth 8000 in
theorem witness_parked : ((match ((user [(9, 0x9000)]) |> withMem 0x9000 parked).fetchOperand 0x9000 48 16 with
      | .bytes bs => decide (bits (field bs 8 8) 8 8 = 0) && decide (bits (field bs 8 8) 6 2 ≠ 0) | _ => false) &&
    got (exec (.sendp 9 .relaxed) ((userK [(9, 0x9000)] peers) |> withMem 0x9000 parked)) (fun t => ran t && t.here.outq.length + t.net.length == 1) &&
    (oldestWait 3 peerName []).isNone &&
    got (exec (.rdln 1 9) (userK [(9, peerName)] fun k => { k with waits := [(5, { owner := 3, peer := peerName, expiry := 9 })] }))
      (fun t => t.pred 1 && t.here.waits.isEmpty) &&
    got (exec (.rdln 1 9) (user [(9, peerName)])) (fun t => !t.pred 1 && ran t)) = true := by decide

/-- SPAWN with its descriptor at 0x9000: image at the last address, the last place, SUPV; KILL with the greatest detail. -/
def spawnDesc : List Byte := leBytes 8 0 ++ leBytes 8 (2 ^ 48 - 1) ++ leBytes 8 0xFFFF ++ leBytes 4 0x40 ++ [0, 2, 0, 0]
set_option maxRecDepth 8000 in
theorem witness_spawn : ((match ((user [(10, 0x9000)]) |> withMem 0x9000 spawnDesc).fetchOperand 0x9000 32 32 with
      | .bytes bs => decide (field bs 0 8 = 0 ∧ field bs 8 8 < 2 ^ 48 ∧ field bs 16 8 < 2 ^ 26 ∧ field bs 30 2 = 0 ∧ field bs 29 1 < 16 ∧ field bs 28 1 < 3)
      | _ => false) && ((user []).hd.allocPair (some 9) 0 none).isSome &&
    got (exec (.spawn 9 10 11) ((user [(10, 0x9000)]) |> withMem 0x9000 spawnDesc)) (fun t => ran t && t.here.opens.length == 1 && t.hd.landing.length == 1) &&
    got (exec (.kill 9 10) (user [(9, peerName), (10, 255)])) (fun t => ran t && decide (t.net = [.kill peerName .killed 255 myName])) &&
    got (exec (.kill 9 10) (user [(9, myName), (10, 255)])) (fun t => t.net.isEmpty &&
      decide ((t.actor 5 3).death.map (fun d => (d.cls, d.detail)) = some (.killed, 255)))) = true := by decide

theorem witness_exit : (got (exec (.exit 9) (user [(9, 0xFF00)])) (fun t => decide ((t.actor 5 3).state = .exiting)) &&
    got (exec (.exit 9) (user [(9, 0x0105)])) (fun t => decide ((t.actor 5 3).death.map (fun d => (d.cls, d.detail)) = some (.shutdown, 1))) &&
    got (exec (.exit 9) (user [(9, 1)])) (died 6) && got (exec (.exit 9) (user [(9, 0x10000)])) (died 6) &&
    got (exec (.exit 9) (user [(9, 8)])) (died 6) && decide ((user []).self.state = .live)) = true := by decide

/-- Links and monitors: new and known peers, entries to free (R277). -/
def linkedTo (n : Name) (k : Core) : Core := { peers k with links := [(2, { peer := n, kind := .link, lslot := 3 })], monitors := [(1, { peer := n, ref := 9, kind := .watching, lslot := 3 })] }
theorem witness_links : (!nameBad peerName && peerName != 0 && peerName != myName && (user []).sameTenant peerName &&
    ((user []).here.linkFree).isSome && ((user []).here.monFree).isSome &&
    (match (user []).self.role with | .secondary _ _ => false | _ => true) &&
    got (exec (.link 9) (userK [(9, peerName)] peers)) (fun t => ran t && t.here.links.length == 1 && t.net.length == 1) &&
    got (exec (.link 9) (userK [(9, peerName)] (linkedTo peerName))) (fun t => ran t && t.net.isEmpty) &&
    got (exec (.unlink 9) (user [(9, peerName)])) (fun t => ran t && t.net.isEmpty) &&
    got (exec (.unlink 9) (userK [(9, peerName)] (linkedTo peerName))) (fun t => t.here.links.isEmpty && t.net.length == 1) &&
    got (exec (.mon 10 9) (userK [(9, peerName)] peers)) (fun t => t.reg 10 == 1 && t.here.monitors.length == 1) &&
    got (exec (.demon 9) (userK [(9, 9)] (linkedTo peerName))) (fun t => t.here.monitors.isEmpty)) = true := by decide

/-- Timers: a time to come, all entries taken, a live handle, a stale one; the greatest watchdog period; TRAPX. -/
def allTimers (k : Core) : Core := { k with timers := (List.range 256).map fun i => (i, { due := some 9, owner := 3 }) }
set_option maxRecDepth 16000 in
theorem witness_timers : (decide ((user [(10, 0x40)]).checkBlock 10 false false = none) && ((user []).here.timerFree).isSome &&
    ((userK [] allTimers).here.timerFree).isNone &&
    got (exec (.timer 9 10 15) (userK [(10, 0x40), (15, 1)] allTimers)) (fun t => ran t && t.reg 9 == 0) &&
    got (exec (.timer 9 10 15) (user [(10, 0x40), (15, 1)])) (fun t => t.reg 9 == 0x10000 && decide ((t.here.timer 0).due = some 1)) &&
    got (exec (.tcancel 1 9) (userK [(9, 0x100FF)] allTimers)) (fun t => t.pred 1 && (t.here.timer 255).gen == 2) &&
    got (exec (.tcancel 1 9) (userK [(9, 0x200FF)] allTimers)) (fun t => !t.pred 1) &&
    got (exec (.tcancel 1 9) { userK [(9, 0x100FF)] allTimers with mod := { timeNs := 1000 } }) (fun t =>
      !t.pred 1 && (t.here.timer 255).due.isNone && ran t) &&
    got (exec (.watch 9) (user [(9, 0xFFFFFFFF)])) (fun t => decide (t.self.watch = 0xFFFFFFFF)) &&
    got (exec .wkick (user [])) ran && got (exec (.trapx 9 10) (user [(10, 1)])) (fun t => t.self.trapx && t.reg 9 == 0)) = true := by decide

/-- Join counters: none and one free, given back, armed at and above its count; DEC, JOIN and FORK. -/
def joined (k : Core) : Core := { peers k with joins := [(63, { owner := myName, count := 2 })] }
theorem witness_joins : (((List.range 64).foldl (fun (j : Tab JoinCtr) i => Tab.put j i { owner := myName }) []).length == 64 &&
    got (exec (.jcget 9) (userK [] fun k => { k with joins := (List.range 64).map fun i => (i, { owner := 5 }) })) (fun t => t.reg 9 == -1#64) &&
    got (exec (.jcget 9) (userK [] joined)) (fun t => t.reg 9 == 0 && t.here.joins.length == 2) &&
    got (exec (.jcput 9) (userK [(9, 63)] joined)) (fun t => t.here.joins.isEmpty) &&
    got (exec (.arm 9 10 15) (userK [(9, 63), (10, 0x40), (15, 3)] joined)) (fun t =>
      match Tab.get? t.here.joins 63 with | some j => decide (j.target = 3) && !j.fired && j.parked.isSome | none => false) &&
    got (exec (.arm 9 10 15) (userK [(9, 63), (10, 0x40), (15, 2)] joined)) (fun t =>
      match Tab.get? t.here.joins 63 with | some j => j.fired | none => false) &&
    got (exec (.dec 9 10 .relaxed) (userK [(9, peerName), (10, 0x3FFFFFFFFF)] peers)) ran &&
    got (exec .join (user [])) ran &&
    got (exec .join (userH [] fun h => { h with join := some { core := 5, counter := 1, owner := myName } })) (fun t => t.hd.join.isNone && ran t) &&
    ((user []).here.poolPlace).isSome &&
    got (exec (.fork 9 10) (userK [(9, poolName), (10, 0x40)] peers)) (fun t => t.here.pool.length == 1 && ran t)) = true := by decide

/-- A child table at 0x9000 with one child, and the queries of R289. -/
def childTable : List Byte := [0, 3, 1, 0] ++ List.replicate 188 0 ++ leBytes 8 peerName.toNat ++ List.replicate 24 0
def supervisor (a : Actor) : Actor := { a with supv := true }
set_option maxRecDepth 16000 in
theorem witness_supervision : (tableHeadOk (childTable.take 192) && dataRegion.holds 0x9000 224 &&
    got (exec (.supv 9) ((userA [(9, 0x9000)] supervisor) |> withMem 0x9000 ([0, 3, 1]))) (fun t => ran t && decide (t.self.sup = some 0x9000)) &&
    got (exec (.rstart 9 10) ((userA [] fun a => { a with supv := true, sup := some 0x9000 }) |> withMem 0x9000 childTable)) (fun t =>
      ran t && t.hd.landing.length == 1 && t.here.results.length == 1) &&
    got (exec (.rstart 9 10) ((userA [] fun a => { a with supv := true, sup := some 0x9000 }) |> withMem 0x9000 [0, 3, 1])) (fun t =>
      ran t && t.here.starts.length == 1) &&
    got (exec (.selfq 1 9 0) (user [])) ran && got (exec (.selfq 6 9 10) (userK [(10, 63)] joined)) (fun t => t.reg 9 == 2)) = true := by decide

/-! ### Regions, windows, remote operations, copies (chapter 14) -/

/-- RALLOC with room and without; RFREE and GIVE in and beyond the cluster (R293 to R295). -/
theorem witness_regions : (!attrBad 0x1803 && decide (0x1000 % granule 1 = 0) && ((user []).here.freeHandle 3 == some 3) &&
    ((user []).placeRegion 5 0 0x400).isSome && ((user []).placeRegion 5 0 0x200000).isNone &&
    got (exec (.ralloc 9 10 11) (user [(10, 0x400), (11, 3)])) (fun t => ran t && (Tab.get? t.self.regions 3).isSome && t.here.results.length == 1) &&
    got (exec (.ralloc 9 10 11) (user [(10, 0x200000), (11, 3)])) (fun t => ran t && (Tab.get? t.self.regions 3).isNone && t.here.results.length == 1) &&
    got (exec (.rfree 9) (user [(9, 1)])) (fun t => ran t && (Tab.get? t.self.regions 1).isNone) && !(user []).regionBusy dataRegion &&
    got (exec (.rfree 9) (userA [(9, 1)] fun a => { a with regions := [(1, { dataRegion with given := true })] })) ran &&
    got (exec (.give 9 10 11) (userK [(9, peerName), (10, 1), (11, 0x40)] peers)) (fun t => ran t &&
      (match Tab.get? t.self.regions 1 with | some r => r.given | none => false) && t.here.teasel.length == 1) &&
    got (exec (.give 9 10 11) ((userK [(9, peerName), (10, 4), (11, 0x40)] peers).modActor 5 3 fun a =>
        { a with regions := [(4, { base := 0x100000, size := 0x1000, kind := 1, rd := true, wr := true })] })) (fun t => ran t &&
      (match Tab.get? t.self.regions 4 with | some r => r.given | none => false))) = true := by decide

/-- GRANT of the whole data region with every right; REVOKE and PUBLISH of the window; a key that names none. -/
def grantDesc : List Byte := leBytes 8 0x0000000000000000 ++ leBytes 4 0 ++ leBytes 4 0x1000 ++ [1, 7, 1, 0] ++ List.replicate 12 0
def window : Window := { len := 0x1000, gk := 1, owner := 3, handle := 1, live := true, ww := true, wd := true, at_ := true }
def windowed (k : Core) : Core := { k with windows := [(0, window)] }
def windowKey : Word := (user []).windowKey 5 0 window 7#12
set_option maxRecDepth 8000 in
theorem witness_windows : ((match ((user []) |> withMem 0x9000 grantDesc).fetchOperand 0x9000 32 32 with
      | .bytes bs => decide (field bs 17 1 < 16 ∧ field bs 20 12 = 0 ∧ field bs 16 1 < 32 ∧ field bs 18 1 ≤ 2 ∧ field bs 19 1 < 64 ∧ field bs 12 4 = 0x1000)
      | _ => false) &&
    got (exec (.grant 9 10) ((user [(10, 0x9000)]) |> withMem 0x9000 grantDesc)) (fun t => ran t && t.reg 9 == windowKey &&
      decide (Tab.get? t.here.windows 0 = some window)) &&
    decide ((userK [] windowed).ownWindow windowKey = some (0, window)) && decide ((user []).ownWindow windowKey = none) &&
    got (exec (.revoke 9) (userK [(9, windowKey)] windowed)) (fun t => ran t && decide (t.ownWindow windowKey = none)) &&
    got (exec (.publish false 9) (userK [(9, windowKey)] windowed)) (fun t => match Tab.get? t.here.windows 0 with | some w => w.pb | none => false) &&
    got (exec (.publish true 9) (userK [(9, windowKey)] windowed)) ran && got (exec (.revoke 9) (user [(9, windowKey)])) (died 0xB)) = true := by decide

/-- Remote forms on the window's key, at the last offset a key takes; a key with its low bits set (R304, R305). -/
theorem witness_remote : (keyOk windowKey 0xFFFFFFFF && !keyOk 1 0 && !keyOk windowKey 0x100000000 && !(user []).sendBlocked &&
    ((user []).hd.allocPair (some 9) 1 none).isSome && ((user []).hd.allocPair (some 9) 1 (some .mo)).isSome &&
    got (exec (.rst 1 9 10 11 .relaxed) (user [(9, windowKey), (10, 0x9000), (11, 16)])) (fun t => ran t && t.here.remotes.length == 1) &&
    got (exec (.rstc 31 9 10 11 (.release .mo)) (user [(9, windowKey), (10, 0x9000), (11, 0)])) (fun t => ran t && t.here.remotes.length == 1) &&
    got (exec (.rld 1 9 10 11 (.acquire .mo)) (user [(10, windowKey)])) (fun t => ran t && t.here.remotes.length == 1 && t.hd.landing.length == 2) &&
    got (exec (.ratom .cas 0 9 10 11 .relaxed) (user [(10, windowKey)])) (fun t => ran t && t.here.remotes.length == 1) &&
    got (exec (.ratom .add 0 9 10 11 .relaxed) (user [(10, windowKey)])) (fun t => ran t && t.here.remotes.length == 1) &&
    got (exec (.rld 0 9 10 11 .relaxed) (user [(10, 1)])) (died 6)) = true := by decide

/-- Work distributors at the limits of their sizes, FENCE.R with and without a predicate (R308 to R310). -/
def distributors (s : State) : State := s.modDie 0 fun d => { d with dists := (List.range 64).map fun i => (i, { busy := true, x := 1, y := 1 }) }
theorem witness_distributors : (got (exec (.wqOpen 9 10) (user [(10, 0xFFFFFFFF)])) (fun t => ran t &&
      (match Tab.get? (t.die (dieOf 5)).dists 0 with | some d => decide (d.x = 0xFFFF ∧ d.y = 0xFFFF) | none => false)) &&
    got (exec (.wqOpen 9 10) (distributors (user [(10, 0x10001)]))) (fun t => ran t && t.here.results.length == 1) &&
    got (exec (.wqQuery 9 10) (user [(10, 0)])) (fun t => ran t && t.here.remotes.length == 1) && !handleBad 0x10000003F#64 &&
    got (exec (.wqClose 10) (user [(10, 0x10000003F)])) ran && got (exec (.fenceR .pd 0) (user [])) (fun t => ran t && t.hd.fences.length == 1) &&
    got (exec (.fenceR .pd 1) (user [])) (fun t => ran t && t.here.results.length == 1) &&
    got (exec (.fenceR .pd 1) (userK [] fun k => { k with seq := 1, remotes := [(0, { seq := 0, name := myName, serial := 1, place := none, module := 0, write := true, read := false, use := .none, entry := 3, ctx := 0 })] })) (fun t => ran t && t.here.fenceWaits.length == 1)) = true := by decide

/-- Descriptors at 0x9000: 64 bytes from 0x9100 to the given destination, and the slices of DEAL and GATH at 0x9040 (R298). -/
def desc (src dst len : Nat) (sk dk : Byte) (ns aux : Nat) : List Byte :=
  leBytes 8 src ++ leBytes 8 dst ++ leBytes 4 len ++ [sk, dk, 0, 0] ++ leBytes 4 ns ++ leBytes 4 0 ++ List.replicate 16 0 ++ leBytes 8 aux ++
    List.replicate 8 0
def slices : List Byte := leBytes 8 windowKey.toNat ++ leBytes 8 0
def fromDesc (bs : List Byte) : State := (user [(9, 0x9000)]) |> withMem 0x9000 (bs ++ slices)

/-- One copy waits; the descriptor's checks pass, and its extents lie apart. -/
def copying (t : State) : Bool := ran t && t.here.teasel.length == 1
def descFine (k : CopyKind) (bs : List Byte) : Bool :=
  let s := fromDesc bs
  let d := readDesc bs
  let src := s.extent d.sk d.src (srcLen k d) .rd
  let dst := s.extent d.dk d.dst (dstLen k d) .wr
  (match s.fetchOperand 0x9000 64 64 with | .bytes x => decide (x = bs) | _ => false) && descKinds k d && descReservedOk k bs d &&
    !d.msg && !d.ljc && (match src with | .bad _ => false | _ => true) && (match dst with | .bad _ => false | _ => true) &&
    (match src.span?, dst.span? with | some a, some b => !a.overlaps b | _, _ => true) &&
    (src.locked ++ dst.locked).all (fun sp => !s.here.interlocked myName 1 sp) &&
    (match s.reserveFor k d with | .ok _ => true | _ => false)

set_option maxRecDepth 16000 in
theorem witness_copies : (descFine .cpy (desc 0x9100 0x9FC0 64 0 0 0 0) && descFine .cpy (desc 0x9100 0x9FC0 0 0 0 0 0) &&
    descFine .cpyc (desc 0x9100 windowKey.toNat 64 0 3 0 0) && descFine (.cpye .encE4M3) (desc 0x9100 0x9200 64 0 0 0 0) &&
    descFine .deal (desc 0x9100 0 64 0 3 1 0x9040) && descFine .gath (desc 0 0x9200 64 3 0 1 0x9040) &&
    (readSlices 1 slices).isSome && !descKinds .cpy (readDesc (desc 0x9100 windowKey.toNat 64 0 3 0 0)) &&
    (user []).here.teasel.isEmpty) = true := by decide

set_option maxRecDepth 16000 in
theorem test_copy_issue : (got (exec (.cpy 9) (fromDesc (desc 0x9100 0x9FC0 64 0 0 0 0))) copying &&
    got (exec (.cpy 9) (fromDesc (desc 0x9100 0x9FC0 0 0 0 0 0))) (fun t => ran t && t.here.teasel.isEmpty) &&
    got (exec (.cpyc 9 .relaxed) (fromDesc (desc 0x9100 windowKey.toNat 64 0 3 0 0))) copying &&
    got (exec (.cpye .encE4M3 9) (fromDesc (desc 0x9100 0x9200 64 0 0 0 0))) copying &&
    got (exec (.cpy 9) (fromDesc (desc 0x9100 0 64 0 3 0 0))) (died 6)) = true := by decide

set_option maxRecDepth 16000 in
theorem test_slice_issue : (got (exec (.deal 9 .relaxed) (fromDesc (desc 0x9100 0 64 0 3 1 0x9040))) copying &&
    got (exec (.gath 9) (fromDesc (desc 0 0x9200 64 3 0 1 0x9040))) copying) = true := by decide

/-- MCST of 256 bytes to group 0xFFFF, with and without a result line, and PULL of a line of it (R306, R307). -/
def withRes (bs : List Byte) : List Byte := bs.take 56 ++ leBytes 8 0x9FC0
set_option maxRecDepth 16000 in
theorem witness_group_forms : (descFine .mcst (desc 0x9100 0xFFFF 256 0 4 0 0) && descFine .mcst (withRes (desc 0x9100 0xFFFF 256 0 4 0 0)) &&
    descFine .pull (desc 0xFFFF 0x9200 256 4 0 0 0x100) &&
    (match (user []).checkLocal 5 3 0x9FC0 64 .wr 64 with | .ok (_, r) => !r.tagged | _ => false)) = true := by decide

set_option maxRecDepth 16000 in
theorem test_group_forms : (got (exec (.mcst 9 .relaxed) (fromDesc (desc 0x9100 0xFFFF 256 0 4 0 0))) (fun t => ran t && t.here.apert.length == 1) &&
    got (exec (.mcst 9 .relaxed) (fromDesc (withRes (desc 0x9100 0xFFFF 256 0 4 0 0)))) (fun t => ran t && t.here.apert.length == 1) &&
    got (exec (.pull 9) (fromDesc (desc 0xFFFF 0x9200 256 4 0 0 0x100))) (fun t => ran t && t.here.apert.length == 1)) = true := by decide
/-! ### Vector engine, matrix unit, summary unit (chapters 15 to 17) -/

/-- A shape record of rank 1 or 2, packed. -/
def shapeRec (base : Nat) (ty : Byte) (n m : Nat) : List Byte :=
  leBytes 4 base ++ [ty, if m = 0 then 0 else 1, 0, 0] ++ leBytes 2 n ++ leBytes 2 m ++ leBytes 4 0 ++
    leBytes 4 (if m = 0 then 0 else n * elemSize ty.toNat) ++ List.replicate 12 0
def shapeWord (base : Nat) (ty : Byte) (n m : Nat) : Option (BitVec 256) := some (BitVec.ofNat 256 (leNat (shapeRec base ty n m)))

set_option maxRecDepth 8000 in
/-- DLD at the end of a region with the greatest base, with a base of a register, and of a record with a reserved bit (R313). -/
theorem witness_shape_loads : (Access.ok ((user []).access 0x9FE0 32 .rd) && shapeOk (shapeRec 0xFFFFFFFC 7 65535 0) && !shapeOk (shapeRec 0x9001 7 4 0) &&
    got (exec (.dld 15 9 0) ((user [(9, 0x9FE0)]) |> withMem 0x9FE0 (shapeRec 0xFFFFFFFC 7 65535 0))) (fun t =>
      ran t && decide (t.hd.shapes[15] = shapeWord 0xFFFFFFFC 7 65535 0)) &&
    got (exec (.dldBase 15 9 0 10) ((user [(9, 0x9FE0), (10, 0x9000)]) |> withMem 0x9FE0 (shapeRec 1 7 65535 0))) (fun t =>
      ran t && decide (t.hd.shapes[15] = shapeWord 0x9000 7 65535 0)) &&
    got (exec (.dld 15 9 0) ((user [(9, 0x9FE0)]) |> withMem 0x9FE0 (shapeRec 0x9001 7 4 0))) (died 8)) = true := by decide

/-- Shapes: FP32, bytes and INT32 of 4 elements, one element, none, the 16 slices of VXCH, and two of rank 2. -/
def withShapes (l : List (Nat × Word)) : State := userH l fun h =>
  { h with shapes := ([shapeWord 0x9000 7 4 0, shapeWord 0x9100 7 4 0, shapeWord 0x9200 7 4 0, shapeWord 0x9300 5 4 0, shapeWord 0x9400 9 4 0,
      shapeWord 0x9500 9 4 0, shapeWord 0x9600 9 4 0, shapeWord 0x9700 7 1 0, shapeWord 0x9800 7 0 0, shapeWord 0x9900 8 16 0,
      shapeWord 0x9A00 7 2 3, shapeWord 0x9B00 7 3 2].zipIdx.foldl (fun v x => v.set! x.2 x.1) (Vector.replicate 16 none)) }
def vecked (t : State) : Bool := ran t && t.here.vec.length == 1
def VecCheck.good : VecCheck → Bool | .ok .. => true | _ => false

set_option maxRecDepth 16000 in
theorem witness_vectors : ((withShapes []).here.vec.isEmpty && ((withShapes []).hd.shapesOf [0, 1, 2]).isSome &&
    ((withShapes []).hd.shapesOf [0, 15]).isNone &&
    (VecCheck.good ((withShapes []).checkVec .add (shapeOf ((shapeWord 0x9000 7 4 0).getD 0)) [shapeOf ((shapeWord 0x9100 7 4 0).getD 0)])) &&
    !(withShapes []).engineHeld [] [{ home := localHome 5 0x9000, len := 16 }] &&
    (match (withShapes []).reserveShape (shapeOf ((shapeWord 0x9000 7 4 0).getD 0)) with | .ok _ => true | _ => false) &&
    got (exec (.vadd 0 15 (.shape 2)) (withShapes [])) (died 8) && got (exec (.vadd 8 8 (.shape 8)) (withShapes [])) (fun t => ran t && t.here.vec.isEmpty) &&
    got (exec (.vadd 0 4 (.shape 2)) (withShapes [])) (died 9)) = true := by decide

set_option maxRecDepth 16000 in
theorem test_vector_binary : (([.vadd 0 1 (.shape 2), .vsub 0 1 (.scalar 9), .vmul 0 1 (.shape 2), .vfma 0 1 (.shape 2), .vdiv 0 1 (.scalar 9)] : List Instr).all
    fun i => got (exec i (withShapes [])) vecked) = true := by decide

set_option maxRecDepth 16000 in
theorem test_vector_compare : (([.vmin 0 1 (.shape 2), .vmax 0 0 (.shape 2), .vand 4 5 (.shape 6), .vcmp .lt 3 1 (.shape 2), .vsel 0 3 1 (.shape 2)] : List Instr).all
    fun i => got (exec i (withShapes [])) vecked) = true := by decide

set_option maxRecDepth 16000 in
theorem test_vector_bits : (([.vor 4 5 (.scalar 9), .vxor 4 5 (.shape 6), .vshl 4 5 (.shape 6), .vshr 4 5 (.scalar 9), .vsra 4 4 (.shape 6)] : List Instr).all
    fun i => got (exec i (withShapes [])) vecked) = true := by decide

set_option maxRecDepth 16000 in
theorem test_vector_unary : (([.vabs 0 1, .vneg 4 5, .vexp 0 1, .vlog 0 1, .vsqrt 0 1, .vrsq 0 1, .vrcp 0 1] : List Instr).all
    fun i => got (exec i (withShapes [])) vecked) = true := by decide

set_option maxRecDepth 16000 in
theorem test_vector_shapes : (([.vtanh 0 1, .vsig 0 1, .vcvt 4 1, .vrsum 7 1, .vrmax 7 1, .vrmin 7 1, .vtrn 10 11, .vperm 0 1 4] : List Instr).all
    fun i => got (exec i (withShapes [])) vecked) = true := by decide

set_option maxRecDepth 16000 in
theorem test_vector_fill : (([.vsel 0 3 1 (.scalar 9), .vfill 0 9, .rngv 4 9 10] : List Instr).all fun i => got (exec i (withShapes [])) vecked) = true := by decide

/-- VXCH with its table of 16 empty keys at 0x9D00, the last offset of its control word, and a reserved bit set (R327). -/
theorem witness_exchange : ((withShapes []).xchKeyOk 0 && decide (bits 0xFFFFFFF8 39 25 = 0 ∧ bits 0xFFFFFFF8 0 3 = 0) &&
    VecCheck.good ((withShapes []).checkVec .xch (shapeOf ((shapeWord 0x9900 8 16 0).getD 0)) []) &&
    got (exec (.vxch 9 10 11) (withShapes [(10, 0x9D00), (11, 0xFFFFFFF8)])) vecked &&
    got (exec (.vxch 9 10 11) (withShapes [(10, 0x9D00), (11, 0x8000000000)])) (died 6)) = true := by decide

/-- Matrix forms: FP32-accumulating products of two 16-bit operands, and tile forms; an empty pair of formats (R334). -/
def matted (t : State) : Bool := ran t && t.here.matq.length == 1
theorem witness_matrix : ((user []).here.matq.isEmpty && decide (mulKind 0 0 = some .f32) && decide (mulKind 0 1 = none) &&
    (mulA false {} 16 0x9000 0).strideOk && (mulB {} 16 0x9200 0).aligned &&
    (mulA false {} 16 0x9000 0x00200020).strideOk && ((user []).checkRanges [(0x9000, 512), (0x9200, 512)]).isNone &&
    got (exec (.mma 1 9 10 11) (user [(9, 0x9000), (10, 0x9200)])) matted && got (exec (.mmat 1 9 10 11) (user [(9, 0x9000), (10, 0x9200), (11, 0x00200020)])) matted &&
    got (exec (.mma 1 9 10 11) (userH [(9, 0x9000), (10, 0x9200)] fun h => { h with ctl := { fmtb := 1 } })) (died 9)) = true := by decide

theorem test_sparse : (([.msp 1 9 10 11, .mspt 1 9 10 11] : List Instr).all fun i =>
    got (exec i (userH [(9, 0x9000), (10, 0x9200)] fun h => { h with ctl := { sparse := 0x9402 } })) matted) = true := by decide

theorem test_tiles : (([.mzero 1, .mcp 1 2, .madd .f32 1 2, .mtrn 1 2, .mtrnD 1 2] : List Instr).all fun i => got (exec i (user [])) matted) = true := by decide

/-- MLD of an image and MST of one, FP32 (R338). -/
theorem witness_images : (let img := imageOf .f32 { fmtc := 7 } 0x9000 0
    (imageFault (loadFormats .f32) img 0).isNone && ((user []).checkRange img.addr img.extent .rd).isNone &&
    decide (((user []).checkLocal 5 3 img.addr img.extent .wr 1).toOption = some (1, dataRegion)) &&
    (match (user []).reserveParts (user []).hdView 1 dataRegion img.parts with | .ok _ => true | _ => false) &&
    got (exec (.mld .f32 1 10 11) (userH [(10, 0x9000)] fun h => { h with ctl := { fmtc := 7 } })) matted &&
    got (exec (.mst .f32 false 1 10 11) (userH [(10, 0x9000)] fun h => { h with ctl := { fmtc := 7 } })) matted) = true := by decide

/-- Summary forms on 0x90000 to 0x93000 of a wider region (R343, R344). -/
def summing (l : List (Nat × Word)) : State := (withShapes l).modActor 5 3 fun a =>
  { a with regions := (5, { base := 0x90000, size := 0x4000, rd := true, wr := true }) :: a.regions }
def summed (t : State) : Bool := ran t && t.here.sumq.length == 1
def sumRegs : List (Nat × Word) := [(9, 0x90000), (10, 0x92000), (11, 0xFFFFFFFF)]
theorem witness_summaries : ((sumAddr [(0x90000, 64), (0x92000, 64)]).isNone && !extentsMeet 0x90000 4224 0x92000 4224 && SumType.qsk.admits 7 &&
    SumType.hhl.admits 4 && SumType.dcr.kfmtOk 0 && SumType.qsk.kfmtOk 7 && ((summing []).hd.allocPair (some 9) 0 none).isSome &&
    ((summing []).checkNeeds [(0x90000, 4224, .rw), (0x92000, 4224, .rd)]).isNone && (summing []).hd.landFree 1 &&
    !(summing []).engineHeld [(summing []).spanAt 0x92000 4224] [(summing []).spanAt 0x90000 4224] &&
    (match (summing []).reserveExtent 0x90000 4224 with | .ok _ => true | _ => false) &&
    ([.qski 9 0, .hhi 9 4, .dci 9 0] : List Instr).all fun i => got (exec i (summing sumRegs)) summed) = true := by decide

theorem test_summary_forms : (([.qskm 9 10, .hhm 9 10, .dcm 9 10, .qskn 9 11, .hhn 4 9 11, .dcn 0 9 11, .dce 9 10, .qskq 9 10 11, .qskr 9 10 11] :
    List Instr).all fun i => got (exec i (summing sumRegs)) summed) = true := by decide

theorem test_heavy_query : got (exec (.hhq 9 10 12) (summing ((12, 0x93000) :: sumRegs))) (fun t => summed t && t.hd.landing.length == 1) = true := by decide

/-- Operations at the head of their queues (R319, R339, R344). -/
def opOf (body : EngBody) : EngOp :=
  { id := 9, seq := 0, entry := 3, name := myName, rec_ := 0, serial := 1, tenant := 7, ctx := 0, begun := true, body := body }
set_option maxRecDepth 8000 in
set_option exponentiation.threshold 10000 in
theorem test_tiles_complete : (got (exec (.matrixOpComplete 5) (userK [] fun k => { k with matq := [opOf (.mat .zero 1 0 0 0 0)] })) (fun t =>
      t.here.matq.isEmpty && decide (t.hd.acc[1] = 0)) &&
    got (exec (.matrixOpComplete 5) ((userK [] fun k => { k with matq := [opOf (.mat .cp 1 2 0 0 0)] }).modHd fun h =>
      { h with acc := h.acc.set 2 5#8192 })) (fun t => t.here.matq.isEmpty && decide (t.hd.acc[1] = 5)) &&
    (userK [] fun k => { k with matq := [opOf (.mat .cp 1 2 0 0 0)] }).here.fencesMet 0 5 (opOf (.mat .cp 1 2 0 0 0))) = true := by decide

/-- R122, R127: a cell that no queued operation reaches any more is no longer held; it has the base line, as each line of an
extent has. -/
theorem test_reserved_cells_end : (let cell (l : Nat) (r : Bool) : Cell := { entry := 3, handle := 1, line := l, ctx := 5#32, reserved := r, data := if r then [] else [7] }
    let s := userK [] fun k => { k with cells := [cell 0 true, cell 1 false] }
    (s.settleCells 5).here.cells.map fun c => (c.line, c.reserved, c.data.length)) = [(0, false, 64), (1, false, 1)] := by decide
set_option maxRecDepth 16000 in
/-- VFILL of 4 elements, the last answer of VXCH, DCE of a summary (R319, R344). -/
theorem witness_engines : (got (exec (.vectorOpComplete 5) (userK [] fun k =>
      { k with vec := [opOf (.vec .fill ((shapeWord 0x9000 7 4 0).getD 0) [] 0x3F800000 0)] })) (fun t =>
      t.here.vec.isEmpty && decide (t.readBytes (localHome 5 0x900C) 4 = [0, 0, 0x80, 0x3F]) && t.readHome (localHome 5 0x9010) == 0) &&
    got (exec (.vectorOpComplete 5) (userK [] fun k =>
      { k with vec := [{ opOf (.vec .xch ((shapeWord 0x9000 8 16 0).getD 0) [] 0 0) with sent := true }] })) (fun t => t.here.vec.isEmpty) &&
    got (exec (.summaryOpComplete 5) ((summing []).modHere fun k => { k with sumq := [opOf (.sum .dce 0x90000 0 0 0)] })) (fun t =>
      t.here.sumq.isEmpty)) = true := by decide

/-- Teasel: 64 bytes within the region, 64 bytes into a window, and a given region (R110, R111). -/
def copyOp (d : CopyDesc) : EngOp := opOf (.copy (if d.dk = 3 then .cpyc else .cpy) d)
def copyState (d : CopyDesc) : State := (userK [] fun k => { k with teasel := [copyOp d] }) |> withMem 0x9100 [1, 2, 3]
def giveOp : EngOp := opOf (.transfer ((user []).transferOf peerName default 1 dataRegion false))
set_option maxRecDepth 16000 in
theorem witness_copy_completes : (!({ src := 0x9100, dst := 0x9FC0, len := 64 } : CopyDesc).windowed &&
    ({ src := 0x9100, dst := windowKey.toNat, len := 64, dk := 3 } : CopyDesc).windowed &&
    (user []).here.canComplete { src := 0x9100, dst := 0x9FC0, len := 64 } &&
    got (exec (.copyComplete 5 9) (copyState { src := 0x9100, dst := 0x9FC0, len := 64 })) (fun t =>
      t.here.teasel.isEmpty && decide (t.readBytes (localHome 5 0x9FC0) 4 = [1, 2, 3, 0])) &&
    got (exec (.copyComplete 5 9) (copyState { src := 0x9100, dst := windowKey.toNat, len := 64, dk := 3 })) (fun t =>
      t.here.teasel.any fun o => o.sent) &&
    got (exec (.copyComplete 5 9) (userK [] fun k => { k with teasel := [giveOp] })) (fun t => t.here.teasel.isEmpty)) = true := by decide

/-! ### Mailboxes, dispatch, pre-emption, stealing, time (chapter 02) -/

/-- A message to the peer on channel 1 or 0, and what is in flight or queued beside it. -/
def note : Msg := { (default : Msg) with dest := peerName, chan := 1, hidx := 1, a0 := 5, sender := myName, tenant := 7 }
def flying (l : List Packet) : State := { userK [] peers with net := l }

set_option maxRecDepth 16000 in
theorem witness_arrivals : ((flying []).awake 5 && (flying []).alive 5 peerName && !(flying []).alive 5 (peerName + 16) && !ctxBad 0 &&
    ((flying []).core 5).placeFor 0 == some .chip && (((flying []).core 5).placeFor 1).isSome && (((flying []).core 5).poolPlace).isSome &&
    decide (note.dest ≠ State.reset.fw.svcName) && (flying [.msg note]).flowFirst 0 (.msg note) &&
    decide (((flying []).core 5).queued 4 < mboxDepth ((flying []).actor 5 4).mbox) &&
    got (exec (.messageArrival 0) (flying [.msg note])) (fun t => t.net.isEmpty && (t.core 5).queue.length == 1) &&
    got (exec (.poolArrival 0) (flying [.msg { note with dest := poolName }])) (fun t => t.net.isEmpty && (t.core 5).pool.length == 1) &&
    got (exec (.messageArrival 0) (flying [.msg { note with dest := poolName, chan := 0 }])) (fun t => (t.core 5).pool.isEmpty && (t.core 5).queue.length == 1) &&
    got (exec (.poolArrival 0) (flying [.msg { note with dest := poolName + 65536 }])) (fun t => t.net.isEmpty && (t.core 5).pool.isEmpty) &&
    got (exec (.messageArrival 0) (flying [.msg { note with dest := peerName + 16 }])) (fun t => t.net.isEmpty && (t.core 5).queue.isEmpty) &&
    got (exec (.counterAdvance 0) { userK [] joined with net := [.advance myName 63 0xFFFFFFFF peerName] }) (fun t =>
      match Tab.get? (t.core 5).joins 63 with | some j => decide (j.count = 0xFFFFFFFF) && t.net.isEmpty | none => false)) = true := by decide

/-- The note is queued for actor 4; its table entry holds a header at 0x8200, none, or a bad one (R45 to R47). -/
def waiting (m : Msg) (entry : Nat) : State :=
  (userK [] fun k => { peers k with queue := [{ entry := 4, msg := m }] }) |> withMem 0x8004 (leBytes 4 entry) |>
    withMem 0x8200 (leBytes 8 0x5A00000000000020)
set_option maxRecDepth 16000 in
theorem witness_dispatch : (decide (((waiting note 0x8200).choice 5).map (fun c => (c.cand, c.entry)) = some (.queued 0, 4)) &&
    (match (waiting note 0x8200).header 5 4 1 with | .ok h => decide (h.start = 0x8208 ∧ h.regs = 32) | _ => false) &&
    ((waiting note 0x8200).core 5).freeSlot == some 1 && Tab.lowestFree ((waiting note 0x8200).core 5).handlers 12 == some 1 &&
    (((waiting note 0x8200).core 5).mapCtx 0).isSome &&
    got (exec (.dispatch 5) (waiting note 0x8200)) (fun t => match Tab.get? (t.core 5).handlers 1 with
      | some g => decide (g.status = .running 1 ∧ g.pc = 0x8208 ∧ g.count = 32) && g.reg 3 == myName && g.reg 4 == 5 && g.reg 31 == 0
      | none => false)) = true := by decide

set_option maxRecDepth 16000 in
theorem witness_dispatch_refuses : ((match (waiting note 0).header 5 4 1 with | .empty => true | _ => false) &&
    (match (waiting note 0x8201).header 5 4 1 with | .bad a => decide (a = 0x8201) | _ => false) &&
    got (exec (.dispatch 5) (waiting note 0)) (fun t => (t.core 5).queue.isEmpty && (t.core 5).handlers.length == 1) &&
    got (exec (.dispatch 5) (waiting note 0x8201)) (fun t => decide ((t.actor 5 4).death.map (fun d => (d.cls, d.detail)) = some (.fault, 0x0E)))) =
    true := by decide

/-- The budget of class 0 at its end, a pre-empted handler that may go on, and a slice of tenant 7 that has ended. -/
def sliced (k : Core) : Core := { k with slices := [(0, 0x04001007)] }
theorem witness_preempt : (got (exec (.budgetExhausted 5 0) (userH [] fun h => { h with used := 16384 })) (fun t =>
      decide (t.hd.status = .preempted ∧ t.hd.effChan = 3 ∧ t.hd.pc = 0x8100)) &&
    decide (((userH [] fun h => { h with status := .preempted }).choice 5).map (·.cand) = some (.handler 0)) &&
    got (exec (.resumption 5) (userH [] fun h => { h with status := .preempted, used := 16384 })) (fun t => decide (t.hd.status = .running 0 ∧ t.hd.used = 0)) &&
    !sliceOpen 0x04001007 && decide (sliceLen 0x04001007 = 1 ∧ sliceTenant 0x04001007 = 7) &&
    got (exec (.sliceEnd 5) { userK [] sliced with mod := { timeNs := 1000 } }) (fun t =>
      decide ((t.core 5).sliceStart = 1000 ∧ t.hd.status = .preempted))) = true := by decide

theorem witness_recall_ends : ((match (user []).performRecall 5 3 5 fun _ => false with | .done _ => true | _ => false) &&
    got (exec (.dispatchRecallDone 5 0) (userK [] fun k => { k with recalls := [{ entry := 3, ctx := 5, why := .dispatch }] })) (fun t =>
      (t.core 5).recalls.isEmpty)) = true := by decide

/-- Core 6 of the same cluster has the same pool actor at entry 6 (R57). -/
def thieves (f g : Core → Core) : State :=
  { (userK [] fun k => f (peers k)) with cores := [(5, f (peers (myCore []))), (6, g (peers {}))], dies := [(0, { cycles := 16 })] }
def pooled (k : Core) : Core := { k with pool := [{ entry := 6, msg := { note with dest := poolName } }] }
set_option maxRecDepth 16000 in
theorem witness_stealing : (inDomain 0 5 6 && ((thieves pooled id).actor 6 6).pool && ((thieves pooled id).core 6).poolPlace.isSome &&
    got (exec (.stealRequestArrival 0) { thieves pooled id with net := [.stealReq 5 6] }) (fun t => (t.core 5).pool.isEmpty &&
      decide (t.net = [.stealReply 6 (some { note with dest := poolName }) 6])) &&
    got (exec (.stealReplyArrival 0) { thieves id id with net := [.stealReply 6 (some { note with dest := poolName }) 6] }) (fun t =>
      (t.core 6).pool.length == 1)) = true := by decide

theorem test_steal_asks : got (exec (.stealRequest 6 7) (thieves id fun k => { k with noCandSince := some 0, lastVictim := 6 })) (fun t =>
    (t.core 6).stealing && decide (t.net = [.stealReq 7 6])) = true := by decide +kernel

/-- A timer due now, a watchdog of 1 us, and a reply wait that has run out (R269, R279, R281). -/
theorem witness_times : (got (exec (.timerExpiry 5 255) { userK [] (fun k => { k with timers := [(255, { due := some 1000, owner := 3, msg := note })] }) with mod := { timeNs := 1000 } })
      (fun t => decide (((t.core 5).timer 255).due = none ∧ ((t.core 5).timer 255).gen = 2)) &&
    got (exec (.watchdogExpiry 5 3) { userA [] (fun a => { a with watch := 1 }) with mod := { timeNs := 1000 } })
      (fun t => decide ((t.actor 5 3).death.map (·.cls) = some .unreachable)) &&
    got (exec (.replyDeadlineExpiry 5 63) { userK [] (fun k => { k with waits := [(63, { owner := 3, peer := peerName, expiry := 1000 })] }) with mod := { timeNs := 1000 } })
      (fun t => (t.core 5).waits.isEmpty && decide (t.net = [.kill peerName .unreachable 0 myName])) &&
    decide (({ user [] with mod := { timeNs := 1999 } } : State).tickNs = 1000)) = true := by decide
/-! ### Deaths to their end, Yarrow, Campion (chapter 03) -/

/-- Packets on the way to a core 5 with links and monitors of actor 3 to the peer. -/
def wired (f : Actor → Actor) (l : List Packet) : State := { (userK [] (linkedTo peerName)).modActor 5 3 f with net := l }
def downWord : Word := signalWord .killed 9 0 false 0
def downNormal : Word := signalWord .normal 0 0 false 0
def downMonitor : Word := signalWord .normal 0 0 true 9

theorem witness_signals : ((wired id []).alive 5 myName && ((wired id []).core 5).signalEntry 3 peerName downWord == some 2 &&
    ((wired id []).core 5).signalEntry 3 peerName downMonitor == some 1 &&
    decide (classOf (downWord.toNat % 8) = .killed ∧ classOf (downNormal.toNat % 8) = .normal) && !downWord.getLsbD 3 && downMonitor.getLsbD 3 &&
    got (exec (.exitSignalArrival 0) (wired id [.signal myName peerName downWord 0 0 .link 0])) (fun t =>
      decide ((t.actor 5 3).death.map (fun d => (d.cls, d.detail)) = some (.killed, 9))) &&
    got (exec (.exitSignalArrival 0) (wired id [.signal myName peerName downNormal 0 0 .link 0])) (fun t =>
      decide ((t.actor 5 3).state = .live) && (t.core 5).links.isEmpty && t.net.isEmpty) &&
    got (exec (.exitSignalArrival 0) (wired (fun a => { a with trapx := true }) [.signal myName peerName downWord 7 8 .link 0])) (fun t =>
      match (t.core 5).queue with | [q] => decide (q.entry = 3 ∧ q.msg.hidx = 1) && q.msg.a0 == peerName && q.msg.a3 == 8 | _ => false) &&
    got (exec (.exitSignalArrival 0) (wired id [.signal myName peerName downMonitor 0 0 .watched 9])) (fun t =>
      (t.core 5).queue.length == 1 && (t.core 5).monitors.isEmpty)) = true := by decide

theorem witness_kills : (got (exec (.killArrival 0) (flying [.kill peerName .killed 255 myName])) (fun t =>
      decide ((t.actor 5 4).death.map (fun d => (d.cls, d.detail)) = some (.killed, 255))) &&
    !(flying []).alive 5 (peerName + 16) && !(flying []).mortal 5 (peerName + 16) .killed &&
    got (exec (.killArrival 0) ({ (flying [.kill peerName .killed 255 myName]).exitOne 5 4 .shutdown 0 0 none with net := [.kill peerName .killed 255 myName] }))
      (fun t => decide ((t.actor 5 4).death.map (fun d => (d.cls, d.detail)) = some (.killed, 255))) &&
    got (exec (.killArrival 0) (flying [.kill (peerName + 16) .killed 255 myName])) (fun t => t.net.isEmpty && decide ((t.actor 5 4).state = .live))) =
    true := by decide

/-- Actor 4 has died, its supervisor is actor 3 (R69, R75). -/
def dead4 (a : Actor) : Actor := { a with state := .exiting, death := some { cls := .killed, detail := 0, w2 := 0 }, supName := myName }
def resolvingState (now : Nat) (l : List Packet) : State :=
  { userK [] (fun k => { k with resolving := [{ name := peerName, sup := myName, death := { cls := .killed, detail := 0, w2 := 0 }, restarts := 0, links := [], asked := 0 }] })
    with mod := { timeNs := now }, net := l }
theorem witness_reclamation : (let s := (userK [] peers).modActor 5 4 dead4
    !((s.core 5).opsLeft 4 peerName) && !((s.core 5).walksLeft 4) &&
    got (exec (.regionsReturned 5 4) s) (fun t => decide ((t.actor 5 4).state = .free) && (t.actor 5 4).regions.isEmpty &&
      (t.core 5).resolving.length == 1 && decide (t.net = [.resReq myName peerName .killed 0 5])) &&
    (user []).ownCore 5 == some 5 &&
    got (exec (.resolutionAnswer 0) (resolvingState 0 [.resAns 5 peerName 0 0])) (fun t => (t.core 5).resolving.isEmpty && t.net.isEmpty) &&
    got (exec (.resolveTmo 5 0) (resolvingState 1000000 [])) (fun t => (t.core 5).resolving.isEmpty)) = true := by decide

/-- Actor 3 supervises; the dead name is that of its child 0, restarted after every death; its rate is 3 (R79 to R81). -/
def yarrow (l : List Packet) : State :=
  { (userA [] fun a => { a with supv := true, sup := some 0x9000 }) |> withMem 0x9000 childTable with net := l }
set_option maxRecDepth 16000 in
theorem witness_yarrow_decides : (((yarrow []).supTable 5 3).isSome && ((yarrow []).core 5).events.isEmpty && ((yarrow []).core 5).answered.isEmpty &&
    decide (((yarrow []).child 5 3 0x9000 0).name = peerName) && (yarrow []).tableOk 5 3 0x9000 childTable && callsRestart 0 .normal &&
    ((yarrow []).rateLimit 5 3 childTable).isSome &&
    got (exec (.resolutionRequest 0) (yarrow [.resReq myName peerName .normal 0 5])) (fun t =>
      (t.core 5).events.any (fun e => e.supName == myName && e.todo.contains 0) && (t.core 5).asks.length == 1) &&
    !(flying []).alive 5 (peerName + 16) &&
    got (exec (.resolutionRequest 0) (flying [.resReq (peerName + 16) myName .normal 0 5])) (fun t => decide (t.net = [.resAns 5 myName 0 0]))) =
    true := by decide

/-- An image of one region with nothing in it, at address 0 of tenant 7, whose pages the gateway of stack 0 knows (R220). -/
def image : List Byte := leBytes 4 0x4D49444F ++ [1, 0, 1, 0] ++ leBytes 4 80 ++ [0, 0xFF, 0, 0] ++ List.replicate 48 0 ++ leBytes 4 0x400 ++
  leBytes 2 5 ++ List.replicate 10 0
def imaged (s : State) : State :=
  { s with hbmKeys := [(7, 77)], mgates := [(0, { tlb := [{ tenant := 7, page := 0, large := true, frame := 0, kten := 7, wr := true }] })] }.physWrite
    77 hbmBase image
def wish (place : BitVec 26) : SpawnReq :=
  { (default : SpawnReq) with fromCore := 5, id := 4, spawner := myName, tenant := 7, image := 0, ilen := 80, place := place }
def starting (st : Start) (s : State) : State := s.modCore 5 fun k => { k with starts := [st] }

set_option maxRecDepth 16000 in
theorem witness_yarrow_starts : (let p := (user []).endpoint 5
    epCore p == 5 && ((user []).core 5).lowestEntry == some 0 &&
    got (exec (.spawnRequestArrival 0) { user [] with net := [.spawn (wish (BitVec.ofNat 26 p))] }) (fun t => (t.actor 5 0).claimed &&
      (t.core 5).starts.length == 1 && decide (t.net = [.spawnAck 5 4 (State.reset.mkName 5 0 1#16 (wish 0).birth) 7])) &&
    got (exec (.yarrowRestartStart 5 0) (starting { why := .rstart 0 1 0, supEntry := 3, supName := myName, child := 0 }
      ((yarrow []) |> withMem (0x9000 + 192) (leBytes 8 0 ++ leBytes 8 0 ++ leBytes 8 p)))) (fun t =>
      (t.actor 5 0).claimed && (t.core 5).starts.any (·.loading))) = true := by decide

def loading : Start := { why := .spawn (wish 0), core := some 5, entry := 8, loading := true }
theorem witness_images_load : ((match (imaged (user [])).bear 5 8 { tenant := 7 } 0 80 with | .ok u => decide ((u.actor 5 8).state = .live) | _ => false) &&
    (match (imaged (user [])).bear 5 8 { tenant := 7 } 0 79 with | .rejected => true | _ => false) &&
    got (exec (.yarrowImageLoaded 5 0) (starting loading (imaged (user [])))) (fun t =>
      t.net.contains (.spawnName 5 4 (t.actor 5 8).name 0 false 7) && decide ((t.actor 5 8).state = .live))) = true := by decide +kernel

theorem witness_image_rejected : got (exec (.yarrowImageLoaded 5 0) (starting { loading with why := .spawn { wish 0 with ilen := 79 } } (imaged (user [])))) (fun t =>
    decide (t.net = [.spawnName 5 4 0 2 false 7]) && !(t.actor 5 8).claimed) = true := by decide +kernel

/-- An open spawn of identity 4 (R274). -/
def spawning (l : List Packet) : State :=
  { userK [] (fun k => { k with opens := [(4, { spawner := myName, rec_ := 0, serial := 1, idx := 3, linkIdx := none, module := 0, since := 0 })] }) with net := l }
theorem witness_spawn_answers : (got (exec (.spawnAckArrival 0) (spawning [.spawnAck 5 4 peerName 7])) (fun t =>
      (match Tab.get? t.here.opens 4 with | some o => o.acked | none => false) && t.net.isEmpty) &&
    got (exec (.spawnAckArrival 0) (spawning [.spawnAck 5 4 0 7])) (fun t => t.here.opens.isEmpty &&
      decide (t.here.results = [{ rec_ := 0, serial := 1, idx := 3, value := 0 }])) &&
    got (exec (.spawnNameArrival 0) (spawning [.spawnName 5 4 peerName 0 false 7])) (fun t => t.here.opens.isEmpty &&
      decide (t.here.results = [{ rec_ := 0, serial := 1, idx := 3, value := peerName }]))) = true := by decide

/-- Link and monitor requests of the peer to actor 3, answers to actor 3, and withdrawals (R70, R71). -/
theorem witness_link_packets : (got (exec (.linkRequestArrival 0) (flying [.linkReq false peerName myName 0 0 5 7])) (fun t =>
      decide (Tab.get? (t.core 5).links 0 = some { peer := peerName, prst := 5, kind := .link, lslot := 3 } ∧
        t.net = [.linkAns false peerName myName 0 true 0 0])) &&
    got (exec (.linkRequestArrival 0) (flying [.linkReq true peerName myName 9 0 5 7])) (fun t =>
      decide (Tab.get? (t.core 5).monitors 0 = some { peer := peerName, ref := 9, prst := 5, kind := .watched, lslot := 3 })) &&
    got (exec (.linkAnswerArrival 0) (wired id [.linkAns false myName peerName 0 true 11 12])) (fun t =>
      decide (Tab.get? (t.core 5).links 2 = some { psup := 11, peer := peerName, prst := 12, kind := .link, lslot := 3 })) &&
    got (exec (.linkAnswerArrival 0) (wired id [.linkAns true myName peerName 9 true 11 12])) (fun t =>
      decide ((Tab.get? (t.core 5).monitors 1).map (·.psup) = some 11)) &&
    got (exec (.unlinkArrival 0) (wired id [.unlink false peerName myName 0])) (fun t => (t.core 5).links.isEmpty && t.net.isEmpty)) = true := by decide

/-- A held message of actor 3 with hash 6, its twin's hash equal, other, and missing (R87, R88). -/
def campionState (now : Nat) (l : List Packet) : State :=
  { userK [] (fun k => { k with campion := [{ entry := 3, n := 2, hash := 6, since := 0, pc := 0x8100, out := { seq := 0, name := myName, serial := 1, body := .packet (.msg note) } }] })
    with mod := { timeNs := now }, net := l }
theorem witness_campion : (((campionState 0 []).core 5).hashes.isEmpty &&
    got (exec (.replicaHashArrival 0) (campionState 0 [.hash myName 2 6])) (fun t => (t.core 5).campion.isEmpty && decide ((t.actor 5 3).state = .live)) &&
    got (exec (.replicaHashArrival 0) (campionState 0 [.hash myName 2 7])) (died 0x0C) &&
    got (exec (.campionTimeout 5 0) (campionState 100000 [])) (died 0x0C)) = true := by decide

theorem witness_walks : got (exec (.overflowWalkEnd 5 0) (userK [] fun k => { k with walks := [{ entry := 3, kind := .all }] })) (fun t =>
    (t.core 5).walks.isEmpty) = true := by decide
/-! ### Remote operations at their target and their answers (chapters 04, 05, 08, 14) -/

/-- Operations on window 0 of core 5, granted to every sender of the tenant, from a core of this module. -/
def opened (k : Core) : Core := { k with windows := [(0, { window with gk := 2 })] }
def opAt (kind : RemKind) (off len : Nat) (data : List Byte) : RemoteOp :=
  { kind := kind, key := windowKey, off := off, len := len, data := data, operand := 0x77, expected := 0, counted := false, sender := peerName,
    tenant := 7, ctx := 0, group := none, core := 9, rid := 2 }
def arriving (op : RemoteOp) : State := { userK [] opened with net := [.remote op] }
def answersOp (st : CopyStatus) (bs : List Byte) (t : State) : Bool := decide (t.net = [.response 9 2 7 st bs])

set_option maxRecDepth 16000 in
theorem witness_remote_landing : ((arriving (opAt .load 0 8 [])).keyCore windowKey == some 5 &&
    (match (arriving (opAt .load 0 8 [])).checkWindow 5 (opAt .load 0xFF8 8 []) with | .ok w => decide (w.owner = 3 ∧ w.handle = 1) | _ => false) &&
    (match (arriving (opAt .load 0 8 [])).checkWindow 5 (opAt .load 0xFF9 8 []) with | .reject => true | _ => false) &&
    !(arriving (opAt .load 0 8 [])).remoteBehind [] (.remote (opAt .load 0 8 [])) &&
    decide ((List.range 8).all fun i => localHome 5 (0x9FF8 + i) = localHome 5 0x9FF8 + i) &&
    got (exec (.remoteOpArrival 0) (arriving (opAt .store 0xFF8 8 [1, 2, 3, 4, 5, 6, 7, 8]))) (fun t =>
      decide (t.readBytes (localHome 5 0x9FF8) 8 = [1, 2, 3, 4, 5, 6, 7, 8]) && answersOp .ok [] t) &&
    got (exec (.remoteOpArrival 0) (arriving (opAt .load 0xFF8 8 []))) (answersOp .ok (List.replicate 8 0)) &&
    got (exec (.remoteOpArrival 0) (arriving (opAt .swap 8 8 []))) (fun t => t.readHome (localHome 5 0x9008) == 0x77 && answersOp .ok (List.replicate 8 0) t) &&
    got (exec (.remoteOpArrival 0) (arriving (opAt .load 0xFF9 8 []))) (answersOp .window [])) = true := by decide

/-- A second store of the same sender to a byte of the first waits behind it; one to other bytes does not (R186, R191). -/
theorem test_remote_order : (let two (a b : RemoteOp) : State := { userK [] opened with net := [.remote a, .remote b] }
    got (exec (.remoteOpArrival 1) (two (opAt .store 0 8 (List.replicate 8 1)) (opAt .store 4 8 (List.replicate 8 2)))) (fun t => t.net.length == 2 && t.readHome (localHome 5 0x9004) == 0) &&
    got (exec (.remoteOpArrival 1) (two (opAt .store 0 8 (List.replicate 8 1)) (opAt .store 8 8 (List.replicate 8 2)))) (fun t => t.readHome (localHome 5 0x9008) == 2)) = true := by
  decide

/-- A window whose owner has died (R109). -/
theorem witness_dead_window : (let s := { userK [] (fun k => { k with windows := [(0, { window with gk := 2, live := false, dd := true })] }) with
      net := [.remote (opAt .load 0 8 [])] }
    (match s.checkWindow 5 (opAt .load 0 8 []) with | .dead => true | _ => false) && got (exec (.remoteOpArrival 0) s) (answersOp .dead [])) = true := by decide

/-- Answers, results, limits, the outbound queue and a held landing at core 5. -/
def remoteOf (use : RemUse) : Remote :=
  { seq := 0, name := myName, serial := 1, place := none, module := 0, write := false, read := true, use := use, left := some 0, entry := 3 }
def asked (now : Nat) (l : List Packet) : State :=
  { userK [] (fun k => { k with remotes := [(2, remoteOf (.land 0 1 (some 6) none))] }) with mod := { timeNs := now }, net := l }
def outEnt : OutEnt := { seq := 0, name := myName, serial := 1, body := .packet (.msg note) }
theorem witness_answers : (got (exec (.remoteResponseArrival 0) (asked 0 [.response 5 2 7 .ok (leBytes 8 0x1234)])) (fun t =>
      t.here.remotes.isEmpty && t.here.results.any (fun r => decide (r.serial = 1 ∧ r.idx = 6) && r.value == 0x1234)) &&
    got (exec (.remoteTimeout 5 2) (asked 1000000 [])) (fun t => t.here.remotes.isEmpty) &&
    got (exec (.resultArrival 5 0) ((userK [] fun k => { k with results := [{ rec_ := 0, serial := 1, idx := 6, value := 9 }] }).modHd fun h =>
        { h with landing := [(6, { isPred := false, reg := 9 })] })) (fun t => t.here.results.isEmpty &&
      (match Tab.get? t.hd.landing 6 with | some l => decide (l.value = some 9) | none => false) && t.reg 9 == 0) &&
    (user []).here.outReady 0 5 outEnt && !storeBehind 5 [] outEnt &&
    got (exec (.outboundRelease 5 0) (userK [] fun k => { peers k with outq := [outEnt] })) (fun t => t.here.outq.isEmpty && decide (t.net = [.msg note])) &&
    got (exec (.heldLandingRelease 5 0) (userK [] fun k => { k with heldLandings := [{ op := opAt .store 0 8 [], entry := 8, handle := 1, region := dataRegion, addr := 0x9000, jc := none }] }))
      (fun t => t.here.heldLandings.isEmpty)) = true := by decide

/-- Members' stores and reads, answers to the issuer, a transfer, and a distributor (R433, R434, R100, R309). -/
def switched (s : State) : State := { s with ports := [(23, { up := true, isSwitch := true })], fabricKeys := [(7, 5)] }
def published (k : Core) : Core := { k with windows := [(0, { window with gk := 1, pb := true })] }
def transferOp : Transfer := { (user []).transferOf peerName note 1 dataRegion true with zeroCopy := true }
def distState (d : Distributor) (l : List Packet) : State := { (user []).modDie 0 (fun x => { x with dists := [(63, d)] }) with net := l }
def distKey (d : Distributor) : Word := (user []).distHandle 0 63 d
def asking (r : Nat) (l : List Packet) : State :=
  { userK [] (fun k => { k with remotes := [(r, remoteOf (.copy r 0))],
                                apert := [{ opOf (.copy .mcst { src := 0x9100, dst := 5, len := 64, dk := 4 }) with id := r }] }) with net := l }
set_option maxRecDepth 16000 in
theorem witness_group_traffic : (got (exec (.multicastArrival 0) { userK [] opened with net := [.mcastMember 2 { opAt .store 0xFF8 8 [1, 2, 3, 4, 5, 6, 7, 8] with group := some 5 }] })
      (fun t => decide (t.readBytes (localHome 5 0x9FF8) 8 = [1, 2, 3, 4, 5, 6, 7, 8])) &&
    (match (userK [] published).winStep1 5 windowKey with | .ok w => w.pb && w.wd && decide (0xF00 + 256 ≤ w.len) | _ => false) &&
    got (exec (.pullReadArrival 0) (switched { userK [] published with net := [.pullRead 5 2 windowKey 0xF00 7 9 2] })) (fun t => t.out.length == 1 && t.net.isEmpty) &&
    got (exec (.mergedAckArrival 0) (asking 4 [.mergedAck 5 4 .ok 1 1 0 false])) (fun t => t.here.remotes.isEmpty && t.here.apert.isEmpty) &&
    got (exec (.transferComplete 0) (flying [.transfer transferOp])) (fun t => decide (((t.actor 5 4).regions.map (·.1)).contains 3)) &&
    got (exec (.wqQueryArrival 0) (distState { busy := true, x := 1, y := 1, owner := myName, tenant := 7 } [.wqQuery (distKey {}) 7 5 2])) (fun t =>
      match t.net with | [.response 5 2 7 .ok _] => decide ((Tab.get? (t.die 0).dists 63).map (·.next) = some 1) | _ => false) &&
    got (exec (.wqQueryArrival 0) (distState { busy := true, x := 1, y := 1, next := 1, owner := myName, tenant := 7 } [.wqQuery (distKey {}) 7 5 2])) (fun t =>
      decide (t.net = [.response 5 2 7 .ok (leBytes 8 (2 ^ 64 - 1))])) &&
    got (exec (.wqCloseArrival 0) (distState { busy := true, x := 1, y := 1, owner := myName, tenant := 7 } [.wqClose (distKey {}) myName 5 2])) (fun t =>
      decide ((Tab.get? (t.die 0).dists 63).map (fun d => (d.busy, d.gen)) = some (false, 2)))) = true := by decide

set_option maxRecDepth 16000 in
theorem test_reduced_line : got (exec (.reducedLineArrival 0) (userK [] (fun k =>
    { k with remotes := [(4, remoteOf (.copy 4 0))], apert := [{ opOf (.copy .pull { src := 5, dst := 0x9200, len := 256, sk := 4 }) with id := 4 }] })
    |> fun s => { s with net := [.reduced 5 4 .ok (List.replicate 256 1) 2 2] })) (fun t => t.here.remotes.isEmpty && t.here.apert.isEmpty) = true := by decide

/-! ### Contexts behind the programs, waves, sleep (chapters 05, 08, 26) -/

/-- Core 6 holds only what is given. -/
def lonely (k : Core) (now : Nat) : State := { State.reset with cores := [(6, k)], mod := { timeNs := now } }
def cell : Cell := { entry := 3, handle := 2, line := 0xA000, ctx := 5, data := List.replicate 64 1 }
def evicting : State := (userK [] fun k => { k with evicts := [{ cell := cell }] }).modActor 5 3 fun a => { a with ova := 0, ovlen := 0x10000 }
set_option maxRecDepth 16000 in
theorem witness_contexts_behind : ((evicting.freeOffset 5 3 5).isSome && evicting.here.evicts.length == 1 &&
    got (exec (.prefetchFill 5 0) (userK [] fun k => { k with recalls := [{ entry := 3, ctx := 5, why := .prefetch 1 }] })) (fun t => t.here.recalls.isEmpty) &&
    ({} : Core).idle && got (exec (.coreSleep 6) (lonely { idleSince := some 0, cfg := { sleept := 10 } } 10000)) (fun t => (t.core 6).asleep) &&
    (user []).packetCores (.msg note) == [5] &&
    got (exec (.coreWake 5) { userK [] (fun k => { k with asleep := true, ctxMap := [(1, { id := 5 })] }) with net := [.msg note] }) (fun t =>
      !(t.core 5).asleep && (t.core 5).waking && (t.core 5).ctxMap.isEmpty && t.net.length == 1) &&
    got (exec (.wakeComplete 6) (lonely { waking := true } 0)) (fun t => !(t.core 6).waking) &&
    got (exec (.wakingQuery 6 5) (lonely { waking := true, wakeAsk := [5, 6] } 0)) (fun t => decide ((t.core 6).wakeAsk = [6]))) = true := by decide

theorem test_write_back : got (exec (.writeBackComplete 5 0) evicting) (fun t => t.here.evicts.isEmpty) = true := by decide +kernel

theorem witness_tag_refill : (let s := (lonely { fresh := List.replicate 15 9 } 0).modDie (dieOf 6) fun d => { d with tagCtrl := 0x40001 }
    (s.die (dieOf 6)).tagOn && got (exec (.tagRefill 6) s) (fun t => decide (15 ≤ (t.core 6).fresh.length ∧ (t.core 6).refill + ((t.core 6).fresh.length - 15) = 32))) =
    true := by decide +kernel

/-- A wave of each kind at core 5, at gateway 15, and with nowhere left to go (R132, R204, R205, R362). -/
def waved (w : Wave) : State :=
  { userK [] (fun k => { k with wavesOpen := 1 }) with
    waves := [(3, w)], nextWave := 4, mgates := [(15, { tlb := [{ tenant := 7, page := 0, large := true, frame := 0, wr := true }] })] }
def tookAt (place : Nat) (t : State) : Bool := match Tab.get? t.waves 3 with | some w => !w.todo.contains place && decide (w.took = 1 ∧ w.skipped = 0) | none => false
theorem witness_waves_travel : (got (exec (.retireWaveArrival 3 5) (waved { kind := .retire 5, todo := [5] })) (tookAt 5) &&
    got (exec (.shootdownArrival 3 (gatePlace 15)) (waved { kind := .shootdown 7 0 true, todo := [gatePlace 15] })) (fun t => tookAt (gatePlace 15) t && (t.mgate 15).tlb.isEmpty) &&
    got (exec (.moduleLossWaveArrival 3 5) (waved { kind := .moduleLoss 1023, todo := [5] })) (tookAt 5) &&
    got (exec (.retireWaveComplete 3) (waved { kind := .retire 5, todo := [] })) (fun t => t.waves.isEmpty) &&
    got (exec (.shootdownComplete 3) (waved { kind := .shootdown 7 0 true, todo := [], met := some 0 })) (fun t => t.waves.isEmpty) &&
    got (exec (.waveCompleteMessage 3) (waved { kind := .moduleLoss 1023, steward := some (5, myName, 0, 0x40, 0), todo := [], met := some 0 })) (fun t =>
      t.waves.isEmpty && (t.core 5).wavesOpen == 0 && t.fw.declared.contains 1023)) = true := by decide

/-- A steward's accesses to core 5 and pre-emption requests (R359, R360, R363). -/
def accessTo (tbl : BitVec 8) (idx : BitVec 24) (w : Option Word) : State :=
  { user [] with net := [.steward { target := 5, tbl := tbl, idx := idx, write := w, core := 65537, rid := 2 }] }
/-- A flit with a packet has left on a port. -/
def told (port : Nat) (p : Packet) (t : State) : Bool := t.out.any fun o => match o with | .flit q _ _ x => q == port && decide (x = p) | _ => false
def backs (tbl idx : Nat) (v : Word) (t : State) : Bool := t.tableRead 5 tbl idx == v && decide (t.net = [.response 65537 2 0 .ok []])
theorem witness_accesses : ((user []).accessFirst 0 { target := 5, tbl := 1, idx := 0, write := none, core := 65537, rid := 2 } &&
    got (exec (.stewardAccessArrival 0) (accessTo 0x08 5 none)) (fun t => decide (t.net = [.response 65537 2 0 .ok (leBytes 8 1000)])) &&
    got (exec (.coreConfigurationWrite 0) (accessTo 0x08 5 (some 65535))) (backs 0x08 5 65535) &&
    got (exec (.tagAllocatorWrite 0) (accessTo 0x09 0 (some 0x7FFFF))) (backs 0x09 0 0x7FFFF) &&
    got (exec (.membershipWrite 0) (accessTo 0x0A 1040 (some 5))) (backs 0x0A 1040 5) &&
    got (exec (.pageTableRootWrite 0) (accessTo 0x0C 0x7F (some 0xFFFFE0001))) (backs 0x0C 0x7F 0xFFFFE0001) &&
    got (exec (.sliceTableWrite 0) (accessTo 0x07 3 (some 0x0E71FFF))) (fun t => (t.core 5).sliceWrites.length == 1 && (t.core 5).slices.length == 1) &&
    !headerValid 7 && (user []).headerOk 1 7 &&
    got (exec (.groupTableWrite 0) (switched (accessTo 0x0B 1024 (some 7)))) (fun t => (t.group 1).withdrawing && decide ((t.group 1).awaits = [23]) &&
      told 23 (.manage 0 0 (.withdraw 1)) t) &&
    got (exec (.prmtArrival 0) { user [] with net := [.prmt myName 0] }) (fun t => decide (t.hd.status = .preempted) && t.net.isEmpty) &&
    got (exec (.prmtArrival 0) { userH [] (fun h => { h with status := .held }) with net := [.prmt myName 2] }) (fun t => decide (t.hd.status = .preempted))) =
    true := by decide
/-! ### The edge gateways, power, management (chapters 27 to 29) -/

/-- Port 23 is up, module 1023 of the pod lies behind it. -/
def fabric (p : Port) (now : Nat) : State :=
  { user [] with ports := [(23, { p with up := true })], masks := [(1023, 0x800000#24)], fabricKeys := [(7, 1)], mod := { timeNs := now } }
def flitOf (m : Msg) (src : Nat) (good : Bool) : WireFlit :=
  { port := 23, header := mkHeader 0 (src * 65536) 7 0 7 23 0 0 0 0 0, authentic := good, body := .msg m, acked := 1 }
def managed (src : Nat) (m : Mgmt) : WireFlit :=
  { port := 23, header := mkHeader 0 (src * 65536) 0 12 7 23 0 0 0 0 0, authentic := true, body := .manage 0 src m }
def bufferAt (n : Nat) : CombineBuf := { core := 5, port := 23, key := windowKey, line := 0, since := n, counted := false, ctx := 0, ops := [opAt .store 0 8 [1]] }
theorem witness_fabric : (got (exec (.combineFlush 0) { fabric {} 0 with combine := [bufferAt 0], mod := { cycle := 32 } }) (fun t => t.combine.isEmpty) &&
    got (exec (.maskHoldExpiry 0) { fabric {} 5 with holds := [{ module := 1023, until_ := 5 }] }) (fun t => t.holds.isEmpty) &&
    hdrKind (flitOf note 1023 true).header == 0 && hdrLw (flitOf note 1023 true).header == 7 && hdrSrc (flitOf note 1023 true).header / 65536 == 1023 &&
    (match (Packet.msg note).route with | .module m _ => m == 0 | _ => false) && (fabric {} 0).verifies (flitOf note 1023 true) &&
    !(fabric {} 0).lostNow 1023 && (Packet.msg note).lwOk 7 &&
    got (exec (.flitReceive (flitOf note 1023 true)) (fabric { unacked := [(0, 0), (1, 0)] } 0)) (fun t => decide (t.net = [.msg note]) &&
      decide ((t.port 23).unacked = [(1, 0)])) &&
    got (exec (.flitReceive (flitOf note 1023 false)) (fabric {} 0)) (fun t => t.net.isEmpty && Tab.get? (t.die (linkDie 23)).diag 0x102 == some 1) &&
    got (exec (.flitReceive { flitOf note 1023 true with header := 0 }) (fabric {} 0)) (fun t => Tab.get? (t.die (linkDie 23)).diag 0x103 == some 1) &&
    got (exec (.flitReceive (flitOf note 1023 true)) { fabric {} 0 with lost := [1023] }) (fun t => t.net.isEmpty &&
      Tab.get? (t.die (linkDie 23)).diag 0x107 == some 1)) = true := by decide

theorem witness_ports : (let down (t : State) : Bool := !(t.port 23).up && t.masks.all fun m => !m.2.getLsbD 23
    let told (w : Word) (t : State) : Bool := t.out.contains (.pldm w)
    got (exec (.portDown 23) (fabric { unacked := [(0, 0)] } 10000)) down &&
    got (exec (.portDown 23) (fabric { unacked := [(0, 1)] } 10000)) (fun t => (t.port 23).up) &&
    got (exec (.flitCrcFail 23) (fabric { retries := 14 } 0)) (fun t => (t.port 23).up && decide ((t.port 23).retries = 15)) &&
    got (exec (.flitCrcFail 23) (fabric { retries := 15 } 0)) down &&
    got (exec (.laneRotation 23) (fabric { spare := some 8 } 10000000)) (fun t => decide ((t.port 23).rotation = 1 ∧ (t.port 23).spare = some 0)) &&
    got (exec (.laneRetire 23 8 ⟨109, 15⟩) (fabric {} 0)) (fun t => decide ((t.port 23).retired = [8]) && told 0x011708000000006D t) &&
    got (exec (.laneRetire 23 8 ⟨141, 10⟩) (fabric {} 0)) (fun t => decide ((t.port 23).retired = [8])) &&
    got (exec (.laneRetire 23 8 ⟨110, 15⟩) (fabric {} 0)) (fun t => (t.port 23).retired.isEmpty && told 0x031708000000006E t) &&
    got (exec (.laneRetire 23 8 ⟨141, 14⟩) (fabric {} 0)) (fun t => (t.port 23).retired.isEmpty && told 0x031708000000008D t) &&
    got (exec (.laneRetire 23 8 ⟨141, 15⟩) (fabric {} 0)) (fun t => t.out.isEmpty) &&
    got (exec (.laneDegrade 23) (fabric { retired := [8], spare := none } 0)) (fun t => decide ((t.port 23).lanes = 4)) &&
    got (exec (.linkBringUp 22 true [1022]) (fabric {} 0)) (fun t => (t.port 22).up && (t.port 22).isSwitch &&
      (match Tab.get? t.masks 1022 with | some m => m.getLsbD 22 | none => false))) = true := by decide

/-- Heartbeats, suspicion and its probes on ports 22 and 23, their answer and their limit, and the loss of a module (R435,
R436). -/
def suspicious (now : Nat) (l : List Packet) : State :=
  { fabric {} now with heard := [(1023, 0)], masks := [(1023, 0xC00000#24)], ports := [(22, { up := true, isSwitch := true }), (23, { up := true })], net := l }
theorem witness_pod : (got (exec .heartbeatSend (fabric {} 50000)) (fun t => told 23 (.manage 1023 0 .heartbeat) t && decide (t.mod.beatAt = 50000)) &&
    got (exec (.heartbeatArrival (managed 1023 .heartbeat)) (fabric {} 9)) (fun t => Tab.get? t.heard 1023 == some 9) &&
    got (exec (.heartbeatArrival (managed 1023 .heartbeat)) { fabric {} 9 with lost := [1023] }) (fun t => t.heard.isEmpty) &&
    got (exec (.suspect 1023) (suspicious 200000 [])) (fun t => decide (t.net = [.firmware 0 0 (.suspect 1023)] ∧ Tab.get? t.fw.suspects 1023 = some 200000)) &&
    got (exec (.flitReceive (managed 1023 .probeAns)) { fabric {} 9 with fw := { State.reset.fw with probes := [(1023, 0)] } }) (fun t => t.fw.probes.isEmpty) &&
    got (exec (.probeTimeout 1023) { suspicious 100000 [] with fw := { State.reset.fw with probes := [(1023, 0)] } }) (fun t => t.isLost 1023 &&
      told 22 (.manage 0 0 (.loss 1023)) t && (Tab.get? t.waves 0).isSome) &&
    got (exec (.selfLost 7) { fabric {} 200000 with heard := [(1023, 0)] }) (fun t => decide ((t.actor 5 3).state = .exiting)) &&
    got (exec (.timeSync 5) (fabric {} 1006)) (fun t => t.mod.unsync && decide (t.freeCtr = 1))) = true := by decide

theorem witness_probes : (let s := { suspicious 200009 [.firmware 0 0 (.suspect 1023)] with agenda := [.inner .firmwareMessage 0 0], boot := { state := .running false } }
    let u := { s with fw := { s.fw with suspects := [(1023, 200000)] } }
    got (step u) (fun t => Tab.get? t.fw.probes 1023 == some 200009 && told 22 (.manage 1023 0 .probe) t && told 23 (.manage 1023 0 .probe) t)) = true := by
  decide +kernel

def part (l : List (BitVec 32)) (b : BitVec 1024) : Partial := { elems := l, count := 1, bitmap := b }
theorem test_combining : got (exec (.routerCombining 5 { op := .int32Add, mean := false, live := 3, rank := 0, acc := part [1, -1] 1, child := part [2, 1] 2 }) (user [])) (fun t =>
    decide (t.out = [.combined 5 { elems := [3, 0], count := 2, bitmap := 3 }])) = true := by decide +kernel

/-- R201, R366, R376: while a copy of the core waits its partial does too; with its child dead the root's mean is over its own
count. -/
theorem test_combining_waits : (let c : CombineStep := { op := .fp32Add, mean := true, live := 3, rank := 0, acc := part [0x40000000] 1, child := { elems := [], count := 0, bitmap := 0 } }
    got (exec (.routerCombining 5 c) (userK [] fun k => { k with teasel := [giveOp] })) (fun t => t.out.isEmpty) && c.ok &&
    got (exec (.routerCombining 5 c) (user [])) (fun t => decide (t.out = [.combined 5 (part [0x40000000] 1)]))) = true := by decide +kernel

/-- Die 15 with its goal and its clamp; the input rail (R441 to R448). -/
def powered (d : Die) (now : Nat) : State := { user [] with dies := [(15, d)], mod := { timeNs := now } }
theorem witness_power : (got (exec (.dvfsChangeDone 15) (powered { target := some 4, changeAt := 9 } 9)) (fun t => decide ((t.die 15).point = 4)) &&
    got (exec (.capWrite 15 0) (powered { cap := 300, capPoint := 0 } 9)) (fun t => decide ((t.die 15).cap = 0 ∧ (t.die 15).capPoint = 4)) &&
    got (exec (.lidSample 15 7 1201) (powered {} 9)) (fun t => (t.die 15).clamped && decide ((t.die 15).goal = 0)) &&
    got (exec (.lidSample 15 7 1200) (powered {} 9)) (fun t => !(t.die 15).clamped) &&
    got (exec (.clampRelease 15) (powered { clamped := true, coolSince := some 0 } 10000000)) (fun t => !(t.die 15).clamped) &&
    got (exec (.lidSample 15 7 1121) (powered { coolSince := some 0, releasedAt := some 6, cycles := 6 } 9)) (fun t => (t.die 15).clamped) &&
    got (exec (.lidSample 15 7 1121) (powered { releasedAt := some 5, cycles := 6 } 9)) (fun t => !(t.die 15).clamped) &&
    got (exec (.clampRelease 15) { powered { clamped := true, coolSince := some 0 } 10000000 with mod := { timeNs := 10000000, clampAll := true } })
      (fun t => (t.die 15).clamped) &&
    got (exec (.inputLow 37999 1000) (powered {} 9)) (fun t => t.mod.clampAll && (t.die 15).clamped) &&
    got (exec (.inputLimit 6000000) (powered {} 9)) (fun t => t.mod.limitAt.isNone) &&
    got (exec (.inputLimit 6000001) (powered {} 9)) (fun t => decide (t.mod.limitAt = some 9 ∧ (t.die 15).inputPoint = 1)) &&
    got (exec (.railSample 0x3F 750 1000 2000) (powered {} 9)) (fun t => Tab.get? t.mod.rails 0x3F == some 0x3F02EE003E8007D0) &&
    got (exec (.railSample 0x1F 70000 2000000 2000000) (powered {} 9)) (fun t => Tab.get? t.mod.rails 0x1F == some 0x1FFFFFFFFFFFFFFF)) = true := by decide

theorem witness_management : (got (exec (.energyApportion 15 5) (powered {} 1000000)) (fun t => decide ((t.die 15).energyAt = 1000000 ∧ (t.die 15).energyRest = 5)) &&
    got (exec (.tsatWrite 900) (user [])) (fun t => t.mod.tsat == 900) && got (exec (.feedWrite 3) (user [])) (fun t => t.mod.feed == 3) &&
    sourceCode 0x10C && got (exec (.dieCounterSelect 19 15 0x10C) (user [])) (fun t => Tab.get? (t.die 19).selectors 15 == some 0x10C) &&
    got (exec (.mctpControl (.setEndpointId 8)) (user [])) (fun t => t.mod.eid == 8) &&
    got (exec (.mctpControl .getEndpointId) (user [])) (fun t => decide (t.out = [.mctp "endpoint id" [0]])) &&
    got (exec (.mctpControl (.pldmBase (.setTid 9))) (user [])) (fun t => t.mod.tid == 9) &&
    got (exec (.mctpControl (.pldmBase .getTypes)) (user [])) (fun t => decide (t.out = [.mctp "PLDM types" [0, 2, 5]])) &&
    got (exec (.pldmSensorRead 0x13F) { user [] with mod := { rails := [(0x3F, 0x3F02A300001000FF)] } }) (fun t =>
      decide (t.out = [.sensor 0x13F [{ value := 255, per := 10 }, { value := 675, per := 1000 }, { value := 1, per := 100 }]])) &&
    got (exec (.pldmSensorRead 0x28F) (powered { lids := [(0, 1208)] } 0)) (fun t => decide (t.out = [.sensor 0x28F [{ value := -8, per := 16 }]]))) = true := by
  decide

/-- Core 5 of die 0 has issued and been busy for tenant 7 and for tenant 9, one cycle in four; its die's energy is shared out
(R450). -/
def worked : State := userK [] fun k => { k with groups := 3, engineCycles := 1, busyCycles := [(7, 3), (9, 1)] }
theorem witness_energy : (let s := { worked with mod := { timeNs := 1000000 } }
    decide (Tab.Sorted s.cores) && s.cores.all (fun k => decide (Tab.Sorted k.2.energy ∧ Tab.Sorted k.2.energyDue ∧ Tab.Sorted k.2.busyCycles)) &&
    got (exec (.energyApportion 0 10) s) (fun t => t.energyOf 0 + (t.die 0).energyRest == 10 && (t.die 0).energyRest == 0 &&
      ((Tab.get? (t.core 5).energy 7).getD 0 + (Tab.get? (t.core 5).energyDue 7).getD 0) == 7 &&
      ((Tab.get? (t.core 5).energy 9).getD 0 + (Tab.get? (t.core 5).energyDue 9).getD 0) == 2)) = true := by decide

/-! ### Host gateway, service, attestation, reset (chapters 25, 26, 28) -/

/-- Function 1 serves tenant 7; firmware runs and knows the tenant. -/
def hosted (f : HostFn) (r : TenantRec) (l : List Packet) : State :=
  { imaged (user []) with
    hostFns := [(1, { f with enabled := true, bound := some 7 })], net := l, boot := { state := .running false }, fw := { State.reset.fw with tenants := [(7, r)] } }
def sendBytes : List Byte := leBytes 8 myName.toNat ++ leBytes 8 0x42 ++ List.replicate 48 0
theorem witness_host_send : ((hosted {} { vf := 1 } []).fnExists 1 && ({} : HostFn).accepts true && !({ confidential := true } : HostFn).accepts true &&
    ((hosted {} { vf := 1 } []).refusal 1 0xFC0 sendBytes).isNone && ((hosted {} { vf := 1 } []).refusal 1 1 sendBytes) == some 1 &&
    got (exec (.sendApertureWrite ⟨1, false⟩ 0xFC0 sendBytes) (hosted {} { vf := 1 } [])) (fun t => (t.hostFn 1).sending.length == 1) &&
    got (exec (.sendApertureWrite ⟨1, false⟩ 0xFC0 sendBytes) (hosted { sending := List.replicate 64 note } { vf := 1 } [])) (fun t => (t.hostFn 1).fstat.getLsbD 1) &&
    got (exec (.sendApertureWrite ⟨1, false⟩ 1 sendBytes) (hosted {} { vf := 1 } [])) (fun t => decide (bits (t.hostFn 1).fstat.toNat 8 4 = 1)) &&
    got (step { hosted { sending := [note] } { vf := 1 } [] with agenda := [.tick 1] }) (fun t => (t.hostFn 1).sending.isEmpty && t.net.contains (.msg note))) =
    true := by decide

theorem witness_host_registers : (got (exec (.fstatClear ⟨1, false⟩ 1) (hosted { fstat := 3 } { vf := 1 } [])) (fun t => (t.hostFn 1).fstat == 2) &&
    got (exec (.hqheadWrite ⟨1, false⟩ 9) (hosted {} { vf := 1 } [])) (fun t => (t.hostFn 1).hqhead == 9) &&
    got (exec (.hostRegisterWrite ⟨1, false⟩ 0x20 0xFFFFFFFFFFFFF000) (hosted {} { vf := 1 } [])) (fun t => (t.hostFn 1).hqbase == 0xFFFFFFFFFFFFF000) &&
    got (exec (.hostRegisterWrite ⟨1, false⟩ 0x20 0x1000) (hosted { hqctl := 1 } { vf := 1 } [])) (fun t => (t.hostFn 1).hqbase == 0 && (t.hostFn 1).fstat.getLsbD 3) &&
    got (exec (.hostRegisterWrite ⟨1, false⟩ 0x40 0xFFFFFFE00000) (hosted {} { vf := 1 } [])) (fun t => (t.hostFn 1).apbase == 0xFFFFFFE00000) &&
    got (exec (.tdispRequest 1 .lock) (hosted {} { vf := 1 } [])) (fun t => decide ((t.hostFn 1).tdi = .locked)) &&
    got (exec (.ideStreamSetup 1 true true) (hosted {} { vf := 1 } [])) (fun t => (t.hostFn 1).ideSel) &&
    got (exec (.ideStreamSetup 1 false true) (hosted {} { vf := 1 } [])) (fun t => t.mod.ideLink) &&
    got (exec (.hostRegisterWrite ⟨1, false⟩ 0x28 0x20) (hosted {} { vf := 1 } [])) (fun t => (t.hostFn 1).hqctl == 0x20) &&
    got (exec (.hostRegisterWrite ⟨1, false⟩ 0x28 0x22) (hosted {} { vf := 1 } [])) (fun t => (t.hostFn 1).hqctl == 0 && (t.hostFn 1).fstat.getLsbD 3) &&
    got (exec (.hostRegisterWrite ⟨1, false⟩ 0x28 6) (hosted {} { vf := 1 } [])) (fun t => (t.hostFn 1).hqctl == 0 && (t.hostFn 1).fstat.getLsbD 3) &&
    got (exec (.functionLevelReset 1) (hosted { hqctl := 5 } { vf := 1 } [])) (fun t => (t.hostFn 1).hqctl == 0 && decide ((t.actor 5 3).state = .exiting)) &&
    got (exec (.vfEnable 64) (hosted {} { vf := 1 } [])) (fun t => t.fnExists 64)) = true := by decide

theorem witness_host_memory : (got (exec (.bar2Write 1 0 [1, 2] false) (hosted {} { vf := 1 } [])) (fun t => decide ((t.hbmRead 7 0 2).2.2 = [1, 2])) &&
    got (exec (.bar2Write 1 0x400000000 [1] false) (hosted {} { vf := 1 } [])) (fun t => t.out.isEmpty) &&
    got (exec (.bar2Write 1 0x3FFFFFFFF [1] false) (hosted {} { vf := 1 } [])) (fun t => (t.hostFn 1).fstat.getLsbD 2) &&
    got (exec (.bar2Write 1 0 [1] false) (hosted { confidential := true } { vf := 1 } [])) (fun t => (t.hostFn 1).fstat == 0) &&
    got (exec (.bar2Read 1 0 4 false) (hosted {} { vf := 1 } [])) (fun t => decide (t.out = [.readReply 1 (leBytes 4 0x4D49444F)])) &&
    got (exec (.hostQueueDelivery 1) (hosted { waiting := [note], hqctl := 5, hqtail := 3, hqhead := 2 } { vf := 1 } [])) (fun t =>
      (t.hostFn 1).waiting.isEmpty && decide ((t.hostFn 1).hqtail = 0) && decide (2 ≤ t.out.length))) = true := by decide +kernel

/-- A request of function `fn`, or of actor 3, to the service. -/
def request (fn : Nat) (code : Nat) (a1 a2 a3 : Word) : Msg :=
  { (default : Msg) with
    dest := State.reset.fw.svcName, hidx := 2, chan := 1, a0 := BitVec.ofNat 64 code, a1 := a1, a2 := a2, a3 := a3,
    sender := if fn = 99 then myName else (hosted {} { vf := 1 } []).gwName fn, tenant := if fn = 0 then 0 else 7 }
def serves (r : TenantRec) (m : Msg) : State := hosted {} r [.msg m]
def free2 (m : Msg) : State := { serves { vf := 1 } m with hostFns := [(1, { enabled := true, bound := some 7 }), (2, { enabled := true })] }
/-- The first answer on its way has a status. -/
def status (n : Nat) (t : State) : Bool := t.net.any fun p => match p with | .msg m => m.isReply && decide (bits m.a0.toNat 0 8 = n) | _ => false

theorem witness_tenants : (decide ((serves { vf := 1 } (request 0 1 2 8 1)).serviceMsg 0 = some (request 0 1 2 8 1)) && (request 0 1 2 8 1).proper &&
    !(request 0 1 2 8 1).a0Reserved && (free2 (request 0 1 2 8 1)).isPf (request 0 1 2 8 1) && !(free2 (request 0 1 2 8 1)).isPf (request 1 1 2 8 1) &&
    got (exec (.tenantCreate 0) (free2 (request 1 1 2 8 1))) (status 4) &&
    got (exec (.tenantCreate 0) (free2 (request 0 1 2 8 1))) (fun t => status 0 t && decide ((t.hostFn 2).bound = some 1#12) && (t.hostFn 2).confidential &&
      (t.hbmKeys.map (·.1)).contains 1 && (Tab.get? t.fw.tenants 1).isSome) &&
    got (exec (.tenantDestroy 0) (serves { vf := 1 } (request 0 2 7 0 0))) (fun t => decide ((t.actor 5 3).state = .exiting)) &&
    got (exec (.tenantDestroy 0) { serves { vf := 1, destroying := true, wave := some 9 } (request 0 2 7 0 0) with cores := [] }) (fun t => status 0 t && (t.tenantRec 7).isNone &&
      (Tab.get? t.hbmKeys 7).isNone)) = true := by decide +kernel

/-- Pages from 16: 1 of quota 1, 2 of quota 1, and one to unmap (R413 to R416). -/
theorem witness_pages : (pageRange (request 1 3 0x2000000 1 1) && decide (pagesOf (request 1 3 0x2000000 1 1) = [16]) &&
    ((serves { vf := 1, quota := 1 } (request 1 3 0x2000000 1 1)).mapPages 7 true [16]).isSome &&
    got (exec (.map 0) (serves { vf := 1, quota := 1 } (request 1 3 0x2000000 1 1))) (fun t => status 0 t &&
      (match t.tenantRec 7 with | some r => decide (r.mapped.map (·.1) = [16]) | none => false)) &&
    got (exec (.map 0) (serves { vf := 1, quota := 1 } (request 99 3 0x2000000 2 1))) (status 3) &&
    got (exec (.unmap 0) (serves { vf := 1, quota := 1, mapped := [(16, 5)] } (request 1 4 0x2000000 1 0))) (fun t => (Tab.get? t.waves 0).isSome &&
      (match t.tenantRec 7 with | some r => r.mapped.isEmpty | none => false))) = true := by decide +kernel

theorem witness_roots : ((serves { vf := 1 } (request 1 5 0 80 0)).isVf (request 1 5 0 80 0) && epCore 0 == 0 &&
    got (exec (.startRoot 0) (serves { vf := 1 } (request 1 5 0 80 0))) (fun t => status 0 t && (match t.tenantRec 7 with | some r => r.roots.length == 1 | none => false)) &&
    got (exec (.startRoot 0) (serves { vf := 1 } (request 1 5 0 79 0))) (status 1) &&
    got (exec (.query 0) (serves { vf := 1 } (request 99 6 0 0 0))) (status 0) &&
    !({ request 1 6 0 0 0 with hidx := 3 } : Msg).proper &&
    got (exec (.serviceBadRequest 0) (serves { vf := 1 } { request 1 6 0 0 0 with hidx := 3 })) (status 5)) = true := by decide +kernel

/-- Groups: a list of one key, or one name, at address 0x1000 of the tenant (R419 to R421, R430, R431). -/
def listed (w : Word) (m : Msg) : State := (serves { vf := 1 } m).physWrite 77 (hbmBase + 0x1000) (leBytes 8 w.toNat)
/-- Entry 2 of the group table is being installed at the switches behind some ports since time 0 for a steward. -/
def installing (now : Nat) (ports : List Nat) : State := { switched (user []) with
  groups := [(2, { header := 0x0000005080000007, installing := true, awaits := ports, ackTo := some (65537, 2) })], mod := { timeNs := now } }
def member0 : Membership := { words := [(0, 0)] }
theorem witness_group_requests : (listOk (request 1 7 4095 1 0x1000) && groupKeyOk 7 windowKey && (listed 0 (request 1 7 4095 1 0x1000)).freeGroup == some 0 &&
    decide (((listed windowKey (request 1 7 4095 1 0x1000)).wordsOf 7 0x1000 1).2 = some [windowKey]) &&
    got (exec (.mcastSet 0) (switched (listed windowKey (request 1 7 4095 1 0x1000)))) (fun t => (t.group 0).installing &&
      told 23 (.manage 0 0 (.install 0 (t.group 0).header [windowKey])) t) &&
    got (exec (.mcastDel 0) (switched { serves { vf := 1 } (request 1 8 5 0 0) with groups := [(2, { header := 0x0000005080000007, keys := [windowKey] })] })) (fun t =>
      (t.group 2).withdrawing && told 23 (.manage 0 0 (.withdraw 2)) t) &&
    got (exec (.groupCreate 0) (listed myName (request 99 0x10 63 1 0x1000))) (fun t => status 0 t && (t.membership 63).valid && (t.membership 63).word 17 == myName) &&
    got (exec (.groupInstallAck (managed 1023 (.installAck 2))) (installing 99999 [23])) (fun t => (t.group 2).installed && (t.group 2).header.getLsbD 30) &&
    got (exec (.groupInstallAck (managed 1023 (.installAck 2))) (installing 99999 [22, 23])) (fun t => decide ((t.group 2).awaits = [22]) && (t.group 2).busy) &&
    got (exec (.groupInstallAck (managed 1023 (.installAck 2))) (installing 100000 [23])) (fun t => (t.group 2).busy) &&
    got (exec (.groupInstallAck (managed 1023 (.installAck 2))) { installing 0 [23] with ports := [(23, { up := true })] }) (fun t => (t.group 2).busy) &&
    got (exec (.groupInstallTimeout 2) (installing 100000 [23])) (fun t => !headerValid (t.group 2).header && !(t.group 2).busy &&
      told 23 (.manage 0 0 (.withdraw 2)) t && decide (t.net = [.response 65537 2 0 .prot []])) &&
    got (exec (.membershipLossUpdate 1023) { user [] with fw := { State.reset.fw with declared := [1023] } }) (fun t => t.fw.declared.isEmpty)) = true := by
  decide +kernel

/-- A group made by the service, then read and deleted. -/
def grouped (m : Msg) : State :=
  match Machine.execGroupCreate 0 (listed myName (request 99 0x10 63 1 0x1000)) with | .next t => { t with net := [.msg m] } | _ => user []
theorem witness_memberships : ((grouped (request 99 0x11 63 15 0)).ownGroup (request 99 0x11 63 15 0) &&
    got (exec (.groupRead 0) (grouped (request 99 0x11 63 15 0))) (status 0) &&
    got (exec (.groupDelete 0) (grouped (request 99 0x12 63 0 0))) (fun t => status 0 t && !(t.membership 63).valid)) = true := by decide +kernel

/-- Reset from outside, flash, and the fused SVN (R33, R407, R441). -/
def flash (n : Nat) : FlashSlot := { svn := n, digest := 0, signature := [], image := [] }
theorem witness_reset : (got (exec .moduleReset ((user []) |> withMem 0x9000 [1])) (fun t => t.cores.isEmpty && t.readHome (localHome 5 0x9000) == 0) &&
    got (exec (.inputUndervoltage 35999 0) (user [])) (fun t => t.mod.heldReset) &&
    got (exec (.inputOvervoltage 62001 0) (user [])) (fun t => t.mod.heldReset && t.mod.disconnected) &&
    got (exec (.inputRecovery 40001 10000) { user [] with mod := { heldReset := true } }) (fun t => !t.mod.heldReset) &&
    got (exec (.firmwareUpdate (flash 3)) { user [] with boot := { state := .running false } }) (fun t => decide (t.boot.slotB = some (flash 3) ∧ t.boot.slotA = none)) &&
    got (exec (.firmwareUpdate (flash 3)) { user [] with boot := { state := .running true } }) (fun t => decide (t.boot.slotA = some (flash 3))) &&
    got (exec (.fusedSvnAdvance 9) (hosted {} { vf := 1 } [])) (fun t => decide (t.boot.fusedSvn = 9))) = true := by decide

/-- SPDM connections of function 1 in each of their stages (R408 to R410). -/
def spdmAt (x : Spdm) : State := { hosted {} { vf := 1 } [] with boot := { state := .running false, spdm := [(1, x)] } }
def responds (what : String) (t : State) : Bool := match t.out with | [.spdm 1 w _] => decide (w = what) | _ => false
theorem witness_spdm : (got (exec (.getVersion 1) (spdmAt {})) (responds "VERSION") &&
    got (exec (.getCapabilities 1) (spdmAt { version := true })) (responds "CAPABILITIES") && got (exec (.getCapabilities 1) (spdmAt {})) (responds "ERROR") &&
    got (exec (.negotiateAlgorithms 1 [.other 5, .mlDsa44]) (spdmAt { version := true, capabilities := true })) (responds "ALGORITHMS") &&
    got (exec (.getDigests 1) (spdmAt { negotiated := true })) (responds "DIGESTS") && got (exec (.getCertificate 1) (spdmAt { negotiated := true })) (responds "CERTIFICATE") &&
    got (exec (.challenge 1 [1]) (spdmAt { negotiated := true })) (responds "CHALLENGE_AUTH") && got (exec (.challenge 1 [1]) (spdmAt {})) (responds "ERROR") &&
    got (exec (.getMeasurements 1 5 [1]) (spdmAt { negotiated := true })) (responds "MEASUREMENTS") &&
    got (exec (.keyExchange 1 [1]) (spdmAt { negotiated := true })) (responds "KEY_EXCHANGE_RSP") &&
    got (exec (.finish 1 4) (spdmAt { sessions := [(4, false)] })) (responds "FINISH_RSP") &&
    got (exec (.endSession 1 4) (spdmAt { sessions := [(4, true)] })) (responds "END_SESSION_ACK")) = true := by decide +kernel

/-! ### Steps -/

/-- The agenda names the slot of the handler of core 5, whose group at 0x8100 is `LI s9, 20`; an event; a message; time. -/
def stepping (m : Move) (l : List Packet) : State :=
  { (user []) |> withMem 0x8100 [0x00, 0xF0, 0x34, 0x55] with agenda := [m], net := l }
theorem witness_steps : (!noSlot 5 0 && ((stepping (.issue 5 0) []).core 5).occupant 0 == some 0 && (stepping (.issue 5 0) []).admitsEvent (.tsatWrite 5) &&
    decide (decode [0xF000, 0x5534] = .instr (.li 9 20) 2) &&
    got (step (stepping (.issue 5 0) [])) (fun t => t.reg 9 == 20 && decide (t.hd.pc = 0x8104)) &&
    got (step (stepping (.event (.tsatWrite 5)) [])) (fun t => t.mod.tsat == 5) &&
    got (step (stepping (.inner .messageArrival 0 0) [.msg { note with dest := myName }])) (fun t => (t.core 5).queue.length == 1) &&
    got (step (stepping (.tick 5) [])) (fun t => decide (t.mod.cycle = 5)) && (decodeTableWord 16 0).isSome) = true := by decide +kernel

/-- The invariant holds of a state with bytes in its memory, and after a store (the hypotheses of the invariant's statement). -/
theorem witness_inv : (Memory.wf ((user [(9, 5), (10, 0x9000)]) |> withMem 0x9000 [1, 0, 2]).mem ∧
    got (exec (.stB 9 10 1 .relaxed) ((user [(9, 5), (10, 0x9000)]) |> withMem 0x9000 [1, 0, 2])) (fun t => decide (Memory.wf t.mem)) = true) := by decide

/-- An instruction that is well formed, its words, and the instruction decoded from them. -/
theorem witness_encoding : ((Instr.ldD 9 10 0x3FFFFFF8 .relaxed).wf = true ∧ (encode (.li 9 20)).isSome = true ∧
    decode [0xF000, 0x5534] = .instr (.li 9 20) 2) := by decide

/-! ### Where forms wait, fault or have nothing to do: one state for every further clause of the statements -/

/-- The group is still to issue, its slot stalled. -/
def stalls (t : State) : Bool := at_ 0x8100 t && decide (t.hd.status = .stalled 0)
def fullQueue (k : Core) : Core :=
  { peers k with outq := List.replicate 128 { seq := 0, name := peerName, serial := 7, body := .packet (.msg default) }, joins := [(1, { owner := myName })] }
/-- A queued operation of the actor reads and writes the first line of the data region and of the tagged one. -/
def reaching : EngOp := { opOf (.copy .cpy {}) with reads := [{ home := localHome 5 0x9000, len := 64 }], writes := [{ home := localHome 5 0xA000, len := 64 }] }
def queuedOp (k : Core) : Core := { peers k with teasel := [reaching] }
def storing (k : Core) : Core :=
  { k with outq := [{ seq := 0, name := myName, serial := 1, body := .localStore 3 1 dataRegion 0 0 0x9000 [1] }] }

theorem witness_unheld : (user []).Unheld (.release .pd) dataRegion 0x9FF8 8 ∧ (user []).Sound (localHome 5 0x9FF8) 8 ∧ (user []).unhashed :=
  by
  unfold State.Unheld State.Sound State.unhashed
  exact ⟨by decide, fun _ _ _ _ h => absurd h List.not_mem_nil, fun _ h => absurd h List.not_mem_nil⟩

set_option maxRecDepth 16000 in
/-- Forms that send wait while the outbound queue has 128 entries (R194). -/
theorem witness_sends_wait : ((userK [] fullQueue).sendBlocked &&
    ([(.send 14 9 none .relaxed, [(9, 0x40), (14, peerName)]), (.dec 9 10 .relaxed, [(9, peerName)]), (.fork 9 10, [(9, poolName), (10, 0x40)]),
      (.rld 0 9 10 11 .relaxed, [(10, windowKey)]), (.ratom .add 0 9 10 11 .relaxed, [(10, windowKey)]), (.rst 0 9 10 11 .relaxed, [(9, windowKey), (10, 0x9000)]),
      (.rstc 0 9 10 11 .relaxed, [(9, windowKey), (10, 0x9000)]), (.wqOpen 9 10, [(10, 0x10001)]), (.wqQuery 9 10, []), (.wqClose 10, [])] :
      List (Instr × List (Nat × Word))).all fun x => got (exec x.1 (userK x.2 fullQueue)) stalls) = true := by decide

set_option maxRecDepth 16000 in
theorem witness_more_sends_wait : (got (exec (.reply 9 none .relaxed) ((userK [(9, 0x40)] fullQueue).modHd fun h => { h with replyName := peerName })) stalls &&
    got (exec .join ((userK [] fullQueue).modHd fun h => { h with join := some { core := 5, counter := 1, owner := myName } })) stalls &&
    got (exec (.sendp 9 .relaxed) (userK [(9, 0x9000)] fullQueue |> withMem 0x9000 parked)) stalls &&
    got (exec (.sysreq 9 .relaxed) (userK [(9, 0x40)] fun k => { fullQueue k with cfg := { k.cfg with service := stewardName } })) stalls) = true := by decide

set_option maxRecDepth 16000 in
theorem witness_copies_wait : (got (exec (.spawn 9 10 11) (userK [(10, 0x9000)] fullQueue |> withMem 0x9000 spawnDesc)) stalls &&
    got (exec (.give 9 10 11) ((userK [(9, peerName), (10, 4), (11, 0x40)] fullQueue).modActor 5 3 fun a =>
        { a with regions := [(4, { base := 0x100000, size := 0x1000, kind := 1, rd := true, wr := true })] })) stalls &&
    got (exec (.give 9 10 11) (userK [(9, peerName), (10, 1), (11, 0x40)] fun k => { peers k with teasel := [opOf (.copy .cpy {}), opOf (.copy .cpy {})] })) stalls &&
    got (exec (.pull 9) ((userK [(9, 0x9000)] fullQueue) |> withMem 0x9000 (desc 0xFFFF 0x9200 256 4 0 0 0x100))) stalls) = true := by decide

/-- Accesses that meet a queued operation wait: a load its sources too (R250, R190). -/
theorem witness_accesses_wait : (([.ldB 9 10 63 .relaxed, .stB 9 10 0 .relaxed, .aadd 9 10 11 0 .relaxed, .ldx .b 9 10 11 0 .relaxed, .stx .b 9 12 11 0 .relaxed,
      .dld 1 10 32, .dldBase 1 10 32 11, .sendp 10 .relaxed, .spawn 9 10 11, .grant 9 10, .rst 0 9 10 11 .relaxed, .cpy 10, .mcst 10 .relaxed, .rfree 13] : List Instr).all
      fun i => got (exec i (userK [(10, 0x9000), (12, 0xA000), (13, 1)] queuedOp)) stalls) = true := by decide

/-- Accesses beyond every region, and operands there, fault BOUNDS (R94). -/
theorem witness_accesses_fault : (([.stD 9 10 0 .relaxed, .aswp 9 10 11 0 .relaxed, .ldx .b 9 10 11 0 .relaxed, .dld 1 10 0, .dldBase 1 10 0 11, .sendp 10 .relaxed,
      .spawn 9 10 11, .grant 9 10, .rst 0 9 10 11 .relaxed, .rstc 0 9 10 11 .relaxed, .cpy 10, .deal 10 .relaxed, .pull 10] : List Instr).all fun i =>
      got (exec i (user [(10, 0xB000)])) (died 6)) = true := by decide

/-- Contexts: an id with records in the area, none mapped for it, and one whose recall has ended (R255, R256, R259, R260). -/
def filtered (l : List (Nat × Word)) : State := userA l fun a => { a with filter := BitVec.allOnes 256 }
def noSlots (k : Core) : Core := { k with ctxMap := (List.range 256).map fun i => (i, { id := BitVec.ofNat 32 (i + 100), use := 1 }) }
set_option maxRecDepth 16000 in
theorem witness_context_clauses : ((filtered []).notRecalled taggedRegion 5 &&
    got (exec (.ldx .b 9 10 11 0 .relaxed) (filtered [(10, 0xA000), (11, 5)])) (died 0xA) &&
    got (exec (.stx .b 9 10 11 0 .relaxed) (filtered [(10, 0xA000), (11, 5)])) (died 0xA) &&
    got (exec (.ldx .b 9 10 11 0 .relaxed) (user [(10, 0x9000), (11, 2 ^ 32)])) (died 6) &&
    got (exec (.stx .b 9 10 11 0 .relaxed) (user [(10, 0xA000), (11, 2 ^ 32)])) (died 6) &&
    got (exec (.stx .b 9 10 11 0 .relaxed) (user [(9, 7), (10, 0xA000), (11, 5)])) (fun t => ran t && t.here.cells.any fun c => c.ctx == 5) &&
    got (exec (.stx .b 9 10 11 0 .relaxed) (userK [(10, 0xA000), (11, 5)] noSlots)) (died 0xA) &&
    got (exec (.ctxpf 1 9) (filtered [(9, 5)])) (fun t => ran t && !t.pred 1 && decide (t.hd.recalls = [(5, false)]) && t.here.recalls.length == 1) &&
    got (exec (.ctxset 1 9) (filtered [(9, 5)])) (fun t => ran t && !t.pred 1 && t.hd.ctx == 0) &&
    got (exec (.ctxset 1 9) ((filtered [(9, 5)]).modHd fun h => { h with recalls := [(5, true)] })) (fun t => t.pred 1 && t.hd.ctx == 5) &&
    got (exec (.ctxset 1 9) (userK [(9, 5)] noSlots)) (fun t => ran t && !t.pred 1 && t.hd.ctx == 0) &&
    got (exec (.ctxset 1 9) (userH [] fun h => { h with ctx := 5 })) (fun t => t.pred 1 && t.hd.ctx == 0) &&
    got (exec (.ctxpf 1 9) (user [(9, 2 ^ 32)])) (died 6) && got (exec (.ctxnew 9) (user [])) (died 6) &&
    got (exec (.ctxret 9) (user [])) (died 6) && got (exec (.ctxret 9) (userK [(9, 5)] storing)) stalls) = true := by decide

/-- Control registers: numbers that name nothing, values too wide, depths out of range, engine operations still queued. -/
def engaged (k : Core) : Core := { k with vec := [opOf (.vec .fill 0 [] 0 0)] }
theorem witness_control_clauses : (((user []).crd 0x3F).isNone && got (exec (.crd 9 0x3F) (user [])) (died 1) && (userK [] engaged).flagsBusy &&
    got (exec (.crdFlags 9) (userK [] engaged)) stalls && got (exec (.crdEntr 9) (user [])) (died 3) &&
    got (exec (.cwr 0x40 9) (user [])) (died 3) && got (exec (.cwr 0x40 9) (steward [])) (fun t => decide ((t.actor 65537 3).death.map (·.detail) = some 1)) && got (exec (.cwr 0x06 9) (user [(9, 16)])) (died 1) &&
    got (exec (.cwr 0x20 9) (user [(9, -1)])) (fun t => ran t && (t.here.evCopy t.here.loadedCopy).vals[0] == -1#64) &&
    !evSource 0x3FF && got (exec (.cwr 0x28 9) (user [(9, 0x3FF)])) (died 1) &&
    got (exec (.cwrMbox 9) (user [(9, 4)])) (died 1) && got (exec (.cwrMbox 9) (user [(9, 0x10)])) (died 6) && got (exec (.cwrMbox 9) (user [(9, 0xD0)])) (died 6) &&
    got (exec (.cwrTrapx 9) (user [(9, 2)])) (died 1) && got (exec (.cwrTrapx 9) (userA [(9, 1)] supervisor)) (fun t => ran t && !t.self.trapx) &&
    got (exec (.cwrWatch 9) (user [(9, 2 ^ 32)])) (died 1) && got (exec (.cwrFlags 9) (user [(9, 64)])) (died 1) &&
    got (exec (.cwrFlags 9) (userK [(9, 1)] engaged)) stalls) = true := by decide

/-- A steward's accesses that the tables refuse or that wait, its keys, and names that are no actor's of this module (R359 to
R363). -/
def stewardDied (code : BitVec 8) (t : State) : Bool := decide ((t.actor 65537 3).death.map (·.detail) = some code)
def stewardFull (l : List (Nat × Word)) : State := (steward l).modCore 65537 fun k =>
  { k with outq := List.replicate 128 { seq := 0, name := peerName, serial := 7, body := .packet (.msg default) } }
def stewardStalls (t : State) : Bool := at_ 0x8100 t && decide (t.hd.status = .stalled 0)
set_option maxRecDepth 16000 in
theorem witness_steward_clauses : (!(steward []).sysAddrOk (-1) false && !(steward []).sysAddrOk 0x00000000 true &&
    got (exec (.strd 1 9 10) (steward [(10, -1)])) (stewardDied 6) && got (exec (.stwr 1 10 11) (steward [(10, -1)])) (stewardDied 6) &&
    got (exec (.strd 1 9 10) (stewardFull [(10, 0x08000000)])) stewardStalls && got (exec (.stwr 1 10 11) (stewardFull [(10, 0x08000000)])) stewardStalls &&
    got (exec (.keydel 1 9) (steward [(9, 8192)])) (stewardDied 6) &&
    got (exec (.keydel 1 9) { steward [(9, 8191)] with fabricKeys := [(4095, 1)] }) (fun t => t.fabricKeys.isEmpty) &&
    got (exec (.prmtRelease 9) (steward [(9, farName)])) (stewardDied 6) && got (exec (.prmtPreempt 9) (steward [(9, 1)])) (stewardDied 6) &&
    ([.strd 1 9 10, .stwr 1 10 11, .keyset 1 9, .keydel 1 9, .waveShootdown 9 10, .waveRetire 9 10, .waveModuleLoss 9 10, .prmtPreempt 9, .prmtHold 9, .prmtRelease 9] :
      List Instr).all fun i => got (exec i (user [])) (died 3)) = true := by decide

set_option maxRecDepth 16000 in
theorem witness_key_and_wave_clauses : (let keyed (bs : List Byte) : State := (steward [(9, 0x9000)]).writeBytes (localHome 65537 0x9000) bs
    let busyWaves (l : List (Nat × Word)) : State := (steward l).modCore 65537 fun k => { k with wavesOpen := 4 }
    got (exec (.keyset 1 9) (keyed ([7, 0, 1] ++ List.replicate 61 0 ++ [0xAB]))) (fun t => decide (Tab.get? t.fabricKeys 7 = some (BitVec.ofNat 256 0xAB)) &&
      t.hbmKeys.isEmpty) &&
    got (exec (.keyset 1 9) (keyed [0, 0x10])) (stewardDied 6) && got (exec (.keyset 1 9) (keyed [7, 0, 2])) (stewardDied 6) &&
    got (exec (.waveShootdown 9 10) (busyWaves [(9, 0x0007FFFFFFFF0000), (10, 0x40)])) stewardStalls &&
    got (exec (.waveRetire 9 10) (busyWaves [(9, 5), (10, 0x40)])) stewardStalls && got (exec (.waveRetire 9 10) (steward [(10, 0x40)])) (stewardDied 6) &&
    got (exec (.waveShootdown 9 10) (steward [(9, 1), (10, 0x40)])) (stewardDied 6) &&
    got (exec (.waveModuleLoss 9 10) (steward [(9, 1024), (10, 0x40)])) (stewardDied 6) &&
    got (exec (.waveModuleLoss 9 10) (steward [(9, 0), (10, 0x40)])) (stewardDied 6)) = true := by decide

set_option maxRecDepth 16000 in
/-- Blocks and names that messages do not take, a REPLY to another tenant, a SYSREQ with a bad block (R266 to R271, R357). -/
theorem witness_message_clauses : (decide ((user []).checkBlock 9 true false = some .priv) &&
    ([.send 14 9 none .relaxed, .reply 9 none .relaxed, .timer 14 9 10, .arm 14 9 10, .fork 14 9, .give 14 10 9, .sysreq 9 .relaxed] : List Instr).all
      (fun i => got (exec i (user [(14, peerName)])) (died 3)) &&
    got (exec (.send 14 9 (some 10) .relaxed) (user [(9, 0x40), (10, 2 ^ 32), (14, peerName)])) (died 6) &&
    got (exec (.reply 9 none .relaxed) ((user [(9, 0x40)]).modHd fun h => { h with replyName := State.reset.mkName 5 4 1#16 { tenant := 8#12 } })) (died 6) &&
    got (exec (.sendp 9 .relaxed) (user [(9, 0x9000)] |> withMem 0x9000 (leBytes 8 peerName.toNat ++ leBytes 8 0x8040))) (died 6) &&
    got (exec (.sendp 9 .relaxed) (user [(9, 0x9000)] |> withMem 0x9000 (leBytes 8 peerName.toNat ++ leBytes 8 0))) (died 3) &&
    got (exec (.sendp 9 .relaxed) (user [(9, 0x9000)] |> withMem 0x9000 (leBytes 8 1 ++ leBytes 8 0x40))) (died 6)) = true := by decide

/-- Spawns, kills, links and monitors that are refused, and a spawn with a link entry (R273 to R277). -/
def linkDesc : List Byte := leBytes 8 0 ++ leBytes 8 0 ++ leBytes 8 5 ++ leBytes 4 0x40 ++ [0, 8, 0, 0]
def fullTables (k : Core) : Core :=
  let l : Tab LinkEnt := (List.range 256).map fun i => (i, { peer := farName, kind := .link, lslot := 9 })
  { peers k with links := l, monitors := l }
set_option maxRecDepth 16000 in
theorem witness_actor_clauses : (got (exec (.spawn 9 10 11) (user [(10, 0x9000)] |> withMem 0x9000 linkDesc)) (fun t => ran t && decide (t.here.links = [(0, { peer := 0, kind := .link, lslot := 3 })])) &&
    got (exec (.spawn 9 10 11) (userK [(10, 0x9000)] fullTables |> withMem 0x9000 linkDesc)) (died 6) &&
    got (exec (.spawn 9 10 11) (user [(10, 0x9000)] |> withMem 0x9000 [1])) (died 6) &&
    got (exec (.kill 9 10) (user [(9, peerName), (10, 256)])) (died 6) && got (exec (.kill 9 10) (user [])) (died 6) &&
    got (exec (.kill 9 10) (userA [(9, myName)] fun a => { a with role := .secondary 6 3 })) ran &&
    ([.link 9, .mon 11 9] : List Instr).all (fun i => got (exec i (userK [(9, peerName)] fullTables)) (died 6) && got (exec i (user [(9, myName)])) (died 6)) &&
    got (exec (.unlink 9) (user [(9, 1)])) (died 6) && got (exec (.demon 9) (user [(9, 2 ^ 32)])) (died 6) && got (exec (.demon 9) (user [(9, 9)])) ran) = true := by decide

set_option maxRecDepth 16000 in
/-- Timers of others, operands too wide, join counters that are not SELF's, pools that cannot take (R279 to R286). -/
theorem witness_counter_clauses : (got (exec (.tcancel 1 9) (userK [(9, 0x10000)] fun k => { k with timers := [(0, { due := some 9, owner := 4 })] })) (fun t => ran t && !t.pred 1) &&
    got (exec (.timer 9 10 15) { user [(10, 0x40), (15, 1000)] with mod := { timeNs := 1000 } }) (fun t => ran t && t.reg 9 == 0x10000 && (t.here.timer 0).due.isNone &&
      t.here.queue.length == 1) &&
    got (exec (.watch 9) (user [(9, 2 ^ 32)])) (died 6) && got (exec (.trapx 9 10) (user [(10, 2)])) (died 6) &&
    got (exec (.jcput 9) (userK [(9, 62)] joined)) (died 6) && got (exec (.arm 9 10 15) (userK [(9, 63), (10, 0x40), (15, 2 ^ 32)] joined)) (died 6) &&
    got (exec (.dec 9 10 .relaxed) (user [(9, peerName), (10, 2 ^ 38)])) (died 6) && got (exec (.dec 9 10 .relaxed) (user [(9, stewardName)])) (died 6) &&
    got (exec (.fork 9 10) (userK [(9, peerName), (10, 0x40)] peers)) (died 6) &&
    got (exec (.fork 9 10) ((userK [(9, poolName), (10, 0x40)] fun k => { peers k with remotes := [(0, remoteOf .none)] }).modHd fun h =>
      { h with fences := [(.pd, 1)] })) (fun t => ran t && t.here.outq.length + t.here.pool.length == 1)) = true := by decide

set_option maxRecDepth 16000 in
/-- Child tables that are refused, RSTART and SELFQ beyond their tables (R287 to R289). -/
theorem witness_supervisor_clauses : (got (exec (.supv 9) (user [(9, 0x9000)])) (died 6) && got (exec (.supv 9) (userA [(9, 0xB000)] supervisor)) (died 6) &&
    got (exec (.supv 9) ((userA [(9, 0x9000)] supervisor) |> withMem 0x9000 [3, 3, 1])) (died 6) && got (exec (.rstart 9 10) (user [])) (died 6) &&
    got (exec (.rstart 9 10) ((userA [(10, 1)] fun a => { a with supv := true, sup := some 0x9000 }) |> withMem 0x9000 childTable)) (died 6) &&
    got (exec (.selfq 0 9 0) (user [])) (fun t => ran t && t.reg 9 == myActor.word 0) && got (exec (.selfq 6 9 10) (userK [(10, 62)] joined)) (died 6) &&
    got (exec (.selfq 7 9 0) (userK [] fun k => { k with waits := [(5, { owner := 3, peer := peerName, expiry := 9 })] })) (fun t => t.reg 9 == 1)) = true := by decide

set_option maxRecDepth 16000 in
/-- Regions: attributes and sizes that none has, pool actors, handles without region, GIVEN ones (R293 to R295). -/
theorem witness_region_clauses : (got (exec (.ralloc 9 10 11) (user [(10, 0x401), (11, 3)])) (died 6) && got (exec (.ralloc 9 10 11) (user [(10, 0), (11, 3)])) (died 6) &&
    got (exec (.ralloc 9 10 11) (userA [(10, 0x400), (11, 3)] fun a => { a with pool := true })) (died 6) &&
    got (exec (.rfree 9) (user [(9, 3)])) (died 6) && got (exec (.rfree 9) (user [(9, 32)])) (died 6) &&
    (let given (a : Actor) : Actor := { a with regions := [(1, { dataRegion with given := true })] }
     got (exec (.give 9 10 11) ((userK [(9, peerName), (10, 1), (11, 0x40)] peers).modActor 5 3 given)) (died 7)) &&
    got (exec (.give 9 10 11) (userK [(9, peerName), (10, 3), (11, 0x40)] peers)) (died 6) && got (exec (.give 9 10 11) (user [(9, 1), (10, 1), (11, 0x40)])) (died 6) &&
    got (exec (.ralloc 9 10 11) (user [(10, 0x400), (11, 3)])) (fun t => (match Tab.get? t.self.regions 3 with | some r => !r.usable | none => false) &&
      t.here.results.any fun x => decide (x.region = some (3, 3)))) = true := by decide

set_option maxRecDepth 16000 in
/-- Windows: descriptors that are bad, tables that are full, regions that may not be granted; keys of none; a window that no
pull may have. -/
theorem witness_window_clauses : (let grant (bs : List Byte) (f : Core → Core) : State := (userK [(10, 0x9000)] f) |> withMem 0x9000 bs
    let allOpen (k : Core) : Core := { k with windows := (List.range 64).map fun i => (i, { window with owner := 9 }) }
    got (exec (.grant 9 10) (grant (grantDesc.take 17 ++ [0x10]) id)) (died 6) && got (exec (.grant 9 10) (grant grantDesc allOpen)) (died 6) &&
    got (exec (.grant 9 10) (grant (grantDesc.take 16 ++ [0] ++ grantDesc.drop 17) id)) (died 0xB) && got (exec (.grant 9 10) (grant (grantDesc.take 12 ++ leBytes 4 0x1040 ++ grantDesc.drop 16) id)) (died 0xB) &&
    got (exec (.grant 9 10) (userA [(10, 0x9000)] fun a => { a with pool := true })) (died 6) &&
    got (exec (.publish false 9) (userK [(9, (user []).windowKey 5 0 { window with gk := 2 } 7)] fun k => { k with windows := [(0, { window with gk := 2 })] })) (died 0xB) &&
    got (exec (.publish false 9) (user [(9, windowKey)])) (died 0xB)) = true := by decide

set_option maxRecDepth 16000 in
/-- Remote operations and distributors: full landing buffers, reserved bits, no second operand; FENCE.R with nothing open
(R292, R304 to R310). -/
theorem witness_remote_clauses : (let full (l : List (Nat × Word)) : State := userH l fun h => { h with landing := (List.range 8).map fun i => (i, { isPred := false, reg := 1 }) }
    got (exec (.rld 0 9 10 11 .relaxed) (full [(10, windowKey)])) (died 6) && got (exec (.ratom .add 0 9 10 11 .relaxed) (full [(10, windowKey)])) (died 6) &&
    got (exec (.wqOpen 9 10) (full [(10, 0x10001)])) (died 6) && got (exec (.wqQuery 9 10) (full [])) (died 6) && got (exec (.fenceR .pd 1) (full [])) (died 6) &&
    got (exec (.ralloc 9 10 11) (full [(10, 0x400), (11, 3)])) (died 6) && got (exec (.rstart 9 10) (full [])) (died 6) &&
    got (exec (.ratom .cas 0 31 10 11 .relaxed) (user [(10, windowKey)])) (died 4) && got (exec (.rst 0 9 10 11 .relaxed) (user [(9, 1), (10, 0x9000)])) (died 6) &&
    got (exec (.wqOpen 9 10) (user [(10, 0x10000)])) (died 6) && got (exec (.wqOpen 9 10) (user [(10, 1)])) (died 6) && got (exec (.wqOpen 9 10) (user [(10, 2 ^ 32)])) (died 6) &&
    got (exec (.wqClose 10) (user [(10, 0x40)])) (died 6) &&
    got (exec (.fenceR .pd 1) (userH [] fun h => { h with deadOps := [.mo] })) (fun t => decide (t.here.results.map (·.value) = [0])) &&
    got (exec (.fenceR .cl 1) (userH [] fun h => { h with deadOps := [.mo] })) (fun t => decide (t.here.results.map (·.value) = [1]))) = true := by decide

set_option maxRecDepth 16000 in
/-- Copies: a reserved bit, a kind that the form does not take, a third, an empty one with a completion; MCST with a bad
result line (R298 to R306). -/
theorem witness_copy_clauses : (let fine : List Byte := desc 0x9100 0x9FC0 64 0 0 0 0
    let two (k : Core) : Core := { k with teasel := [opOf (.copy .cpy {}), opOf (.copy .cpy {})] }
    got (exec (.cpy 9) (fromDesc (fine.take 28 ++ [1] ++ fine.drop 29))) (died 6) && got (exec (.deal 9 .relaxed) (fromDesc fine)) (died 6) &&
    got (exec (.gath 9) (fromDesc fine)) (died 6) && got (exec (.mcst 9 .relaxed) (fromDesc fine)) (died 6) && got (exec (.pull 9) (fromDesc fine)) (died 6) &&
    got (exec (.cpy 9) ((fromDesc fine).modHere two)) stalls &&
    got (exec (.mcst 9 .relaxed) (fromDesc ((desc 0x9100 0xFFFF 256 0 4 0 0).take 56 ++ leBytes 8 0xB000))) (died 6)) = true := by decide

set_option maxRecDepth 16000 in
/-- Shapes and vectors: a BASE beyond 32 bits, an unset destination, an empty one, the interlock, a key of another cluster
(R313 to R327). -/
theorem witness_vector_clauses : (got (exec (.dldBase 15 9 0 10) ((user [(9, 0x9FE0), (10, 2 ^ 32)]) |> withMem 0x9FE0 (shapeRec 1 7 65535 0))) (died 6) &&
    got (exec (.dldBase 15 9 0 10) ((user [(9, 0x9FE0), (10, 0x9001)]) |> withMem 0x9FE0 (shapeRec 1 7 4 0))) (died 8) &&
    got (exec (.vfill 15 9) (withShapes [])) (died 8) && got (exec (.vfill 8 9) (withShapes [])) (fun t => ran t && t.here.vec.isEmpty) &&
    got (exec (.vneg 0 1) ((withShapes []).modHere fun k => { k with teasel := [{ opOf (.copy .cpy {}) with writes := [{ home := localHome 5 0x9100, len := 4 }] }] })) stalls &&
    !(withShapes []).xchKeyOk 1 && got (exec (.vxch 9 10 11) (withShapes [(10, 0x9D00)] |> withMem 0x9D00 [1])) (died 6) &&
    got (exec (.vxch 9 10 11) (withShapes [(10, 0x9D00), (11, 0x4000000000)])) (died 6)) = true := by decide

set_option maxRecDepth 16000 in
/-- Summaries: unset and ill-typed shapes, addresses, overlap, a full unit, a full landing buffer, formats and capacities
(R343, R344). -/
theorem witness_summary_clauses : (let two (s : State) : State := s.modHere fun k => { k with sumq := [opOf (.sum .dce 0x80000 0 0 0), opOf (.sum .dce 0x80000 0 0 0)] }
    let full (s : State) : State := s.modHd fun h => { h with landing := (List.range 8).map fun i => (i, { isPred := false, reg := 1 }) }
    got (exec (.qski 9 15) (summing sumRegs)) (died 8) && got (exec (.qski 9 4) (summing sumRegs)) (died 9) && got (exec (.hhi 9 4) (summing [(9, 0x90001)])) (died 5) &&
    got (exec (.dci 9 0) (summing [(9, 2 ^ 32)])) (died 6) && got (exec (.dci 9 8) (summing sumRegs)) (fun t => ran t && t.here.sumq.isEmpty) &&
    got (exec (.dci 9 0) (summing [(9, 0x8FC0)])) (died 8) && got (exec (.dci 9 0) (summing [(9, 0x93FC0)])) (died 6) &&
    got (exec (.qskm 9 10) (summing [(9, 0x90000), (10, 0x90040)])) (died 8) && got (exec (.qskm 9 10) (summing [(9, 0x90000), (10, 0x90000)])) summed &&
    got (exec (.hhn 0x3B 9 11) (summing sumRegs)) (died 9) && got (exec (.qskn 9 11) (summing [(9, 0x90000), (11, 2 ^ 32)])) (died 6) &&
    got (exec (.qskq 9 10 11) (summing [(10, 0x92000), (11, 2 ^ 32)])) (died 6) && got (exec (.hhq 9 10 12) (summing [(10, 0x92000), (12, 0x92040)])) (died 8) &&
    got (exec (.dce 9 10) (full (summing sumRegs))) (died 6) && ([.qski 9 0, .hhm 9 10, .dcn 0 9 11, .qskr 9 10 11] : List Instr).all fun i =>
      got (exec i (two (summing sumRegs))) stalls) = true := by decide

set_option maxRecDepth 16000 in
/-- MST.F32 and MADD, MLD of a bad format; an MSP whose sparse address is odd (R334 to R338). -/
theorem witness_matrix_clauses : ((imageFault (loadFormats .f32) (imageOf .f32 { fmtc := 15 } 0x9000 0) 0).isSome &&
    got (exec (.mld .f32 1 10 11) (userH [(10, 0x9000)] fun h => { h with ctl := { fmtc := 15 } })) (died 9) &&
    decide ((({ sparse := 0x9402 } : Ctl).sparse.toNat % 2 = 0)) && got (exec (.mzero 1) (user [])) (fun t => decide (t.here.matq.map (·.body) = [.mat .zero 1 0 0 0 0]))) =
    true := by decide

set_option maxRecDepth 16000 in
/-- Arrivals: an id never issued, a full mailbox under EXIT and under DROP, a replicated receiver; advances that are stray or
for a gateway. -/
theorem witness_arrival_clauses : (let mbox (w : Word) : State := (flying [.msg note]).modActor 5 4 fun a => { a with mbox := w }
    let full (w : Word) : State := (mbox w).modCore 5 fun k => { k with queue := List.replicate 4 { entry := 4, msg := note } }
    let twin : State := { (flying [.msg note]).modActor 5 4 (fun a => { a with role := .primary 6 2 }) with
      cores := ((flying [.msg note]).modActor 5 4 (fun a => { a with role := .primary 6 2 })).cores ++ [(6, { actors := [(2, { myActor with name := peerName, role := .secondary 5 4 })] })] }
    let gate (n : Name) : State := { user [] with net := [.advance n 63 1 myName] }
    ctxBad 0x400000 && got (exec (.messageArrival 0) (flying [.msg { note with ctx := 0x400000 }])) (fun t => t.net.isEmpty && (t.core 5).queue.isEmpty) &&
    mboxDrop 0x22 && !mboxDrop 0x20 && decide (mboxDepth 0x20 = 4) && !mboxOrdered 0x20 &&
    got (exec (.messageArrival 0) (full 0x22)) (fun t => t.net.isEmpty && (t.core 5).queue.length == 4) &&
    got (exec (.messageArrival 0) (full 0x20)) (fun t => decide ((t.actor 5 4).death.map (·.cls) = some .unreachable)) &&
    got (exec (.messageArrival 0) twin) (fun t => (t.core 5).queue.length == 1 && decide ((t.core 6).queue.map (·.entry) = [2])) &&
    got (exec (.counterAdvance 0) (gate (State.reset.mkName 5 3 1#16 { tenant := 7#12 }))) (fun t => t.net.isEmpty && t.here.joins.isEmpty) &&
    decide (nameCore ((user []).gwName 1) = hostPlace) && got (exec (.counterAdvance 0) (gate ((user []).gwName 1))) (fun t => t.net.isEmpty)) = true := by decide

set_option maxRecDepth 16000 in
/-- A dispatch whose context has records asks for them; its end frees the message, and the CTXPF of the same id (R125, R259). -/
theorem witness_recall_clauses : (let s := ((waiting { note with ctx := 5 } 0x8200).modActor 5 4 fun a => { a with filter := BitVec.allOnes 256 })
    let ended := userK [] fun k => { k with recalls := [{ entry := 3, ctx := 5, why := .dispatch }], queue := [{ entry := 3, msg := { note with ctx := 5 }, recalled := some false }] }
    got (exec (.dispatch 5) s) (fun t => (t.core 5).handlers.length == 1 && decide ((t.core 5).recalls = [{ entry := 4, ctx := 5, why := .dispatch }])) &&
    got (exec (.dispatchRecallDone 5 0) (ended.modHd fun h => { h with recalls := [(5, false)] })) (fun t =>
      decide ((t.core 5).queue.map (·.recalled) = [some true] ∧ t.hd.recalls = [(5, true)]))) = true := by decide

set_option maxRecDepth 16000 in
/-- The slice table's write of an earlier cycle is in force at the boundary, one of this cycle not (R61, R364); a record as
resumption loads it. -/
theorem witness_slice_clauses : (let s (c : Nat) : State := { userK [] (fun k => { sliced k with sliceWrites := [(3, 0x0E71FFF, c)] }) with mod := { timeNs := 1000 }, dies := [(0, { cycles := 9 })] }
    got (exec (.sliceEnd 5) (s 8)) (fun t => decide (Tab.get? (t.core 5).slices 3 = some 0x0E71FFF) && (t.core 5).sliceWrites.isEmpty) &&
    got (exec (.sliceEnd 5) (s 9)) (fun t => (Tab.get? (t.core 5).slices 3).isNone && (t.core 5).sliceWrites.length == 1) &&
    got (exec (.budgetExhausted 5 0) (userH [(9, 7)] fun h => { h with used := 16384, dirtyRegs := 0x200, dirtyCtl := true })) (fun t =>
      decide (t.readBytes (recordHome 5 0 (recordReg 9)) 1 = [7]) && decide (t.loadRecord 5 0 t.hd = t.hd))) = true := by decide

set_option maxRecDepth 16000 in
/-- A victim with nothing to give, and a message whose thief has died (R57). -/
theorem witness_steal_clauses : (got (exec (.stealRequestArrival 0) { thieves id id with net := [.stealReq 5 6] }) (fun t => decide (t.net = [.stealReply 6 none 0])) &&
    got (exec (.stealReplyArrival 0) { thieves id id with net := [.stealReply 6 none 0] }) (fun t => (t.core 6).pool.isEmpty && !(t.core 6).stealing) &&
    got (exec (.stealReplyArrival 0) { thieves id id with net := [.stealReply 6 (some { note with dest := poolName }) 9] }) (fun t => (t.core 6).pool.isEmpty && t.net.isEmpty) &&
    ((thieves id fun k => { k with noCandSince := some 0, lastVictim := 6 }).core 6).nextVictim 6 == some 7) = true := by decide +kernel

set_option maxRecDepth 16000 in
/-- Signals that are stale or come to the dead, a kill of a gateway, and the entries of a secondary's core (R66, R69, R71,
R72, R76). -/
theorem witness_death_clauses : (let gateKill : State := { user [] with net := [.kill ((user []).gwName 1) .killed 0 myName] }
    let res (x : HeldEnt) (lost : Bool) : State := { userK [] (fun k => { linkedTo peerName k with resolving := [{ name := peerName, sup := 0, death := { cls := .killed, detail := 0, w2 := 0 }, restarts := 0, links := [x], asked := 0, lost := lost }] })
      with net := [.resAns 5 peerName 9 0] }
    let held : HeldEnt := { mon := false, idx := 2, ent := { peer := peerName, kind := .link, lslot := 3 }, holder := myName }
    let second := (userK [] (linkedTo farName)).modActor 5 3 fun a => { a with state := .exiting, death := some { cls := .killed, detail := 0, w2 := 0 }, role := .secondary 6 3 }
    got (exec (.exitSignalArrival 0) (wired id [.signal myName farName downWord 0 0 .link 0])) (fun t => t.net.isEmpty && decide ((t.actor 5 3).state = .live)) &&
    got (exec (.exitSignalArrival 0) (flying [.signal (peerName + 16) myName downWord 0 0 .link 0])) (fun t => t.net.isEmpty) &&
    got (exec (.killArrival 0) gateKill) (fun t => t.net.isEmpty) &&
    got (exec (.resolutionAnswer 0) (res held false)) (fun t => decide (t.net = [.signal peerName peerName (signalWord .killed 0 0 false 0) 0 9 .link 0]) && (t.core 5).resolving.isEmpty) &&
    got (exec (.resolutionAnswer 0) (res { held with idx := 9 } true)) (fun t => t.net.isEmpty && (t.core 5).resolving.isEmpty) &&
    got (exec (.regionsReturned 5 3) { second with cur := {} }) (fun t => decide ((t.actor 5 3).state = .free) && (t.core 5).links.isEmpty && (t.core 5).monitors.isEmpty)) = true := by
  decide

set_option maxRecDepth 16000 in
/-- Yarrow: a class that calls for no restart, a table that is bad, a rate that is exceeded (R79 to R82). -/
theorem witness_yarrow_clauses : (let asks : List Packet := [.resReq myName peerName .normal 0 5]
    let table (bs : List Byte) : State := { (yarrow []) |> withMem 0x9000 bs with net := asks }
    got (exec (.resolutionRequest 0) (table ([0, 3, 1, 0] ++ List.replicate 216 0 ++ [2]))) (fun t => decide (t.net = [.resAns 5 peerName 0 0]) && (t.core 5).events.isEmpty) &&
    got (exec (.resolutionRequest 0) (table [3])) (fun t => decide ((t.actor 5 3).death.map (fun d => (d.cls, d.detail)) = some (.escalated, 2))) &&
    got (exec (.resolutionRequest 0) (table [0, 1, 1, 1, 0xFF, 0, 0, 0])) (fun t => decide ((t.actor 5 3).death.map (fun d => (d.cls, d.detail)) = some (.escalated, 0)))) = true := by
  decide

set_option maxRecDepth 16000 in
/-- A child whose event begins comes back to its entry; a spawn that finds no entry, and an answer for a spawner that is no
more (R84, R274). -/
theorem witness_start_clauses : (let ev : Event := { supEntry := 3, supName := myName, todo := [0], dead := [(0, peerName)] }
    let s := ((yarrow []) |> withMem (0x9000 + 192) (leBytes 8 peerName.toNat)).modCore 5 fun k => { k with events := [ev] }
    let full : State := { userK [] (fun k => { k with actors := (List.range 64).map fun i => (i, { myActor with name := farName }) }) with net := [.spawn (wish (BitVec.ofNat 26 ((user []).endpoint 5)))] }
    got (exec (.yarrowRestartStart 5 0) s) (fun t => (t.actor 5 4).claimed && (t.core 5).starts.any fun x => x.loading && decide (x.entry = 4)) &&
    got (exec (.spawnRequestArrival 0) full) (fun t => decide (t.net = [.spawnAck 5 4 0 7])) &&
    got (exec (.spawnNameArrival 0) { user [] with net := [.spawnName 5 4 peerName 0 false 7] }) (fun t => decide (t.net = [.kill peerName .killed 0 peerName]))) = true := by decide

set_option maxRecDepth 16000 in
/-- A link request to the dead is refused, and one that is known enters nothing (R70, R71). -/
theorem witness_link_clauses : (got (exec (.linkRequestArrival 0) (flying [.linkReq false myName (peerName + 16) 0 0 5 7])) (fun t =>
      decide (t.net = [.linkAns false myName (peerName + 16) 0 false 0 0]) && (t.core 5).links.isEmpty) &&
    got (exec (.linkRequestArrival 0) (wired id [.linkReq false peerName myName 0 0 5 7])) (fun t => (t.core 5).links.length == 1 &&
      decide (t.net = [.linkAns false peerName myName 0 true 0 0]))) = true := by decide

set_option maxRecDepth 16000 in
/-- The flit of several stores, a landing behind a held one, and one that needs records (R105, R130, R427). -/
theorem witness_landing_clauses : (let two : State := { userK [] opened with net := [.combined [opAt .store 0 8 (List.replicate 8 1), opAt .store 8 8 (List.replicate 8 2)]] }
    let held : HeldLanding := { op := opAt .store 0 8 (List.replicate 8 1), entry := 3, handle := 1, region := dataRegion, addr := 0x9000, jc := none }
    let behind : State := { userK [] (fun k => { opened k with heldLandings := [held] }) with net := [.remote (opAt .store 8 8 (List.replicate 8 2))] }
    let records : State := { (filtered []).modHere (fun k => { k with windows := [(0, { window with gk := 2, handle := 2 })] }) with net := [.remote { opAt .store 0 8 (List.replicate 8 1) with ctx := 5 }] }
    got (exec (.remoteOpArrival 0) two) (fun t => t.readHome (localHome 5 0x9000) == 1 && t.readHome (localHome 5 0x9008) == 2) &&
    got (exec (.remoteOpArrival 0) behind) (fun t => (t.core 5).heldLandings.length == 2 && t.readHome (localHome 5 0x9008) == 0) &&
    got (exec (.remoteOpArrival 0) records) (fun t => (t.core 5).heldLandings.length == 1) &&
    got (exec (.heldLandingRelease 5 0) (userK [] fun k => { opened k with heldLandings := [held] })) (fun t => (t.core 5).heldLandings.isEmpty && t.readHome (localHome 5 0x9000) == 1)) =
    true := by decide

set_option maxRecDepth 16000 in
/-- A flit of several of an operation, a result that makes a region usable, a waiting store (R22, R113, R194, R293). -/
theorem witness_answer_clauses : (let parts : State := { userK [] (fun k => { k with remotes := [(2, { remoteOf .none with parts := 2 })] }) with net := [.response 5 2 7 .window []] }
    let fresh : State := (userK [] fun k => { k with results := [{ rec_ := 9, serial := 1, idx := 6, value := 9, region := some (3, 4) }] }).modActor 5 3 fun a =>
      { a with regions := (4, { dataRegion with usable := false }) :: a.regions }
    (parts.twinRemote 5 2).isNone && got (exec (.remoteResponseArrival 0) parts) (fun t => decide ((Tab.get? t.here.remotes 2).map (fun r => (r.parts, r.st)) = some (1, .window))) &&
    got (exec (.resultArrival 5 0) fresh) (fun t => (match Tab.get? t.self.regions 4 with | some r => r.usable | none => false)) &&
    got (exec (.outboundRelease 5 0) (userK [] storing)) (fun t => t.here.outq.isEmpty && t.readHome (localHome 5 0x9000) == 1)) = true := by decide

set_option maxRecDepth 16000 in
/-- Pull reads that their window fails; a question behind a close (R309, R311, R434). -/
theorem witness_group_clauses : (let d : Distributor := { busy := true, x := 1, y := 1, owner := myName, tenant := 7 }
    let pull (w : Window) (off : Nat) : State := switched { userK [] (fun k => { k with windows := [(0, w)] }) with net := [.pullRead 5 2 windowKey off 7 9 2] }
    let answers (st : CopyStatus) (s : State) : Bool := got (exec (.pullReadArrival 0) s) fun t => match t.out with | [.flit 23 _ _ (.pullReply 5 7 2 x _ _ 9 2)] => decide (x = st) | _ => false
    answers .window (pull { window with pb := false } 0) && answers .window (pull { window with pb := true } 0xF01) && answers .ok (pull { window with pb := true } 0xF00) &&
    answers .ecc { pull { window with pb := true } 0 with badWords := [localHome 5 0x9000 / 8] } &&
    (distState d [.wqQuery (distKey {}) 7 5 2, .wqClose (distKey {}) myName 5 3]).closing (distKey {}) && !(distState d []).closing (distKey {})) = true := by decide

set_option maxRecDepth 16000 in
/-- Behind the programs: a fill that an eviction of its cycle beats, and a core with cells on its way to sleep (R128, R134). -/
theorem witness_behind_clauses : (let full (at_ : Option Nat) : State := userK [] fun k => { k with evictedAt := at_, cfg := { cpool := 0 }, cells := [cell], recalls := [{ entry := 3, ctx := 5, why := .prefetch 1 }] }
    decide ((full none).here.poolSize ≤ 1) && got (exec (.prefetchFill 5 0) (full (some 0))) (fun t => t.here.recalls.isEmpty && t.here.cells.length == 1) &&
    (let s := lonely { idleSince := some 0, cells := [cell], actors := [(3, { myActor with ovlen := 0x10000 })] } 0
     ((s.core 6).noWork && (s.victim 6).isSome && got (exec (.coreSleep 6) s) (fun t => (t.core 6).cells.isEmpty && (t.core 6).evicts.length == 1 && !(t.core 6).asleep)))) = true := by decide

set_option maxRecDepth 16000 in
/-- Waves: cores that sleep are skipped; one from another module is answered; one of a steward is cleared first (R132, R204,
R362). -/
theorem witness_wave_clauses : (let sleeping (w : Wave) : State := (waved w).modCore 5 fun k => { k with asleep := true }
    let skipped (t : State) : Bool := match Tab.get? t.waves 3 with | some w => w.todo.isEmpty && decide (w.took = 0 ∧ w.skipped = 1) | none => false
    let st : Option (Nat × Name × Word × Word × CtxId) := some (5, myName, 0, 0x40, 0)
    got (exec (.retireWaveArrival 3 5) (sleeping { kind := .retire 5, todo := [5] })) skipped && got (exec (.shootdownArrival 3 5) (sleeping { kind := .shootdown 7 0 true, todo := [5] })) skipped &&
    got (exec (.moduleLossWaveArrival 3 5) (sleeping { kind := .moduleLoss 9, todo := [5] })) skipped &&
    got (exec (.retireWaveComplete 3) (waved { kind := .retire 5, todo := [], steward := st })) (fun t => (Tab.get? t.waves 3).map (·.cleared) == some true) &&
    got (exec (.retireWaveComplete 3) (waved { kind := .retire 5, todo := [], origin := some (9, 4) })) (fun t => t.waves.isEmpty) &&
    (waved {  kind := .retire 5, todo := [], steward := st, cleared := true, met := some 0 }).waveEnds 3 { kind := .retire 5, todo := [], steward := st, cleared := true, met := some 0 }) = true := by decide

set_option maxRecDepth 16000 in
/-- A steward's write that a table refuses; a membership header keeps no reserved bit; pre-emption of what lives no more (R5,
R359, R363). -/
theorem witness_access_clauses : (headerKept (-1) != -1#64 && got (exec (.membershipWrite 0) (accessTo 0x0A 0 (some (-1)))) (backs 0x0A 0 (headerKept (-1))) &&
    got (exec (.stewardAccessArrival 0) (accessTo 0x08 5 (some (-1)))) (fun t => decide (t.net = [.response 65537 2 0 .prot []])) &&
    got (exec (.prmtArrival 0) { user [] with net := [.prmt (myName + 65536) 0] }) (fun t => t.net.isEmpty && decide (t.hd.status = .running 0)) &&
    got (exec (.prmtArrival 0) { user [] with net := [.prmt ((user []).gwName 1) 0] }) (fun t => t.net.isEmpty)) = true := by decide

set_option maxRecDepth 16000 in
/-- Flits that are malformed; lanes and pod time; a combining step of the tree's third rank (R365, R425, R428). -/
theorem witness_fabric_clauses : (let flit (m : Msg) (h : BitVec 192) : WireFlit := { flitOf m 1023 true with header := h }
    let bad (f : WireFlit) : Bool := got (exec (.flitReceive f) (fabric {} 0)) fun t => t.net.isEmpty && Tab.get? (t.die (linkDie 23)).diag 0x103 == some 1
    let sums : CombineStep := { op := .fp32Add, mean := true, live := 7, rank := 0, second := true, acc := { elems := [0x40400000], count := 2, bitmap := 3 }, child := part [0x40400000] 4 }
    bad (flit note (mkHeader 0 (1023 * 65536) 7 0 6 23 0 0 0 0 0)) && bad (flit note (mkHeader 0 (1023 * 65536) 7 1 7 23 0 0 0 0 0)) && sums.ok &&
    decide (sums.run.1.elems = [0x40000000] ∧ sums.run.1.count = 3 ∧ sums.run.1.bitmap = 7) && !{ sums with rank := 1 }.ok && !{ sums with acc := part [0] 2 }.ok && { sums with acc := part [0] 1 }.ok) = true := by decide +kernel

set_option maxRecDepth 16000 in
/-- Power: a second limit within 50 us does nothing more; sensors that are not shown (R445, R459). -/
theorem witness_power_clauses : (let limited (now : Nat) : State := { powered { inputPoint := 3 } now with mod := { timeNs := now, limitAt := some 0 } }
    got (exec (.inputLimit 6000001) (limited 49999)) (fun t => decide ((t.die 15).inputPoint = 3)) && got (exec (.inputLimit 6000001) (limited 50000)) (fun t => decide ((t.die 15).inputPoint = 1)) &&
    got (exec (.feedWrite 1) (user [])) (fun t => t.mod.feed == 1 && decide (t.fw.buddy = t.buddyOf))) = true := by decide

set_option maxRecDepth 16000 in
/-- A confidential function takes only sealed requests, and gets an Unsupported Request completion for the others (R394). -/
theorem witness_host_clauses : (let s : State := hosted { confidential := true } { vf := 1 } []
    let denied (i : Instr) : Bool := got (exec i s) fun t => decide (t.out = [.unsupported 1] ∧ t.hostFns = s.hostFns)
    denied (.sendApertureWrite ⟨1, false⟩ 0 sendBytes) && denied (.fstatClear ⟨1, false⟩ 1) && denied (.hqheadWrite ⟨1, false⟩ 9) && denied (.hostRegisterWrite ⟨1, false⟩ 0x20 0x1000) &&
    denied (.bar2Write 1 0 [1] false) && denied (.bar2Read 1 0 4 false) &&
    got (exec (.hqheadWrite ⟨1, true⟩ 9) (hosted { confidential := true, tdi := .run, ideSel := true } { vf := 1 } [])) (fun t => (t.hostFn 1).hqhead == 9) &&
    got (exec (.bar2Read 1 0x3FFFFFFFC 4 false) (hosted {} { vf := 1 } [])) (fun t => decide (t.out = [.readReply 1 (List.replicate 4 0xFF)]))) = true := by decide +kernel

/-- A START_ROOT for a place. -/
def rooted (place : Nat) : Msg := request 1 5 0 (BitVec.ofNat 64 (place * 2 ^ 32 + 80)) 0
set_option maxRecDepth 16000 in
/-- A tenant begins to end; roots on another module, on a core that sleeps, on one without entries, and of an image that
cannot be read (R400, R401, R404). -/
theorem witness_tenant_clauses : (let s := serves { vf := 1 } (request 0 2 7 0 0)
    let away := serves { vf := 1 } (rooted 65536)
    let home (f : Core → Core) : State := (serves { vf := 1 } (rooted 0)).modCore 0 f
    got (exec (.tenantDestroy 0) s) (fun t => match t.tenantRec 7 with | some r => r.destroying && t.net.length == 1 | none => false) &&
    got (exec (.startRoot 0) { away with masks := [(1, 1)] }) (fun t => t.fw.rootPending.isSome) &&
    got (exec (.startRoot 0) (home fun k => { k with asleep := true })) (fun t => (t.core 0).waking) &&
    got (exec (.startRoot 0) (home fun k => { k with actors := (List.range 64).map fun i => (i, myActor) })) (status 2) &&
    got (exec (.startRoot 0) { serves { vf := 1 } (rooted 0) with mgates := [] }) (status 6) &&
    got (exec (.serviceBadRequest 0) { serves { vf := 1 } { request 1 6 0 0 0 with hidx := 3 } with boot := { state := .recovery } }) (status 4)) = true := by decide +kernel

set_option maxRecDepth 16000 in
/-- What boot recorded stays as the fused SVN advances; SPDM of another module's steward (R407 to R410). -/
theorem witness_boot_clauses : (let both : Boot := { state := .running false, slotA := some (flash 3), slotB := some (flash 4) }
    let s : State := { user [] with boot := both }
    got (exec (.fusedSvnAdvance 9) { s with boot := { both with recorded := [(3, [1])] } }) (fun t => decide (t.boot.recorded = [(3, [1])])) &&
    got (exec (.getVersion 1025) s) (fun t => (t.spdm 1025).version)) = true := by decide +kernel

set_option maxRecDepth 16000 in
/-- A step where the first word cannot be fetched, and one whose words an operation queued before the dispatch still writes
(R215, R247). -/
theorem witness_step_clauses : (let at_ (pc : Nat) (f : Handler → Handler) : State := { (userH [] fun h => f { h with pc := pc }) with agenda := [.issue 5 0] }
    got (step (at_ 0xB000 id)) (died 6) && got (step (at_ 0x9000 id)) (died 6) &&
    got (step { ((userH [] fun h => { h with lateCode := [{ home := localHome 5 0x8100, len := 2 }] }).modHere fun k =>
      { k with teasel := [{ opOf (.copy .cpy {}) with serial := 9, writes := [{ home := localHome 5 0x8100, len := 2 }] }] }) with agenda := [.issue 5 0] }) stalls &&
    decide ((State.reset.withFetchWord 16 0).agenda.length = 1)) = true := by decide +kernel

/-- JR and CALLR take no prefix and no first field (R229, R246). -/
theorem witness_jump_words : decode [mkWord 0x2E 0 9] = .instr (.jr 9) 1 ∧ decode [mkWord 0x2F 1 9] = .instr .unassignedEncoding 1 ∧
    decode [0xF000, mkWord 0x2E 0 9] = .instr .unassignedEncoding 2 := by decide

set_option maxRecDepth 16000 in
/-- What waits: a request and a withdrawal behind an earlier one of the same two actors, a walk behind a region that is still
to be read, a question behind a close, a held message whose hashes agreed, a result behind an earlier completion (R40, R70, R88,
R95, R309). -/
theorem witness_waits : (let same (i : Instr) (s : State) : Bool := got (exec i s) fun t => decide (t = s)
    let d : Distributor := { busy := true, x := 1, y := 1, owner := myName, tenant := 7 }
    let held : State := (campionState 100000 []).modCore 5 fun k => { k with campion := k.campion.map fun c => { c with ok := true } }
    let behind : State := (asking 4 [.mergedAck 5 4 .ok 1 1 0 false]).modCore 5 fun k => { k with waitDone := [2], apert := k.apert.map fun o => { o with body := .copy .mcst { src := 0x9100, dst := 5, len := 64, dk := 4, msg := true, ccw := 0x40 } } }
    same (.linkRequestArrival 1) (flying [.linkReq false peerName myName 0 0 5 7, .linkReq false peerName myName 0 0 5 7]) &&
    same (.unlinkArrival 1) (flying [.linkReq false peerName myName 0 0 5 7, .unlink false peerName myName 0]) &&
    same (.overflowWalkEnd 5 0) (userK [] fun k => { k with walks := [{ entry := 3, kind := .all }], teasel := [opOf (.transfer transferOp)] }) &&
    same (.wqQueryArrival 0) (distState d [.wqQuery (distKey {}) 7 5 2, .wqClose (distKey {}) myName 5 3]) &&
    same (.campionTimeout 5 0) held &&
    got (exec (.mergedAckArrival 0) behind) (fun t => t.here.remotes.isEmpty && decide (t.here.waitDone = [2, 4]))) = true := by decide +kernel

set_option maxRecDepth 16000 in
/-- A transfer that copies; an identifier retired while the allocator is on; the message of a wave that is met; a loss wave
that wakes a core it concerns; the query of an identifier of another module and its answer (R100, R134, R362, R418). -/
theorem witness_wakes : (let t9 : Transfer := { (user []).transferOf peerName note 1 { dataRegion with base := 0x20000, size := 64 } false with bytes := [1, 2, 3] }
    let on : State := (waved { kind := .retire 5, todo := [] }).modDie 0 fun d => { d with tagCtrl := 0x40001, tagIssued := [(0, 32)] }
    let done : State := waved { kind := .retire 5, took := 3, skipped := 4, cleared := true, steward := some (5, myName, 9, 0x40, 0), todo := [], met := some 0 }
    let staked (i : Nat) : State := (waved { kind := .moduleLoss i, todo := [5] }).modCore 5 fun k => { k with asleep := true, links := [(0, { peer := farName, kind := .link, lslot := 3 })] }
    let far : CtxId := 0x400005
    got (exec (.transferComplete 0) (flying [.transfer t9])) (fun t => match Tab.get? (t.actor 5 4).regions 3 with
      | some r => r.size == 64 && decide (t.readBytes (regionHome 5 r) 3 = [1, 2, 3]) | none => false) &&
    got (exec (.retireWaveComplete 3) on) (fun t => t.waves.isEmpty && !bitAt (t.die 0).tagIssued 5) &&
    got (exec (.waveCompleteMessage 3) done) (fun t => t.waves.isEmpty && t.here.queue.any fun q => decide (q.entry = 3 ∧ q.msg.a1 = 9 ∧ q.msg.a2 = 3 ∧ q.msg.a3 = 4)) &&
    got (exec (.moduleLossWaveArrival 3 5) (staked (nameModule farName))) (fun t => (t.core 5).waking && decide ((Tab.get? t.waves 3).map (·.todo) = some [5])) &&
    got (exec (.moduleLossWaveArrival 3 5) (staked 9)) (fun t => (t.core 5).asleep && decide ((Tab.get? t.waves 3).map (·.skipped) = some 1)) &&
    got (exec (.wakingQuery 6 far) (lonely { waking := true, wakeAsk := [far] } 0)) (fun t => decide ((t.core 6).wakeSent = [far])) &&
    got (exec (.wakingQuery 6 far) (lonely { waking := true, wakeSent := [far] } 0)) (fun t => decide ((t.core 6).wakeSent = [far])) &&
    got (exec (.wakingQuery 6 far) { lonely { waking := true, wakeSent := [far] } 0 with net := [.wakeAns 6 far true] }) (fun t => (t.core 6).wakeSent.isEmpty && t.net.isEmpty)) =
    true := by decide +kernel

set_option maxRecDepth 16000 in
/-- A resolution of two relationships that runs into its limit; a stolen message whose thief has died; a later flit of an
operation in several that was refused (R57, R69, R75, R113). -/
theorem witness_several : (let held (i : Nat) (p : Name) : HeldEnt := { mon := false, idx := i, ent := { peer := p, kind := .link, lslot := 3 }, holder := myName }
    let two : State := { userK [] (fun k => { peers k with links := [(2, { peer := peerName, kind := .link, lslot := 3 }), (4, { peer := poolName, kind := .link, lslot := 3 })], resolving := [{ name := peerName, sup := 0, death := { cls := .killed, detail := 0, w2 := 0 }, restarts := 0, links := [held 2 peerName, held 4 poolName], asked := 0 }] })
      with mod := { timeNs := 1000000 } }
    let late : State := { userK [] (fun k => { opened k with openOps := [{ core := 9, id := (1, 2), left := 1, since := 0 }] }) with
      net := [.remote { opAt .store 8 8 (List.replicate 8 1) with whole := some { id := (1, 2), off := 0, len := 16 } }] }
    got (exec (.resolveTmo 5 0) two) (fun t => (t.core 5).resolving.isEmpty && (t.core 5).links.isEmpty && t.net.length == 2) &&
    got (exec (.stealReplyArrival 0) { thieves id (fun k => { k with actors := [], stealing := true }) with
      net := [.stealReply 6 (some { note with dest := poolName }) 6] }) (fun t => (t.core 6).pool.isEmpty && !(t.core 6).stealing && t.net.isEmpty) &&
    got (exec (.remoteOpArrival 0) late) (fun t => answersOp .window [] t && t.readHome (localHome 5 0x9008) == 0)) = true := by decide +kernel

end Sys2Proof.Tests
end

section
/-! PROOFS. What leaves memory alone: for each operation on the state that writes no byte, the memory after it is the memory before it. One
lemma for each, in the order of the model, tagged for `simp`. -/

namespace Sys2Proof.Machine

open Sys2Proof

-- In order, not in parallel: the threads of the tests above leave little of the memory that one compile may take.
set_option Elab.async false

@[simp] theorem State.mem_ite {c : Prop} [Decidable c] (a b : State) :
    (if c then a else b).mem = if c then a.mem else b.mem := apply_ite _ _ _ _

@[simp] theorem State.mem_foldl {α : Type} {f : State → α → State} {l : List α} {s : State}
    (h : ∀ (s : State) (a : α), (f s a).mem = s.mem) :
    (l.foldl f s).mem = s.mem := by
  induction l generalizing s with
  | nil => rfl
  | cons a l ih => exact ih.trans (h _ _)

/-! ### Mem -/

@[simp] theorem State.mem_modCore (s : State) (c : Nat) (f : Core → Core) : (s.modCore c f).mem = s.mem := (rfl)
@[simp] theorem State.mem_modActor (s : State) (c e : Nat) (f : Actor → Actor) : (s.modActor c e f).mem = s.mem := (rfl)
@[simp] theorem State.mem_clearLines (s : State) (home len : Nat) : (s.clearLines home len).mem = s.mem := (rfl)
@[simp] theorem State.mem_countDie (s : State) (d code : Nat) : (s.countDie d code).mem = s.mem := (rfl)
@[simp] theorem State.mem_hbmRead (s : State) (t : Tenant) (va n : Nat) : (s.hbmRead t va n).1.mem = s.mem := s.hbmRead_mem t va n
@[simp] theorem State.mem_probeArea (s : State) (a : Actor) (offs : List Nat) : (s.probeArea a offs).mem = s.mem := State.probeArea_mem a offs s
@[simp] theorem State.mem_evict (s : State) (core i : Nat) (c : Cell) : (s.evict core i c).mem = s.mem := by
  simp [State.evict]
@[simp] theorem State.mem_touch (s : State) (core : Nat) : (s.touch core).mem = s.mem := (rfl)

/-! ### Route -/

@[simp] theorem State.mem_countN (s : State) (core : Nat) (t : Tenant) (src n : Nat) : (s.countN core t src n).mem = s.mem := by
  simp [State.countN]
@[simp] theorem State.mem_turnBack (s : State) (core : Nat) (p : Packet) : (s.turnBack core p).mem = s.mem := by
  unfold State.turnBack
  dsimp only
  split
  case h_2 => exact (State.mem_foldl fun _ _ => by rfl).trans (by simp [State.count])
  all_goals simp [State.count]
@[simp] theorem State.mem_flitOut (s : State) (core port ep group : Nat) (key : BitVec 256) (p : Packet) :
    (s.flitOut core port ep group key p).mem = s.mem := (rfl)
@[simp] theorem State.mem_noGroup (s : State) (p : Packet) : (s.noGroup p).mem = s.mem := by
  unfold State.noGroup
  split <;> simp
@[simp] theorem State.mem_gateOut (s : State) (core : Nat) (p : Packet) : (s.gateOut core p).mem = s.mem := by
  simp only [State.gateOut]
  (repeat' split) <;> simp
@[simp] theorem State.mem_tilesOut (s : State) (core : Nat) (t : Transfer) : (s.tilesOut core t).mem = s.mem := by
  simp [State.tilesOut]
@[simp] theorem State.mem_flushBuf (s : State) (b : CombineBuf) : (s.flushBuf b).mem = s.mem := by
  unfold State.flushBuf
  split <;> simp
@[simp] theorem State.mem_flushEndpoint (s : State) (core : Nat) : (s.flushEndpoint core).mem = s.mem := by
  simp [State.flushEndpoint]
@[simp] theorem State.mem_flushTarget (s : State) (core ep : Nat) : (s.flushTarget core ep).mem = s.mem := by
  simp [State.flushTarget]
@[simp] theorem State.mem_combineIn (s : State) (core port : Nat) (o : RemoteOp) : (s.combineIn core port o).mem = s.mem := by
  simp only [State.combineIn]
  split <;> simp
@[simp] theorem State.mem_cross (s : State) (core m ep : Nat) (relaxed : Bool) (o : RemoteOp) :
    (s.cross core m ep relaxed o).mem = s.mem := by
  unfold State.cross
  split <;> simp
@[simp] theorem State.mem_transmit (s : State) (core : Nat) (p : Packet) (relaxed : Bool) :
    (s.transmit core p relaxed).mem = s.mem := by
  simp only [State.transmit]
  (repeat' split) <;> simp

/-! ### Ops -/

@[simp] theorem State.mem_modHd (s : State) (f : Handler → Handler) : (s.modHd f).mem = s.mem := (rfl)
@[simp] theorem State.mem_modHere (s : State) (f : Core → Core) : (s.modHere f).mem = s.mem := (rfl)
@[simp] theorem State.mem_modSelf (s : State) (f : Actor → Actor) : (s.modSelf f).mem = s.mem := (rfl)
@[simp] theorem State.mem_countHere (s : State) (src : Nat) : (s.countHere src).mem = s.mem := by simp [State.countHere]
@[simp] theorem State.mem_setReg (s : State) (r : Reg) (v : Word) : (s.setReg r v).mem = s.mem := (rfl)
@[simp] theorem State.mem_setPred (s : State) (p : Pred) (v : Bool) : (s.setPred p v).mem = s.mem := (rfl)
@[simp] theorem State.mem_orFlags (s : State) (f : BitVec 6) : (s.orFlags f).mem = s.mem := (rfl)
@[simp] theorem State.mem_retire (s : State) : s.retire.mem = s.mem := s.retire_mem
@[simp] theorem State.mem_stall (s : State) : s.stall.mem = s.mem := (rfl)
@[simp] theorem State.mem_result (s : State) (core rec serial idx : Nat) (v : Word) :
    (s.result core rec serial idx v).mem = s.mem := (rfl)
@[simp] theorem State.mem_resultRegion (s : State) (core rec serial idx : Nat) (v : Word) (entry handle : Nat) :
    (s.resultRegion core rec serial idx v entry handle).mem = s.mem := (rfl)
@[simp] theorem State.mem_trimFresh (s : State) (core : Nat) : (s.trimFresh core).mem = s.mem := by simp [State.trimFresh]
@[simp] theorem State.mem_abandon (s : State) (core : Nat) (name : Name) : (s.abandon core name).mem = s.mem := by
  unfold State.abandon
  refine (State.mem_foldl fun t x => ?_).trans ((State.mem_foldl fun _ _ => by simp).trans rfl)
  split <;> simp
@[simp] theorem State.mem_exitOne (s : State) (core entry : Nat) (cls : DeathClass) (detail : BitVec 8) (w2 : Word) (exempt : Option Nat) :
    (s.exitOne core entry cls detail w2 exempt).mem = s.mem := by
  unfold State.exitOne
  have told (kids : List Name) (t : State) : (kids.foldl (fun t n => t.transmit core (.kill n .shutdown 0#8 (s.actor core entry).name) true) t).mem =
      t.mem := State.mem_foldl fun _ _ => by simp
  simp [told]
@[simp] theorem State.mem_rewriteDeath (s : State) (core entry : Nat) (cls : DeathClass) (detail : BitVec 8) (w2 : Word) :
    (s.rewriteDeath core entry cls detail w2).mem = s.mem := (rfl)
@[simp] theorem State.mem_enterExiting (s : State) (core entry : Nat) (cls : DeathClass) (detail : BitVec 8) (w2 : Word) (exempt : Option Nat) :
    (s.enterExiting core entry cls detail w2 exempt).mem = s.mem := by
  simp only [State.enterExiting]
  (repeat' split) <;> simp
@[simp] theorem State.mem_takeFault (s : State) (c : FaultCode) : (s.takeFault c).mem = s.mem := by simp [State.takeFault]
@[simp] theorem State.mem_resume (s : State) (core rec slot : Nat) : (s.resume core rec slot).mem = s.mem := (rfl)

/-! ### Outbound -/

@[simp] theorem State.mem_openDist (s : State) (core : Nat) (name : Name) (rec serial idx x y : Nat) :
    (s.openDist core name rec serial idx x y).mem = s.mem := by
  simp only [State.openDist]
  split <;> simp
@[simp] theorem State.mem_poolPush (s : State) (core entry : Nat) (m : Msg) (ownerEnd : Bool) :
    (s.poolPush core entry m ownerEnd).mem = s.mem := by
  simp only [State.poolPush]
  split <;> simp
@[simp] theorem State.mem_forkIn (s : State) (core entry : Nat) (m : Msg) : (s.forkIn core entry m).mem = s.mem := by
  simp [State.forkIn]
@[simp] theorem State.mem_leave (s : State) (core : Nat) (e : OutEnt) : (s.leave core e).mem = s.mem := by
  unfold State.leave
  split <;> simp
@[simp] theorem State.mem_enqueue (s : State) (core : Nat) (e : OutEnt) : (s.enqueue core e).mem = s.mem := by
  simp [State.enqueue]
@[simp] theorem State.mem_diverge (s : State) (core entry : Nat) (src : Nat) (pc : Nat) :
    (s.diverge core entry src pc).mem = s.mem := by
  simp [State.diverge]
@[simp] theorem State.mem_campionFlow (s : State) (core : Nat) : (s.campionFlow core).mem = s.mem := by
  simp [State.campionFlow]
@[simp] theorem State.mem_campionMeet (s : State) (core entry n : Nat) : (s.campionMeet core entry n).mem = s.mem := by
  simp only [State.campionMeet]
  split <;> simp
@[simp] theorem State.mem_post (s : State) (core entry : Nat) (e : OutEnt) (pc : Nat) :
    (s.post core entry e pc).mem = s.mem := by
  simp only [State.post]
  split <;> simp
@[simp] theorem State.mem_bumpSeq (s : State) (core : Nat) : (s.bumpSeq core).mem = s.mem := (rfl)
@[simp] theorem State.mem_bumpId (s : State) (core : Nat) : (s.bumpId core).mem = s.mem := (rfl)
@[simp] theorem State.mem_sendPacket (s : State) (p : Packet) (rel : Option Scope) (place : Option Nat) :
    (s.sendPacket p rel place).mem = s.mem := by
  simp [State.sendPacket]
@[simp] theorem State.mem_sendHere (s : State) (b : OutBody) : (s.sendHere b).mem = s.mem := by simp [State.sendHere]
@[simp] theorem State.mem_sendRemote (s : State) (r : Remote) (rel : Option Scope) (p : Packet) :
    (s.sendRemote r rel p).mem = s.mem := by
  simp [State.sendRemote]

/-! ### Operands -/

@[simp] theorem State.mem_settleCells (s : State) (core : Nat) : (s.settleCells core).mem = s.mem := (rfl)
@[simp] theorem State.mem_unreserve (s : State) (core : Nat) : (s.unreserve core).mem = s.mem := (rfl)
@[simp] theorem State.mem_touchRead (s : State) (v : View) (h : Nat) (r : Region) (addr : Nat) :
    (s.touchRead v h r addr).mem = s.mem := by
  simp only [State.touchRead]
  (repeat' split) <;> simp
@[simp] theorem State.mem_touchLines (s : State) (v : View) (addr n : Nat) : (s.touchLines v addr n).mem = s.mem := by
  unfold State.touchLines
  split <;> simp
@[simp] theorem State.mem_touchOperand (s : State) (addr : Word) (n : Nat) : (s.touchOperand addr n).mem = s.mem := by
  simp [State.touchOperand]
@[simp] theorem State.mem_touchOperands (s : State) (l : List (Word × Nat)) : (s.touchOperands l).mem = s.mem := by
  simp [State.touchOperands]
@[simp] theorem State.mem_noteCode (s : State) (r : Region) (addr n : Nat) : (s.noteCode r addr n).mem = s.mem := by
  simp [State.noteCode]
@[simp] theorem State.mem_stallFull (s t : State) : (s.stallFull t).mem = t.mem := (rfl)

/-! ### Waves -/

@[simp] theorem State.mem_startWave (s : State) (kind : WaveKind) (steward : Option (Nat × Name × Word × Word × CtxId))
    (service : Option Msg) (issuer : Option Nat) (awaits : List Nat) (origin : Option (Nat × Nat)) :
    (s.startWave kind steward service issuer awaits origin).mem = s.mem := (rfl)
@[simp] theorem State.mem_startRetire (s : State) (core : Nat) (c : CtxId)
    (steward : Option (Nat × Name × Word × Word × CtxId)) (issuer : Option Nat) :
    (s.startRetire core c steward issuer).mem = s.mem := by
  simp [State.startRetire]
@[simp] theorem State.mem_tellModule (s : State) (m : Nat) (f : FwMsg) : (s.tellModule m f).mem = s.mem := by
  simp [State.tellModule]
@[simp] theorem State.mem_sendKeys (s : State) (m : Nat) : (s.sendKeys m).mem = s.mem := by
  unfold State.sendKeys
  refine (State.mem_foldl fun t x => ?_).trans rfl
  split <;> simp
@[simp] theorem State.mem_dial (s : State) (m : Nat) : (s.dial m).mem = s.mem := by
  simp only [State.dial]
  (repeat' split) <;> simp
@[simp] theorem State.mem_oweKey (s : State) (t : Tenant) (ms : List Nat) : (s.oweKey t ms).mem = s.mem := by
  simp [State.oweKey]
@[simp] theorem State.mem_settleRejoins (s : State) : s.settleRejoins.mem = s.mem := by simp [State.settleRejoins]
@[simp] theorem State.mem_keyReplaced (s : State) (t : Nat) : (s.keyReplaced t).mem = s.mem := by simp [State.keyReplaced]
@[simp] theorem State.mem_putFabricKey (s : State) (t : Nat) (key : BitVec 256) : (s.putFabricKey t key).mem = s.mem := by
  simp [State.putFabricKey]
@[simp] theorem State.mem_rekey (s : State) (m : Nat) : (s.rekey m).mem = s.mem := by
  unfold State.rekey
  split <;> simp
@[simp] theorem State.mem_setLost (s : State) (m : Nat) : (s.setLost m).mem = s.mem := (rfl)
@[simp] theorem State.mem_waveTook (s : State) (wave place : Nat) (skipped : Bool) :
    (s.waveTook wave place skipped).mem = s.mem := (rfl)
@[simp] theorem State.mem_countEach (s : State) (core src : Nat) (ts : List Tenant) :
    (s.countEach core src ts).mem = s.mem := by
  simp [State.countEach]
@[simp] theorem State.mem_takeRetire (s : State) (core : Nat) (c : CtxId) : (s.takeRetire core c).mem = s.mem := by
  simp [State.takeRetire]

/-! ### System -/

@[simp] theorem State.mem_writeEvent (s : State) (n : Nat) (v : Word) : (s.writeEvent n v).mem = s.mem := (rfl)
@[simp] theorem State.mem_setTrapx (s : State) (v : Bool) : (s.setTrapx v).mem = s.mem := (rfl)
@[simp] theorem State.mem_setWatch (s : State) (p : Nat) : (s.setWatch p).mem = s.mem := (rfl)
@[simp] theorem State.mem_fence (s : State) (sc : Scope) : (s.fence sc).mem = s.mem := by simp [State.fence]
@[simp] theorem State.mem_openWait (s : State) (peer : Name) (us : Nat) : (s.openWait peer us).mem = s.mem := by
  simp only [State.openWait]
  (repeat' split) <;> simp

/-! ### Mailbox -/

@[simp] theorem State.mem_dropLast (s : State) (core entry : Nat) : (s.dropLast core entry).mem = s.mem := by
  simp only [State.dropLast]
  split <;> simp
@[simp] theorem State.mem_push (s : State) (core entry : Nat) (m : Msg) (p : Place) : (s.push core entry m p).mem = s.mem := (rfl)
@[simp] theorem State.mem_displace (s : State) (core entry : Nat) (m : Msg) : (s.displace core entry m).mem = s.mem := by
  simp only [State.displace]
  split <;> simp
@[simp] theorem State.mem_overflow (s : State) (core entry : Nat) (m : Msg) (storage : Bool) :
    (s.overflow core entry m storage).mem = s.mem := by
  simp [State.overflow]
@[simp] theorem State.mem_admitMsg (s : State) (core entry : Nat) (m : Msg) : (s.admitMsg core entry m).mem = s.mem := by
  simp only [State.admitMsg]
  split <;> simp
@[simp] theorem State.mem_replyMatch (s : State) (core entry : Nat) (m : Msg) : (s.replyMatch core entry m).mem = s.mem := by
  simp only [State.replyMatch]
  (repeat' split) <;> simp
@[simp] theorem State.mem_copyTo (s : State) (core entry : Nat) (m : Msg) : (s.copyTo core entry m).mem = s.mem := by
  simp [State.copyTo]
@[simp] theorem State.mem_arrive (s : State) (core : Nat) (m : Msg) : (s.arrive core m).mem = s.mem := by
  simp only [State.arrive]
  (repeat' split) <;> simp
@[simp] theorem State.mem_arriveBuilt (s : State) (core : Nat) (m : Msg) : (s.arriveBuilt core m).mem = s.mem := by
  simp [State.arriveBuilt]
@[simp] theorem State.mem_timerMsg (s : State) (core entry : Nat) (m : Msg) : (s.timerMsg core entry m).mem = s.mem := by
  simp [State.timerMsg]
@[simp] theorem State.mem_advanceJoin (s : State) (core : Nat) (counter : Nat) (owner : Name) (n : Nat) :
    (s.advanceJoin core counter owner n).mem = s.mem := by
  simp only [State.advanceJoin]
  split <;> simp
@[simp] theorem State.mem_trimMailbox (s : State) (core entry n : Nat) : (s.trimMailbox core entry n).mem = s.mem := by
  induction n generalizing s with
  | zero => rfl
  | succ n ih => simp only [State.trimMailbox]; split <;> (try split) <;> (try split) <;> simp [ih]
@[simp] theorem State.mem_applyMbox (s : State) (core entry : Nat) (w : Option Word) : (s.applyMbox core entry w).mem = s.mem := by
  cases w <;> simp [State.applyMbox]

/-! ### Actors -/

@[simp] theorem State.mem_sendControl (s : State) (p : Packet) : (s.sendControl p).mem = s.mem := by
  unfold State.sendControl
  split <;> simp

/-! ### Flags -/

@[simp] theorem State.mem_countFlags (s : State) (core : Nat) (t : Tenant) (f : BitVec 6) :
    (s.countFlags core t f).mem = s.mem := by
  simp [State.countFlags]
@[simp] theorem State.mem_arith (s : State) (f : BitVec 6) : (s.arith f).mem = s.mem := by simp [State.arith]

/-! ### Local -/

@[simp] theorem State.mem_startRecall (s : State) (c : CtxId) : (s.startRecall c).mem = s.mem := by simp [State.startRecall]
@[simp] theorem State.mem_prefetch (s : State) (c : CtxId) : (s.prefetch c).1.mem = s.mem := by
  simp only [State.prefetch]
  repeat' split
  all_goals simp
@[simp] theorem State.mem_moveCtx (s : State) (c : CtxId) (i : Nat) : (s.moveCtx c i).mem = s.mem := (rfl)
@[simp] theorem State.mem_commitTo (s : State) (l : Landing) (v : Word) : (s.commitTo l v).mem = s.mem := by
  simp [State.commitTo]

/-! ### Regions -/

@[simp] theorem State.mem_enterRegion (s : State) (core entry handle : Nat) (r : Region) :
    (s.enterRegion core entry handle r).mem = s.mem := by
  unfold State.enterRegion
  split <;> simp
@[simp] theorem State.mem_freeSpace (s : State) (core : Nat) (r : Region) : (s.freeSpace core r).mem = s.mem := by
  unfold State.freeSpace
  split <;> simp
@[simp] theorem State.mem_settleFreeing (s : State) (core : Nat) : (s.settleFreeing core).mem = s.mem := by
  simp [State.settleFreeing]
@[simp] theorem State.mem_freeRegion (s : State) (core entry handle : Nat) (r : Region) :
    (s.freeRegion core entry handle r).mem = s.mem := by
  simp [State.freeRegion]
@[simp] theorem State.mem_freeSource (s : State) (t : Transfer) : (s.freeSource t).mem = s.mem := by simp [State.freeSource]
@[simp] theorem State.mem_dropTile (s : State) (t : Transfer) : (s.dropTile t).mem = s.mem := by simp [State.dropTile]
@[simp] theorem State.mem_discardTransfer (s : State) (core : Nat) (t : Transfer) : (s.discardTransfer core t).mem = s.mem := by
  simp [State.discardTransfer]

/-! ### Copy -/

@[simp] theorem State.mem_completeCopy (s : State) (core : Nat) (o : EngOp) (d : CopyDesc) (status : CopyStatus) (off a2 a3 : Nat) :
    (s.completeCopy core o d status off a2 a3).mem = s.mem := by
  simp [State.completeCopy]

/-! ### Dispatcher -/

@[simp] theorem State.mem_takePacket (s : State) (n : Nat) : (s.takePacket n).mem = s.mem := (rfl)
@[simp] theorem State.mem_hostArrive (s : State) (m : Msg) : (s.hostArrive m).mem = s.mem := by simp [State.hostArrive]
@[simp] theorem State.mem_advanceIn (s : State) (core : Nat) (owner : Name) (c n : Nat) :
    (s.advanceIn core owner c n).mem = s.mem := by
  simp [State.advanceIn]
@[simp] theorem State.mem_noteStalls (s : State) (core : Nat) : (s.noteStalls core).mem = s.mem := by simp [State.noteStalls]

/-! ### Image -/

@[simp] theorem State.mem_sendInit (s : State) (core entry : Nat) (a0 a1 a2 a3 : Word) :
    (s.sendInit core entry a0 a1 a2 a3).mem = s.mem := by
  simp [State.sendInit]

/-! ### Yarrow -/

@[simp] theorem State.mem_react (s : State) (core entry : Nat) (dead : Name) (w1 w2 w3 : Word) :
    (s.react core entry dead w1 w2 w3).mem = s.mem := by
  simp [State.react]
@[simp] theorem State.mem_dropShadow (s : State) (core slot : Nat) (mon : Bool) (peer : Name) :
    (s.dropShadow core slot mon peer).mem = s.mem := by
  simp only [State.dropShadow]
  (repeat' split) <;> simp
@[simp] theorem State.mem_signalIn (s : State) (core : Nat) (target dead : Name) (w1 w2 w3 : Word) :
    (s.signalIn core target dead w1 w2 w3).mem = s.mem := by
  simp only [State.signalIn]
  (repeat' split) <;> simp
@[simp] theorem State.mem_lostSignal (s : State) (core : Nat) (r : Resolving) (w3 : Word) (restarts : BitVec 16) (x : HeldEnt) :
    (s.lostSignal core r w3 restarts x).mem = s.mem := by
  unfold State.lostSignal
  split <;> simp
@[simp] theorem State.mem_ownSignal (s : State) (core : Nat) (r : Resolving) (w3 : Word) (restarts : BitVec 16) (x : HeldEnt) :
    (s.ownSignal core r w3 restarts x).mem = s.mem := by
  unfold State.ownSignal
  split <;> simp
@[simp] theorem State.mem_sendSignals (s : State) (core : Nat) (r : Resolving) (w3 : Word) (restarts : BitVec 16) :
    (s.sendSignals core r w3 restarts).mem = s.mem := by
  simp [State.sendSignals]
@[simp] theorem State.mem_returnRegions (s : State) (core entry : Nat) : (s.returnRegions core entry).mem = s.mem := by
  simp [State.returnRegions]
@[simp] theorem State.mem_resolved (s : State) (core : Nat) (dead : Name) (w3 : Word) (restarts : BitVec 16) :
    (s.resolved core dead w3 restarts).mem = s.mem := by
  simp [State.resolved]
@[simp] theorem State.mem_escalate (s : State) (core entry : Nat) (detail : BitVec 8) :
    (s.escalate core entry detail).mem = s.mem := by
  simp [State.escalate]
@[simp] theorem State.mem_answer (s : State) (core : Nat) (a : Ask) (w3 : Word) (restarts : BitVec 16) :
    (s.answer core a w3 restarts).mem = s.mem := by
  simp [State.answer]
@[simp] theorem State.mem_landStart (s : State) (core : Nat) (st : Start) (v : Word) : (s.landStart core st v).mem = s.mem := by
  simp only [State.landStart]
  (repeat' split) <;> simp
@[simp] theorem State.mem_startFailed (s : State) (core : Nat) (st : Start) (detail : BitVec 8) :
    (s.startFailed core st detail).mem = s.mem := by
  unfold State.startFailed
  split <;> simp
@[simp] theorem State.mem_placeChild (s : State) (core : Nat) (st : Start) : (s.placeChild core st).mem = s.mem := by
  simp only [State.placeChild]
  (repeat' split) <;> simp
@[simp] theorem State.mem_addLink (s : State) (core entry : Nat) (peer psup : Name) (prst : BitVec 16) :
    (s.addLink core entry peer psup prst).mem = s.mem := by
  unfold State.addLink
  split <;> simp
@[simp] theorem State.mem_initFar (s : State) (core : Nat) (n a0 a1 a2 : Word) : (s.initFar core n a0 a1 a2).mem = s.mem := by
  simp [State.initFar]
@[simp] theorem State.mem_ackSpawn (s : State) (core id : Nat) (o : OpenSpawn) (name : Name) :
    (s.ackSpawn core id o name).mem = s.mem := (rfl)
@[simp] theorem State.mem_endOpen (s : State) (core id : Nat) (o : OpenSpawn) (v : Word) :
    (s.endOpen core id o v).mem = s.mem := (rfl)
@[simp] theorem State.mem_endSpawn (s : State) (core id : Nat) (o : OpenSpawn) (v : Word) :
    (s.endSpawn core id o v).mem = s.mem := by
  unfold State.endSpawn
  split <;> simp
@[simp] theorem State.mem_orphan (s : State) (core : Nat) (name : Name) : (s.orphan core name).mem = s.mem := by
  simp [State.orphan]

/-! ### Landings -/

@[simp] theorem State.mem_settleFences (s : State) (core : Nat) : (s.settleFences core).mem = s.mem := by
  unfold State.settleFences
  exact (State.mem_foldl fun _ _ => by rfl).trans rfl
@[simp] theorem State.mem_finishCopy (s : State) (core : Nat) (o : EngOp) (d : CopyDesc) :
    (s.finishCopy core o d).mem = s.mem := by
  simp [State.finishCopy]
@[simp] theorem State.mem_endCopy (s : State) (core : Nat) (o : EngOp) (d : CopyDesc) : (s.endCopy core o d).mem = s.mem := by
  simp [State.endCopy]
@[simp] theorem State.mem_endAperture (s : State) (core id : Nat) (status : CopyStatus) (a2 a3 : Nat) :
    (s.endAperture core id status a2 a3).mem = s.mem := by
  simp only [State.endAperture]
  (repeat' split) <;> simp
@[simp] theorem State.mem_completeOne (s : State) (core rid : Nat) (status : CopyStatus) (data : List Byte) :
    (s.completeOne core rid status data).mem = s.mem := by
  simp only [State.completeOne]
  (repeat' split) <;> simp
@[simp] theorem State.mem_answerOne (s : State) (core rid : Nat) (status : CopyStatus) (data : List Byte) :
    (s.answerOne core rid status data).mem = s.mem := by
  unfold State.answerOne
  split <;> simp
@[simp] theorem State.mem_completeRemote (s : State) (core rid : Nat) (status : CopyStatus) (data : List Byte) :
    (s.completeRemote core rid status data).mem = s.mem := by
  unfold State.completeRemote
  split <;> simp
@[simp] theorem State.mem_answerRemote (s : State) (core rid : Nat) (status : CopyStatus) (data : List Byte) :
    (s.answerRemote core rid status data).mem = s.mem := by
  unfold State.answerRemote
  split <;> simp
@[simp] theorem State.mem_answerOp (s : State) (core : Nat) (op : RemoteOp) (member : Option Nat) (status : CopyStatus) (data : List Byte) :
    (s.answerOp core op member status data).mem = s.mem := by
  unfold State.answerOp
  split <;> simp
@[simp] theorem State.mem_rejectOp (s : State) (core : Nat) (op : RemoteOp) (member : Option Nat) (src : Nat) (status : CopyStatus) :
    (s.rejectOp core op member src status).mem = s.mem := by
  simp [State.rejectOp]
@[simp] theorem State.mem_touchRegion (s : State) (v : View) (h : Nat) (r : Region) (addr n : Nat) :
    (s.touchRegion v h r addr n).mem = s.mem := by
  simp [State.touchRegion]
@[simp] theorem State.mem_startLandingRecall (s : State) (core : Nat) (x : HeldLanding) :
    (s.startLandingRecall core x).mem = s.mem := by
  simp [State.startLandingRecall]
@[simp] theorem State.mem_holdLanding (s : State) (core : Nat) (x : HeldLanding) : (s.holdLanding core x).mem = s.mem := (rfl)
@[simp] theorem State.mem_apertureOne (s : State) (core rid : Nat) (status : CopyStatus) (a2 a3 : Nat) :
    (s.apertureOne core rid status a2 a3).mem = s.mem := by
  unfold State.apertureOne
  split <;> simp
@[simp] theorem State.mem_apertureDone (s : State) (core rid : Nat) (status : CopyStatus) (a2 a3 : Nat) :
    (s.apertureDone core rid status a2 a3).mem = s.mem := by
  unfold State.apertureDone
  split <;> simp

/-! ### Vetch -/

@[simp] theorem State.mem_giveTags (s : State) (die core want : Nat) : (s.giveTags die core want).1.mem = s.mem := by
  simp [State.giveTags]
@[simp] theorem State.mem_serveTags (s : State) (die : Nat) (l : List (Nat × Nat)) : (s.serveTags die l).mem = s.mem := by
  induction l generalizing s with
  | nil => rfl
  | cons p l ih => simp [State.serveTags, ih]
@[simp] theorem State.mem_clearIds (s : State) (ids : List CtxId) : (s.clearIds ids).mem = s.mem := by
  unfold State.clearIds
  exact (State.mem_foldl fun _ _ => by simp).trans (State.mem_foldl fun _ _ => by simp)
@[simp] theorem State.mem_gateLoss (s : State) (m : Nat) : (s.gateLoss m).mem = s.mem := State.mem_foldl fun _ _ => by rfl
@[simp] theorem State.mem_endWave (s : State) (wave : Nat) (w : Wave) : (s.endWave wave w).mem = s.mem := by
  simp only [State.endWave]
  (repeat' split) <;> simp
@[simp] theorem State.mem_wakeCore (s : State) (core : Nat) : (s.wakeCore core).mem = s.mem := (rfl)
@[simp] theorem State.mem_retireAt (s : State) (c : CtxId) : (s.retireAt c).mem = s.mem := by simp [State.retireAt]
@[simp] theorem State.mem_takeShootdown (s : State) (place : Nat) (t : Tenant) (page : Nat) (all : Bool) :
    (s.takeShootdown place t page all).mem = s.mem := by
  simp [State.takeShootdown]
@[simp] theorem State.mem_failRemotes (s : State) (core m : Nat) : (s.failRemotes core m).mem = s.mem := by
  simp [State.failRemotes]
@[simp] theorem State.mem_signalLoss (s : State) (core m : Nat) : (s.signalLoss core m).mem = s.mem := by
  simp [State.signalLoss]

/-! ### Steward -/

@[simp] theorem State.mem_modGroup (s : State) (e : Nat) (f : Group → Group) : (s.modGroup e f).mem = s.mem := (rfl)
@[simp] theorem State.mem_manageVia (s : State) (port m : Nat) (x : Mgmt) : (s.manageVia port m x).mem = s.mem := by
  unfold State.manageVia
  split <;> simp
@[simp] theorem State.mem_manageSwitches (s : State) (x : Mgmt) : (s.manageSwitches x).mem = s.mem := by
  simp [State.manageSwitches]
@[simp] theorem State.mem_beginGroup (s : State) (e : Nat) (v : Word) (ack : Option (Nat × Nat)) (answer : Option Msg) :
    (s.beginGroup e v ack answer).mem = s.mem := by
  simp [State.beginGroup]
@[simp] theorem State.mem_groupEnd (s : State) (entry : Nat) (ok : Bool) : (s.groupEnd entry ok).mem = s.mem := by
  simp only [State.groupEnd]
  (repeat' split) <;> simp
@[simp] theorem State.mem_groupAcked (s : State) (entry port : Nat) : (s.groupAcked entry port).mem = s.mem := by
  simp [State.groupAcked]

/-! ### Fabric -/

@[simp] theorem State.mem_prefail (s : State) (kind place lane value : Nat) :
    (s.prefail kind place lane value).mem = s.mem := by
  simp [State.prefail]
@[simp] theorem State.mem_hear (s : State) (m : Nat) : (s.hear m).mem = s.mem := (rfl)
@[simp] theorem State.mem_managed (s : State) (port m : Nat) (x : Mgmt) : (s.managed port m x).mem = s.mem := by
  unfold State.managed
  split <;> simp
@[simp] theorem State.mem_tileEnd (s : State) (t : Transfer) : (s.tileEnd t).mem = s.mem := by
  simp only [State.tileEnd]
  split <;> simp
@[simp] theorem State.mem_deliver (s : State) (port src : Nat) (p : Packet) : (s.deliver port src p).mem = s.mem := by
  simp only [State.deliver]
  (repeat' split) <;> simp
@[simp] theorem State.mem_takeDown (s : State) (p : Nat) : (s.takeDown p).mem = s.mem := (rfl)
@[simp] theorem State.mem_chooseBuddy (s : State) : s.chooseBuddy.mem = s.mem := by
  simp only [State.chooseBuddy]
  (repeat' split) <;> simp
@[simp] theorem State.mem_joinMask (s : State) (p m : Nat) : (s.joinMask p m).mem = s.mem := by simp [State.joinMask]
@[simp] theorem State.mem_notePort (s : State) (p : Nat) : (s.notePort p).mem = s.mem := by
  unfold State.notePort
  split <;> simp
@[simp] theorem State.mem_probeSuspect (s : State) (m : Nat) : (s.probeSuspect m).mem = s.mem := by simp [State.probeSuspect]
@[simp] theorem State.mem_killTenant (s : State) (t : Tenant) (cls : DeathClass) : (s.killTenant t cls).mem = s.mem := by
  simp [State.killTenant]

/-! ### Power -/

@[simp] theorem State.mem_steer (s : State) (die : Nat) : (s.steer die).mem = s.mem := (rfl)
@[simp] theorem State.mem_steerAll (s : State) (f : Die → Die) : (s.steerAll f).mem = s.mem := State.mem_foldl fun _ _ => by simp
@[simp] theorem State.mem_applyCap (s : State) (die : Nat) : (s.applyCap die).mem = s.mem := (rfl)
@[simp] theorem State.mem_noteClamp (s : State) (die : Nat) : (s.noteClamp die).mem = s.mem := by simp [State.noteClamp]
@[simp] theorem State.mem_noteContact (s : State) (v : Word) : (s.noteContact v).mem = s.mem := by
  unfold State.noteContact
  split <;> simp
@[simp] theorem State.mem_credit (s : State) (core t uj : Nat) : (s.credit core t uj).mem = s.mem := by simp [State.credit]
@[simp] theorem State.mem_creditCore (s : State) (core share : Nat) : (s.creditCore core share).mem = s.mem := by
  simp [State.creditCore]
@[simp] theorem State.mem_pldmBase (s : State) (c : PldmBase) : (s.pldmBase c).mem = s.mem := by
  unfold State.pldmBase
  split <;> simp

/-! ### HostGate -/

@[simp] theorem State.mem_signalVector (s : State) (fn v : Nat) : (s.signalVector fn v).mem = s.mem := by
  simp [State.signalVector]
@[simp] theorem State.mem_sendHost (s : State) (fn : Nat) : (s.sendHost fn).mem = s.mem := by simp [State.sendHost]
@[simp] theorem State.mem_apFault (s : State) (fn : Nat) : (s.apFault fn).mem = s.mem := (rfl)

/-! ### Service -/

@[simp] theorem State.mem_modTenant (s : State) (t : Tenant) (f : TenantRec → TenantRec) : (s.modTenant t f).mem = s.mem := (rfl)
@[simp] theorem State.mem_extend (s : State) (fn : Nat) (bs : List Byte) : (s.extend fn bs).mem = s.mem := (rfl)
@[simp] theorem State.mem_dropRoots (s : State) (t : Tenant) : (s.dropRoots t).mem = s.mem := State.mem_foldl fun _ _ => by rfl
@[simp] theorem State.mem_rootUp (s : State) (m : Msg) (root : Name) (digest : BitVec 256) :
    (s.rootUp m root digest).mem = s.mem := (rfl)
@[simp] theorem State.mem_wordsOf (s : State) (t : Tenant) (va n : Nat) : (s.wordsOf t va n).1.mem = s.mem := s.hbmRead_mem t va _
@[simp] theorem State.mem_setMembership (s : State) (g : Nat) (r : Membership) : (s.setMembership g r).mem = s.mem := (rfl)
@[simp] theorem State.mem_shareMembership (s : State) (g : Nat) (r : Membership) : (s.shareMembership g r).mem = s.mem := by
  simp [State.shareMembership]
@[simp] theorem State.mem_rootAnswered (s : State) (st : Nat) (root : Name) (digest : BitVec 256) :
    (s.rootAnswered st root digest).mem = s.mem := by
  unfold State.rootAnswered
  split <;> simp

/-! ### Attest -/

@[simp] theorem State.mem_setSpdm (s : State) (fn : Nat) (x : Spdm) : (s.setSpdm fn x).mem = s.mem := (rfl)
@[simp] theorem State.mem_spdmSend (s : State) (fn : Nat) (what : String) (bs : List Byte) :
    (s.spdmSend fn what bs).mem = s.mem := by
  simp [State.spdmSend]
@[simp] theorem State.mem_spdmNext (s : State) (m : Nat) (what : String) (bs : List Byte) :
    (s.spdmNext m what bs).mem = s.mem := by
  unfold State.spdmNext
  split <;> simp

/-! ### CopyDone -/

@[simp] theorem State.mem_touchSpans (s : State) (v : View) (sps : List Span) : (s.touchSpans v sps).mem = s.mem := by
  unfold State.touchSpans
  refine State.mem_foldl fun t x => ?_
  split <;> simp
@[simp] theorem State.mem_readEnd (s : State) (core : Nat) (o : EngOp) (kind v off n : Nat) :
    (s.readEnd core o kind v off n).1.mem = s.mem := by
  unfold State.readEnd
  split <;> (try split) <;> (try split) <;> simp
@[simp] theorem State.mem_readLines (s : State) (core : Nat) (o : EngOp) (kind v : Nat) (l : List (Nat × Nat)) (acc : List Byte) :
    (s.readLines core o kind v l acc).1.mem = s.mem := by
  induction l generalizing s acc with
  | nil => rfl
  | cons p l ih =>
    have read := s.mem_readEnd core o kind v p.1 p.2
    simp only [State.readLines]
    split <;> simp_all
@[simp] theorem State.mem_sendPiece (s : State) (core : Nat) (o : EngOp) (d : CopyDesc) (p : WinPiece) (bs : List Byte) :
    (s.sendPiece core o d p bs).mem = s.mem := by
  simp [State.sendPiece]
@[simp] theorem State.mem_modOp (s : State) (core : Nat) (o : EngOp) (f : EngOp → EngOp) : (s.modOp core o f).mem = s.mem := (rfl)
@[simp] theorem State.mem_sendPieces (s : State) (core : Nat) (o : EngOp) (d : CopyDesc) (l : List WinPiece) :
    (s.sendPieces core o d l).mem = s.mem := by
  induction l generalizing s with
  | nil => simp [State.sendPieces]
  | cons p l ih =>
    simp only [State.sendPieces]
    split
    · rfl
    · split
      · generalize hr : s.readLines core o d.sk d.src _ [] = r
        have read : r.1.mem = s.mem := hr ▸ s.mem_readLines ..
        split <;> simp_all
      · simp [ih]
@[simp] theorem State.mem_sendTransfer (s : State) (core : Nat) (o : EngOp) (t : Transfer) :
    (s.sendTransfer core o t).mem = s.mem := by
  simp [State.sendTransfer]

/-! ### Scalar -/

@[simp] theorem State.mem_jump (s : State) (target : Nat) : (s.jump target).mem = s.mem := (rfl)
@[simp] theorem State.mem_link (s : State) : s.link.mem = s.mem := (rfl)

/-! ### Vector -/

@[simp] theorem State.mem_pushVec (s : State) (op : EngOp) : (s.pushVec op).mem = s.mem := (rfl)
@[simp] theorem State.mem_sendSlices (s : State) (core : Nat) (o : EngOp) (d : Shape) (ctl : Word) (l : List Nat) :
    (s.sendSlices core o d ctl l).mem = s.mem := by
  induction l generalizing s with
  | nil => simp [State.sendSlices]
  | cons k l ih => simp [State.sendSlices, ih]
@[simp] theorem State.mem_endXch (s : State) (core : Nat) (o : EngOp) (ctl : Word) : (s.endXch core o ctl).mem = s.mem := by
  simp [State.endXch]

/-! ### Matrix -/

@[simp] theorem State.mem_pushMat (s : State) (op : EngOp) : (s.pushMat op).mem = s.mem := (rfl)

/-! ### Sorrel -/

@[simp] theorem State.mem_pushSum (s : State) (op : EngOp) : (s.pushSum op).mem = s.mem := (rfl)
@[simp] theorem State.mem_sumLand (s : State) (core : Nat) (o : EngOp) (v : Nat) : (s.sumLand core o v).mem = s.mem := by
  unfold State.sumLand
  split <;> simp

/-! ### Clock -/

@[simp] theorem State.mem_passDies (s : State) (n : Nat) : (s.passDies n).mem = s.mem := State.mem_foldl fun _ _ => by rfl
@[simp] theorem State.mem_beginOps (s : State) (core : Nat) : (s.beginOps core).mem = s.mem := (rfl)
@[simp] theorem State.mem_flow (s : State) (core : Nat) : (s.flow core).mem = s.mem := by simp [State.flow]
@[simp] theorem State.mem_passCore (s : State) (core n : Nat) : (s.passCore core n).mem = s.mem := by simp [State.passCore]
@[simp] theorem State.mem_noteCorrected (s : State) (die : Nat) : (s.noteCorrected die).mem = s.mem := by
  simp [State.noteCorrected]
@[simp] theorem State.mem_softError (s : State) (home : Nat) (lost : Bool) : (s.softError home lost).mem = s.mem := by
  simp [State.softError]
@[simp] theorem State.mem_dropBadLines (s : State) : s.dropBadLines.mem = s.mem := (rfl)
@[simp] theorem State.mem_updateSensors (s : State) (before : Nat) : (s.updateSensors before).mem = s.mem := by
  simp [State.updateSensors]
@[simp] theorem State.mem_tick (s : State) (n : Nat) : (s.tick n).mem = s.mem := by simp [State.tick]

end Sys2Proof.Machine
end

section
/-! PROOFS. What writes memory keeps its canonical form: for each operation that may write a byte, in the order in which they call each other. -/

namespace Sys2Proof.Machine

open Sys2Proof

-- In order, not in parallel: the threads of the tests above leave little of the memory that one compile may take.
set_option Elab.async false

/-! ### What an answer carries

An operation answers one state or none, with or without more; these predicates say that every state in an answer has a canonical
memory. -/

/-- `Memory.wf` as a predicate that `simp` does not take apart. -/
def Memory.Canon (m : Tab Byte) : Prop := Memory.wf m

@[simp] theorem Memory.canon_ite {c : Prop} [Decidable c] (a b : Tab Byte) :
    Memory.Canon (if c then a else b) ↔ (c → Memory.Canon a) ∧ (¬c → Memory.Canon b) := by split <;> simp [*]

def Got.Canon : Got → Prop
  | .ok t => Memory.Canon t.mem
  | .noCell => True
  | .full t => Memory.Canon t.mem

@[simp] theorem Got.canon_ok (t : State) : (Got.ok t).Canon ↔ Memory.Canon t.mem := Iff.rfl
@[simp] theorem Got.canon_noCell : (Got.noCell).Canon := trivial
@[simp] theorem Got.canon_full (t : State) : (Got.full t).Canon ↔ Memory.Canon t.mem := Iff.rfl
@[simp] theorem Got.canon_ite {c : Prop} [Decidable c] (a b : Got) :
    (if c then a else b).Canon ↔ (c → a.Canon) ∧ (¬c → b.Canon) := by split <;> simp [*]

def Fill.Canon : Fill → Prop
  | .done t => Memory.Canon t.mem
  | .short t _ => Memory.Canon t.mem
  | .wait t => Memory.Canon t.mem

@[simp] theorem Fill.canon_done (t : State) : (Fill.done t).Canon ↔ Memory.Canon t.mem := Iff.rfl
@[simp] theorem Fill.canon_short (t : State) (n : Nat) : (Fill.short t n).Canon ↔ Memory.Canon t.mem := Iff.rfl
@[simp] theorem Fill.canon_wait (t : State) : (Fill.wait t).Canon ↔ Memory.Canon t.mem := Iff.rfl

def Load.Canon : Load → Prop
  | .ok t => Memory.Canon t.mem
  | .unreadable t => Memory.Canon t.mem
  | .rejected => True
  | .noSpace => True

@[simp] theorem Load.canon_ok (t : State) : (Load.ok t).Canon ↔ Memory.Canon t.mem := Iff.rfl
@[simp] theorem Load.canon_unreadable (t : State) : (Load.unreadable t).Canon ↔ Memory.Canon t.mem := Iff.rfl
@[simp] theorem Load.canon_rejected : (Load.rejected).Canon := trivial
@[simp] theorem Load.canon_noSpace : (Load.noSpace).Canon := trivial
@[simp] theorem Load.canon_ite {c : Prop} [Decidable c] (a b : Load) :
    (if c then a else b).Canon ↔ (c → a.Canon) ∧ (¬c → b.Canon) := by split <;> simp [*]

def Landed.Canon : Landed → Prop
  | .done t => Memory.Canon t.mem
  | .wait t => Memory.Canon t.mem

@[simp] theorem Landed.canon_done (t : State) : (Landed.done t).Canon ↔ Memory.Canon t.mem := Iff.rfl
@[simp] theorem Landed.canon_wait (t : State) : (Landed.wait t).Canon ↔ Memory.Canon t.mem := Iff.rfl

def Wrote.Canon : Wrote → Prop
  | .done t => Memory.Canon t.mem
  | .refused => True
  | .later t => Memory.Canon t.mem
  | .wait => True

@[simp] theorem Wrote.canon_done (t : State) : (Wrote.done t).Canon ↔ Memory.Canon t.mem := Iff.rfl
@[simp] theorem Wrote.canon_refused : (Wrote.refused).Canon := trivial
@[simp] theorem Wrote.canon_later (t : State) : (Wrote.later t).Canon ↔ Memory.Canon t.mem := Iff.rfl
@[simp] theorem Wrote.canon_wait : (Wrote.wait).Canon := trivial

def Ending.Canon : Ending → Prop
  | .working t => Memory.Canon t.mem
  | .waiting => True
  | .gone t => Memory.Canon t.mem

@[simp] theorem Ending.canon_working (t : State) : (Ending.working t).Canon ↔ Memory.Canon t.mem := Iff.rfl
@[simp] theorem Ending.canon_waiting : (Ending.waiting).Canon := trivial
@[simp] theorem Ending.canon_gone (t : State) : (Ending.gone t).Canon ↔ Memory.Canon t.mem := Iff.rfl

def RootRes.Canon : RootRes → Prop
  | .wait t => Memory.Canon t.mem
  | .up t _ _ => Memory.Canon t.mem
  | .fail t _ => Memory.Canon t.mem

@[simp] theorem RootRes.canon_wait (t : State) : (RootRes.wait t).Canon ↔ Memory.Canon t.mem := Iff.rfl
@[simp] theorem RootRes.canon_up (t : State) (root : Name) (digest : BitVec 256) : (RootRes.up t root digest).Canon ↔ Memory.Canon t.mem := Iff.rfl
@[simp] theorem RootRes.canon_fail (t : State) (status : Nat) : (RootRes.fail t status).Canon ↔ Memory.Canon t.mem := Iff.rfl

def WordRes.Canon : WordRes → Prop
  | .fault _ => True
  | .wait => True
  | .word t _ => Memory.Canon t.mem

@[simp] theorem WordRes.canon_fault (c : FaultCode) : (WordRes.fault c).Canon := trivial
@[simp] theorem WordRes.canon_wait : (WordRes.wait).Canon := trivial
@[simp] theorem WordRes.canon_word (t : State) (w : Half) : (WordRes.word t w).Canon ↔ Memory.Canon t.mem := Iff.rfl
@[simp] theorem WordRes.canon_ite {c : Prop} [Decidable c] (a b : WordRes) :
    (if c then a else b).Canon ↔ (c → a.Canon) ∧ (¬c → b.Canon) := by split <;> simp [*]

def FetchRes.Canon : FetchRes → Prop
  | .fault _ => True
  | .wait => True
  | .instr t _ _ => Memory.Canon t.mem

@[simp] theorem FetchRes.canon_fault (c : FaultCode) : (FetchRes.fault c).Canon := trivial
@[simp] theorem FetchRes.canon_wait : (FetchRes.wait).Canon := trivial
@[simp] theorem FetchRes.canon_instr (t : State) (i : Instr) (n : Nat) : (FetchRes.instr t i n).Canon ↔ Memory.Canon t.mem := Iff.rfl

def Ready.Canon : Ready → Prop
  | .idle => True
  | .faulted t => Memory.Canon t.mem
  | .stalled t => Memory.Canon t.mem
  | .run _ t => Memory.Canon t.mem

@[simp] theorem Ready.canon_idle : (Ready.idle).Canon := trivial
@[simp] theorem Ready.canon_faulted (t : State) : (Ready.faulted t).Canon ↔ Memory.Canon t.mem := Iff.rfl
@[simp] theorem Ready.canon_stalled (t : State) : (Ready.stalled t).Canon ↔ Memory.Canon t.mem := Iff.rfl
@[simp] theorem Ready.canon_run (i : Instr) (t : State) : (Ready.run i t).Canon ↔ Memory.Canon t.mem := Iff.rfl

theorem Got.Canon.bind {g : Got} {f : State → Got} (hg : g.Canon) (hf : ∀ t, Memory.Canon t.mem → (f t).Canon) :
    (g.bind f).Canon := by
  cases g with
  | ok t => exact hf t hg
  | noCell => trivial
  | full t => exact hg

theorem Got.Canon.ok {g : Got} {t : State} (h : g.Canon) (e : g = .ok t) : Memory.Canon t.mem := by
  subst e; exact h

theorem Got.Canon.full {g : Got} {t : State} (h : g.Canon) (e : g = .full t) : Memory.Canon t.mem := by
  subst e; exact h

/-! ### Bytes -/

theorem State.canon_foldl {α : Type} {f : State → α → State} (hf : ∀ s a, Memory.Canon s.mem → Memory.Canon (f s a).mem)
    {l : List α} {s : State} (h : Memory.Canon s.mem) : Memory.Canon (l.foldl f s).mem := State.foldl_wf f hf l h

@[simp] theorem State.canon_writeBytes {s : State} (h : Memory.Canon s.mem) (a : Nat) (bs : List Byte) :
    Memory.Canon (s.writeBytes a bs).mem := State.writeBytes_wf bs h a

@[simp] theorem State.canon_physWrite {s : State} (h : Memory.Canon s.mem) (k : BitVec 512) (a : Nat) (bs : List Byte) :
    Memory.Canon (s.physWrite k a bs).mem := State.physWrite_wf h k a bs

@[simp] theorem State.canon_wipe {s : State} (h : Memory.Canon s.mem) (a n : Nat) : Memory.Canon (s.wipe a n).mem :=
  State.wipe_wf h a n

@[simp] theorem State.canon_hbmWrite {s : State} (h : Memory.Canon s.mem) (t : Tenant) (va : Nat) (bs : List Byte) :
    Memory.Canon (s.hbmWrite t va bs).1.mem := State.hbmWrite_wf h t va bs

@[simp] theorem State.canon_pokeBase {s : State} (h : Memory.Canon s.mem) (c e a : Nat) (bs : List Byte) :
    Memory.Canon (s.pokeBase c e a bs).mem := State.pokeBase_wf h c e a bs

/-! ### Cells and views (R121 to R127) -/

theorem State.canon_takeCell {s : State} (h : Memory.Canon s.mem) (core : Nat) : (s.takeCell core).Canon := by
  unfold State.takeCell
  dsimp only
  split
  · exact h
  · split
    · trivial
    · split <;> simp [h]

theorem State.canon_reserveLine {s : State} (h : Memory.Canon s.mem) (v : View) (n : Nat) (r : Region) (a : Nat) :
    (s.reserveLine v n r a).Canon := by
  unfold State.reserveLine
  dsimp only
  split
  · exact h
  · exact (State.canon_takeCell h _).bind fun t ht => by simp [ht]

theorem State.canon_reserveLines {s : State} (h : Memory.Canon s.mem) (v : View) (n : Nat) (r : Region) (l : List (Nat × Nat)) :
    (s.reserveLines v n r l).Canon := by
  induction l generalizing s with
  | nil => exact h
  | cons p l ih => exact (State.canon_reserveLine h v n r p.1).bind fun t ht => ih ht

theorem State.canon_reserveParts {s : State} (h : Memory.Canon s.mem) (v : View) (n : Nat) (r : Region) (l : List (Nat × Nat)) :
    (s.reserveParts v n r l).Canon := by
  unfold State.reserveParts
  split
  · exact State.canon_reserveLines h ..
  · exact h

@[simp] theorem State.canon_reserveView {s : State} (h : Memory.Canon s.mem) (v : View) (n : Nat) (r : Region) (a k : Nat) :
    (s.reserveView v n r a k).Canon := State.canon_reserveParts h ..

theorem State.canon_storeLine {s : State} (h : Memory.Canon s.mem) (v : View) (n : Nat) (r : Region) (a : Nat) (bs : List Byte) :
    (s.storeLine v n r a bs).Canon := by
  unfold State.storeLine
  dsimp only
  split
  · split
    · exact h
    · split
      · exact h
      · exact (State.canon_takeCell h _).bind fun t ht => by simp [ht]
  · exact State.canon_writeBytes h ..

@[simp] theorem State.canon_storeLines {s : State} (h : Memory.Canon s.mem) (v : View) (n : Nat) (r : Region) (l : List (Nat × Nat))
    (bs : List Byte) : (s.storeLines v n r l bs).Canon := by
  induction l generalizing s bs with
  | nil => exact h
  | cons p l ih => exact (State.canon_storeLine h v n r p.1 _).bind fun t ht => ih ht _

@[simp] theorem State.canon_storeView {s : State} (h : Memory.Canon s.mem) (v : View) (n : Nat) (r : Region) (a : Nat)
    (bs : List Byte) : (s.storeView v n r a bs).Canon := State.canon_storeLines h ..

@[simp] theorem State.canon_poke {s : State} (h : Memory.Canon s.mem) (v : View) (a : Nat) (bs : List Byte) :
    (s.poke v a bs).Canon := by
  unfold State.poke
  split <;> simp [h]

/-- A fold that binds on keeps what its first answer has. -/
theorem Got.canon_foldl {α : Type} {f : State → α → Got} (hf : ∀ t a, Memory.Canon t.mem → (f t a).Canon) {l : List α} {g : Got}
    (hg : g.Canon) : (l.foldl (fun g x => g.bind fun t => f t x) g).Canon := by
  induction l generalizing g with
  | nil => exact hg
  | cons a l ih => exact ih (hg.bind fun t ht => hf t a ht)

@[simp] theorem State.canon_pokeAll {s : State} (h : Memory.Canon s.mem) (v : View) (ws : List (Nat × List Byte)) :
    (s.pokeAll v ws).Canon := Got.canon_foldl (fun _ _ ht => State.canon_poke ht ..) h

@[simp] theorem State.canon_regionWrite {s : State} (h : Memory.Canon s.mem) (v : View) (n : Nat) (r : Region) (a : Nat)
    (bs : List Byte) : (s.regionWrite v n r a bs).Canon := by
  unfold State.regionWrite
  split <;> simp [h]

@[simp] theorem State.canon_localStore {s : State} (h : Memory.Canon s.mem) (v : View) (n : Nat) (r : Region) (a : Nat)
    (bs : List Byte) (rel : Option Scope) : (s.localStore v n r a bs rel).Canon := by
  unfold State.localStore
  extract_lets k conds sp held
  split
  · exact (State.canon_reserveView h ..).bind fun t ht => by simp [ht]
  · exact (State.canon_storeView h ..).bind fun t ht => by simp [ht]

@[simp] theorem State.canon_reserveShape {s : State} (h : Memory.Canon s.mem) (d : Shape) : (s.reserveShape d).Canon := by
  unfold State.reserveShape
  split <;> simp [h]

@[simp] theorem State.canon_reserveExtent {s : State} (h : Memory.Canon s.mem) (a n : Nat) : (s.reserveExtent a n).Canon := by
  unfold State.reserveExtent
  split <;> simp [h]

/-! ### Records of handlers (R16) -/

@[simp] theorem State.canon_writeItems {s : State} (h : Memory.Canon s.mem) (core rec : Nat) (items : List (Nat × List Byte)) :
    Memory.Canon (s.writeItems core rec items).mem := State.canon_foldl (fun _ _ h => State.canon_writeBytes h ..) h

@[simp] theorem State.canon_modCtl {s : State} (h : Memory.Canon s.mem) (core rec : Nat) (f : Handler → Handler) :
    Memory.Canon (s.modCtl core rec f).mem := by
  unfold State.modCtl
  split
  · exact h
  · simp [h]

@[simp] theorem State.canon_modTile {s : State} (h : Memory.Canon s.mem) (core rec : Nat) (i : Fin 4) (v : BitVec 8192) :
    Memory.Canon (s.modTile core rec i v).mem := by
  unfold State.modTile
  split
  · exact h
  · simp [h]

@[simp] theorem State.canon_preempt {s : State} (h : Memory.Canon s.mem) (core rec : Nat) (why : PreemptWhy) :
    Memory.Canon (s.preempt core rec why).mem := by
  unfold State.preempt
  split
  · exact h
  · split <;> simp [h]

@[simp] theorem State.canon_initRecord {s : State} (h : Memory.Canon s.mem) (core rec : Nat) (g : Handler) :
    Memory.Canon (s.initRecord core rec g).mem := by simp [State.initRecord, h]

@[simp] theorem State.canon_startHandler {s : State} (h : Memory.Canon s.mem) (core : Nat) (c : CandInfo) (m : Msg) (k : Core)
    (g : Header) : Memory.Canon (s.startHandler core c m k g).mem := by
  unfold State.startHandler
  split <;> simp [h]

@[simp] theorem State.canon_dispatchMsg {s : State} (h : Memory.Canon s.mem) (core : Nat) (c : CandInfo) :
    Memory.Canon (s.dispatchMsg core c).mem := by
  unfold State.dispatchMsg
  split
  · exact h
  · split <;> simp [h]

@[simp] theorem State.canon_recallDone {s : State} (h : Memory.Canon s.mem) (core entry : Nat) (c : CtxId) :
    Memory.Canon (s.recallDone core entry c).mem := State.canon_foldl (fun _ _ h => State.canon_modCtl h ..) h

/-! ### Recalls (R125, R126) -/

@[simp] theorem State.canon_freeRecord {s : State} (h : Memory.Canon s.mem) (core entry off : Nat) :
    Memory.Canon (s.freeRecord core entry off).mem := by simp [State.freeRecord, h]

theorem State.canon_recallAll {s : State} (h : Memory.Canon s.mem) (core entry slot : Nat) (c : CtxId) (l : List Record) :
    (s.recallAll core entry slot c l).Canon := by
  induction l generalizing s with
  | nil => exact h
  | cons r l ih =>
    have cell := State.canon_takeCell h core
    unfold State.recallAll
    split
    · next t ht => rw [ht] at cell; exact ih (by simpa using State.canon_freeRecord (by simpa using cell) ..)
    · next t ht => rw [ht] at cell; exact cell
    · exact h

theorem State.canon_recallList {s : State} (h : Memory.Canon s.mem) (core entry : Nat) (c : CtxId) (l : List Record) :
    (s.recallList core entry c l).Canon := by
  unfold State.recallList
  split
  · exact h
  · split
    · exact h
    · next k slot _ =>
      dsimp only
      have all := State.canon_recallAll (s := (s.setCore core k).probeArea (s.actor core entry)
        (if (s.actor core entry).ovlen < 128 then [] else probeOffsets (s.actor core entry).ovlen c)) (by simpa using h) core entry slot c l
      split
      · next t ht => rw [ht] at all; split <;> exact all
      · exact all

@[simp] theorem State.canon_performRecall {s : State} (h : Memory.Canon s.mem) (core entry : Nat) (c : CtxId) (first : Record → Bool) :
    (s.performRecall core entry c first).Canon := State.canon_recallList h ..

@[simp] theorem State.canon_viewIn {s : State} (h : Memory.Canon s.mem) (core entry : Nat) (c : CtxId) (sps : List Span) :
    Memory.Canon (s.viewIn core entry c sps).2.mem := by
  unfold State.viewIn
  dsimp only
  split
  · exact h
  · have filled := State.canon_performRecall h core entry c (s.touchesRecord core entry sps)
    split <;> simp_all

@[simp] theorem State.canon_freeRecordsOf {s : State} (h : Memory.Canon s.mem) (core : Nat) (c : CtxId) :
    Memory.Canon (s.freeRecordsOf core c).mem := by
  refine State.canon_foldl (fun t a ht => ?_) h
  split
  · exact ht
  · exact State.canon_foldl (fun _ _ h => State.canon_freeRecord h ..) ht

@[simp] theorem State.canon_wakeAnswer {s : State} (h : Memory.Canon s.mem) (core : Nat) (c : CtxId) (live : Bool) :
    Memory.Canon (s.wakeAnswer core c live).mem := by simp [State.wakeAnswer, h]

/-! ### Children and their tables (R78 to R84) -/

@[simp] theorem State.canon_writeTable {s : State} (h : Memory.Canon s.mem) (core entry off : Nat) (bs : List Byte) :
    Memory.Canon (s.writeTable core entry off bs).mem := by
  have at_ (t : State) (c e : Nat) (ht : Memory.Canon t.mem) :
      Memory.Canon (match (t.actor c e).sup with
        | some x => t.pokeBase c e (x + off) bs
        | none => t).mem := by split <;> simp [ht]
  unfold State.writeTable
  dsimp only
  split
  · exact at_ _ _ _ (at_ _ _ _ h)
  · exact at_ _ _ _ h

@[simp] theorem State.canon_writeName {s : State} (h : Memory.Canon s.mem) (core entry i : Nat) (n : Name) :
    Memory.Canon (s.writeName core entry i n).mem := State.canon_writeTable h ..

@[simp] theorem State.canon_writeRcnt {s : State} (h : Memory.Canon s.mem) (core entry i : Nat) (r : BitVec 16) :
    Memory.Canon (s.writeRcnt core entry i r).mem := State.canon_writeTable h ..

theorem State.canon_rateLimit {s t : State} (h : Memory.Canon s.mem) {core entry : Nat} {bs : List Byte}
    (ht : s.rateLimit core entry bs = some t) : Memory.Canon t.mem := by
  simp only [State.rateLimit, Option.ite_none_right_eq_some, Option.some.injEq] at ht
  obtain ⟨-, rfl⟩ := ht
  simp [h]

@[simp] theorem State.canon_startEvent {s : State} (h : Memory.Canon s.mem) (core entry t : Nat) (bs : List Byte) (idx : Nat) :
    Memory.Canon (s.startEvent core entry t bs idx).mem := by
  unfold State.startEvent
  exact State.canon_foldl (fun _ _ h => State.canon_writeName h ..) (by simpa using h)

@[simp] theorem State.canon_decideDeath {s : State} (h : Memory.Canon s.mem) (core : Nat) (a : Ask) :
    Memory.Canon (s.decideDeath core a).mem := by
  simp only [State.decideDeath]
  repeat' split
  any_goals solve | simp [h]
  next t ht => simp [State.canon_rateLimit (by simpa using h) ht]

@[simp] theorem State.canon_endEvent {s : State} (h : Memory.Canon s.mem) (core : Nat) (ev : Event) :
    Memory.Canon (s.endEvent core ev).mem := State.canon_foldl (fun _ _ h => State.canon_decideDeath h ..) (by simpa using h)

theorem State.canon_loadRegions {s t : State} (h : Memory.Canon s.mem) {core entry : Nat} {bs : List Byte} {n : Nat} {l : List ImgReg}
    (ht : s.loadRegions core entry bs n l = some t) : Memory.Canon t.mem := by
  induction l generalizing s n with
  | nil => cases ht; exact h
  | cons r l ih =>
    unfold State.loadRegions at ht
    split at ht
    · cases ht
    · exact ih (by simp [h]) ht

@[simp] theorem State.canon_relocate {s : State} (h : Memory.Canon s.mem) (core entry : Nat) (l : List ImgRel) :
    Memory.Canon (s.relocate core entry l).mem := by
  induction l generalizing s with
  | nil => exact h
  | cons x l ih => unfold State.relocate; split <;> exact ih (by first | exact h | exact State.canon_writeBytes h ..)

theorem State.canon_loadImage {s : State} (h : Memory.Canon s.mem) (core entry : Nat) (b : Birth) (name : Option Name) (va n : Nat) :
    (s.loadImage core entry b name va n).Canon := by
  unfold State.loadImage
  dsimp only
  split
  · simpa using h
  · split
    · trivial
    · split
      · trivial
      · next t ht =>
        have loaded := State.canon_loadRegions (by simpa using h) ht
        simp [loaded]

theorem State.canon_bear {s : State} (h : Memory.Canon s.mem) (core entry : Nat) (b : Birth) (va n : Nat) :
    (s.bear core entry b va n).Canon := by
  have first := State.canon_loadImage h core entry b none va n
  unfold State.bear
  split
  · next t ht =>
    rw [ht] at first
    dsimp only
    split
    · exact first
    · split
      · trivial
      · next e _ =>
        have second := State.canon_loadImage first (twinCore core) e b (some (t.actor core entry).name) va n
        split
        · next u hu => rw [hu] at second; simpa using second
        · exact second
  · exact first

@[simp] theorem State.canon_adopt {s : State} (h : Memory.Canon s.mem) (core : Nat) (st : Start) (name : Name)
    (own : Option (Nat × Nat)) : Memory.Canon (s.adopt core st name own).mem := by
  simp only [State.adopt]
  repeat' split
  all_goals simp [h]

@[simp] theorem State.canon_childLoaded {s : State} (h : Memory.Canon s.mem) (core : Nat) (st : Start) (c : Nat) :
    Memory.Canon (s.childLoaded core st c).mem := by
  have born := State.canon_bear h c st.entry (st.birth st.supName) st.req.image.toNat st.req.ilen.toNat
  simp only [State.childLoaded]
  split
  all_goals simp_all

@[simp] theorem State.canon_spawnLoaded {s : State} (h : Memory.Canon s.mem) (core : Nat) (st : Start) (r : SpawnReq) :
    Memory.Canon (s.spawnLoaded core st r).mem := by
  have born := State.canon_bear h core st.entry r.birth r.image.toNat r.ilen.toNat
  simp only [State.spawnLoaded]
  split
  · simp [h]
  · split
    all_goals simp_all

@[simp] theorem State.canon_farChild {s : State} (h : Memory.Canon s.mem) (core id : Nat) (name : Name) (detail : BitVec 8) :
    Memory.Canon (s.farChild core id name detail).mem := by
  simp only [State.farChild]
  split
  · simp [h]
  · split <;> simp [h]

/-! ### Stores, operations and landings -/

@[simp] theorem State.canon_performStore {s : State} (h : Memory.Canon s.mem) (core : Nat) (n : Name) (b : OutBody) :
    Memory.Canon (s.performStore core n b).2.mem := by
  cases b with
  | localStore entry g r ctx slot addr bs =>
    simp only [State.performStore]
    split
    · exact h
    · split
      · exact h
      · next k slot _ =>
        have view (sps : List Span) := State.canon_viewIn (s := s.setCore core k) h core entry ctx sps
        split
        · exact view _
        · split
          · next t ht => exact (State.canon_storeView (view _) ..).ok ht
          · exact view _
          · next t ht => exact (State.canon_storeView (view _) ..).full ht
  | _ => exact h

@[simp] theorem State.canon_opView {s : State} (h : Memory.Canon s.mem) (core : Nat) (o : EngOp) (sps : List Span) :
    Memory.Canon (s.opView core o sps).2.1.mem := by
  unfold State.opView
  split
  · exact h
  · exact State.canon_viewIn (s := s.setCore core _) h ..

theorem State.canon_holdCells {s : State} (h : Memory.Canon s.mem) (v : View) (n : Nat) (r : Region) (l : List (Nat × Nat)) :
    Memory.Canon (s.holdCells v n r l).2.mem := by
  induction l generalizing s with
  | nil => exact h
  | cons p l ih =>
    have line := State.canon_reserveLine h v n r p.1
    unfold State.holdCells
    split <;> simp_all

@[simp] theorem State.canon_holdSpan {s : State} (h : Memory.Canon s.mem) (v : View) (sp : Span) :
    Memory.Canon (s.holdSpan v sp).2.mem := by
  unfold State.holdSpan
  split
  · split
    · exact State.canon_holdCells h ..
    · exact h
  · exact h

@[simp] theorem State.canon_opReady {s : State} (h : Memory.Canon s.mem) (core : Nat) (o : EngOp) :
    Memory.Canon (s.opReady core o).2.1.mem := by
  have view := State.canon_opView h core o (o.reads ++ o.writes)
  unfold State.opReady
  dsimp only
  split
  · exact view
  · refine List.foldlRecOn (motive := fun y : Bool × State => Memory.Canon y.2.mem) _ _ view fun y hy sp _ => ?_
    split <;> simp [hy]

@[simp] theorem State.canon_opFlags {s : State} (h : Memory.Canon s.mem) (core : Nat) (o : EngOp) (f : BitVec 6) :
    Memory.Canon (s.opFlags core o f).mem := by
  unfold State.opFlags
  split
  · exact h
  · dsimp only
    split
    · split <;> simp [h]
    · simp [h]

theorem State.canon_land {s : State} (h : Memory.Canon s.mem) (core : Nat) (x : HeldLanding) : (s.land core x).Canon := by
  unfold State.land
  extract_lets op r
  split
  · simp [h]
  · next k slot _ =>
    extract_lets t v write st old t'
    have ht : Memory.Canon t.mem := h
    have wrote (bs : List Byte) (st : CopyStatus) (back : List Byte) (counted : Bool) : (write bs st back counted).Canon := by
      have stored : ((t.reserveView v x.handle r x.addr bs.length).bind fun t => t.regionWrite v x.handle r x.addr bs).Canon :=
        (State.canon_reserveView ht ..).bind fun u hu => State.canon_regionWrite hu ..
      simp only [write]
      split
      · next u hu => exact stored.full hu
      · simp [h]
      · next u hu =>
        have kept := stored.ok hu
        split <;> simp [kept]
    split
    · exact wrote ..
    · split
      · split
        · exact wrote ..
        · simpa [t'] using ht
      · simpa [t'] using ht

@[simp] theorem State.canon_landOrHold {s : State} (h : Memory.Canon s.mem) (core : Nat) (x : HeldLanding) :
    Memory.Canon (s.landOrHold core x).mem := by
  have landed := State.canon_land h core x
  unfold State.landOrHold
  split
  · simp [h]
  · split
    · simp [h]
    · split <;> simp_all

@[simp] theorem State.canon_flitIn {s : State} (h : Memory.Canon s.mem) (core : Nat) (y : OpenOp) (op : RemoteOp) :
    Memory.Canon (s.flitIn core y op).mem := by
  simp only [State.flitIn]
  split <;> simp [h]

@[simp] theorem State.canon_remoteIn {s : State} (h : Memory.Canon s.mem) (core : Nat) (op : RemoteOp) (member : Option Nat) :
    Memory.Canon (s.remoteIn core op member).mem := by
  simp only [State.remoteIn]
  split
  · split <;> simp [h]
  · split
    · simp [h]
    · split <;> simp [h]

theorem State.canon_allocRegion {s t : State} (h : Memory.Canon s.mem) {core entry size attr i a : Nat}
    (ht : s.allocRegion core entry size attr = some (t, i, a)) : Memory.Canon t.mem := by
  unfold State.allocRegion at ht
  split at ht
  · cases ht; simp [h]
  · cases ht

@[simp] theorem State.canon_receiveTransfer {s : State} (h : Memory.Canon s.mem) (t : Transfer) :
    Memory.Canon (s.receiveTransfer t).mem := by
  simp only [State.receiveTransfer]
  split
  · simp [h]
  · split
    · simp [h]
    · split
      · split <;> simp [h]
      · split
        · simp [h]
        · next u i a ht => simp [State.canon_allocRegion h ht]

@[simp] theorem State.canon_apertureWrite {s : State} (h : Memory.Canon s.mem) (core rid : Nat) (addr : CopyDesc → Nat)
    (bs : List Byte) : Memory.Canon (s.apertureWrite core rid addr bs).2.mem := by
  unfold State.apertureWrite
  split
  · split
    · dsimp only
      split
      · exact h
      · split
        · exact h
        · have view (o : EngOp) (sps : List Span) := State.canon_opView h core o sps
          split
          · exact view ..
          · split
            · next t ht => exact (State.canon_poke (view ..) ..).ok ht
            · exact view ..
            · exact view ..
    · exact h
  · exact h

@[simp] theorem State.canon_apertureWrites {s : State} (h : Memory.Canon s.mem) (core rid : Nat) (addr : CopyDesc → Nat)
    (bs : List Byte) : Memory.Canon (s.apertureWrites core rid addr bs).2.mem := by
  unfold State.apertureWrites
  dsimp only
  split
  · split <;> simp [h]
  · simp [h]

/-! ### Copies -/

theorem State.canon_writeEnd {s : State} (h : Memory.Canon s.mem) {core : Nat} {o : EngOp} {kind v off : Nat} {bs : List Byte}
    {r : State × CopyStatus} (hr : s.writeEnd core o kind v off bs = some r) : Memory.Canon r.1.mem := by
  unfold State.writeEnd at hr
  split at hr
  · split at hr
    · next t ht => cases hr; exact (State.canon_poke h ..).ok ht
    · cases hr
    · cases hr
  · cases hr
    split <;> simp [h]
  · cases hr
    simp [h]

theorem State.canon_writeLines {s : State} (h : Memory.Canon s.mem) {core : Nat} {o : EngOp} {kind v : Nat} {l : List (Nat × Nat)}
    {bs : List Byte} {r : State × CopyStatus × Nat} (hr : s.writeLines core o kind v l bs = some r) : Memory.Canon r.1.mem := by
  induction l generalizing s bs with
  | nil => cases hr; exact h
  | cons p l ih =>
    unfold State.writeLines at hr
    split at hr
    · next t ht => exact ih (State.canon_writeEnd h ht) hr
    · next t st _ ht => cases hr; exact State.canon_writeEnd h ht
    · cases hr

theorem State.canon_landPieces {s : State} (h : Memory.Canon s.mem) {core : Nat} {o : EngOp} {d : CopyDesc}
    {l : List (Nat × List Byte)} {r : State × EngOp} (hr : s.landPieces core o d l = some r) : Memory.Canon r.1.mem := by
  induction l generalizing s o with
  | nil => cases hr; exact h
  | cons p l ih =>
    unfold State.landPieces at hr
    split at hr
    · next t st ht => exact ih (State.canon_writeEnd h ht) hr
    · cases hr

theorem State.canon_moveLines {s : State} (h : Memory.Canon s.mem) {core : Nat} {o : EngOp} {d : CopyDesc} {l : List (Nat × Nat)}
    {r : State × CopyStatus × Nat} (hr : s.moveLines core o d l = some r) : Memory.Canon r.1.mem := by
  induction l generalizing s with
  | nil => cases hr; exact h
  | cons p l ih =>
    have read := s.mem_readEnd core o d.sk d.src p.1 p.2
    unfold State.moveLines at hr
    split at hr
    · next t bs ht =>
      rw [ht] at read
      have ht' : Memory.Canon t.mem := read ▸ h
      split at hr
      · next u hu => exact ih (State.canon_writeEnd ht' hu) hr
      · next u st _ hu => cases hr; exact State.canon_writeEnd ht' hu
      · cases hr
    · next t st _ _ ht => cases hr; rw [ht] at read; exact read ▸ h

theorem State.canon_convertCopy {s : State} (h : Memory.Canon s.mem) {core : Nat} {o : EngOp} {m : ExfMode} {d : CopyDesc}
    {r : State × CopyStatus × Nat × Nat} (hr : s.convertCopy core o m d = some r) : Memory.Canon r.1.mem := by
  unfold State.convertCopy at hr
  extract_lets write at hr
  have wrote {t : State} (ht : Memory.Canon t.mem) {bs : List Byte} {a2 : Nat} (hw : write t bs a2 = some r) :
      Memory.Canon r.1.mem := by
    obtain ⟨q, hq, rfl⟩ := Option.map_eq_some_iff.mp hw
    exact State.canon_writeLines ht hq
  have read := s.mem_readLines core o d.sk d.src (lineOffsets (endBase d.sk d.src) (srcLen (.cpye m) d)) []
  split at hr
  · next t _ bs ht =>
    rw [ht] at read
    have kept : Memory.Canon t.mem := read ▸ h
    split at hr
    · exact wrote kept hr
    · exact wrote kept hr
    · exact wrote (by simp [kept]) hr
  · next t st off _ _ ht => cases hr; rw [ht] at read; exact read ▸ h

theorem State.canon_stepCopy {s t : State} (h : Memory.Canon s.mem) {core : Nat} {o : EngOp} {k : CopyKind} {d : CopyDesc}
    (ht : s.stepCopy core o k d = some t) : Memory.Canon t.mem := by
  simp only [State.stepCopy] at ht
  split at ht
  · cases ht; simp [h]
  · split at ht
    · obtain ⟨r, hr, rfl⟩ := Option.map_eq_some_iff.mp ht
      simp [State.canon_landPieces h hr]
    · split at ht
      · cases ht; simp [h]
      · split at ht
        · obtain ⟨r, hr, rfl⟩ := Option.map_eq_some_iff.mp ht
          simp [State.canon_convertCopy h hr]
        · obtain ⟨r, hr, rfl⟩ := Option.map_eq_some_iff.mp ht
          simp [State.canon_moveLines h hr]

/-! ### Engines -/

@[simp] theorem State.canon_quietFlags {s : State} (h : Memory.Canon s.mem) (core : Nat) (o : EngOp) (f : BitVec 6) :
    Memory.Canon (s.quietFlags core o f).mem := by
  unfold State.quietFlags
  split
  · split <;> simp [h]
  · exact h

@[simp] theorem State.canon_putTile {s : State} (h : Memory.Canon s.mem) (core : Nat) (o : EngOp) (d : AccReg) (t : BitVec 8192) :
    Memory.Canon (s.putTile core o d t).mem := by simp [State.putTile, h]

@[simp] theorem State.canon_matPut {s : State} (h : Memory.Canon s.mem) (core : Nat) (o : EngOp) (d : AccReg)
    (r : BitVec 8192 × BitVec 6) : Memory.Canon (s.matPut core o d r).mem := by
  unfold State.matPut State.matFlags
  split <;> simp [h]

@[simp] theorem State.canon_matMulDone {s : State} (h : Memory.Canon s.mem) (core : Nat) (o : EngOp) (d : AccReg)
    (r : BitVec 8192 × BitVec 6 × Bool) : Memory.Canon (s.matMulDone core o d r).mem := by simp [State.matMulDone, h]

theorem State.canon_runMat {s : State} (h : Memory.Canon s.mem) (core : Nat) (o : EngOp) (k : MatKind) (d a : AccReg) (x y c : Nat) :
    (s.runMat core o k d a x y c).Canon := by
  cases k with
  | st => exact (State.canon_pokeAll h ..).bind fun t ht => by simp [ht]
  | _ => simp [State.runMat, h]

theorem State.canon_markInvalid {s : State} (h : Memory.Canon s.mem) (core : Nat) (o : EngOp) (t : SumType) (a : Nat) :
    (s.markInvalid core o t a).Canon := by simp [State.markInvalid, h]

@[simp] theorem State.canon_sumBad {s : State} (h : Memory.Canon s.mem) (core : Nat) (o : EngOp) :
    Memory.Canon (s.sumBad core o).mem := by simp [State.sumBad, h]

@[simp] theorem State.canon_sumWrite {s : State} (h : Memory.Canon s.mem) (core : Nat) (o : EngOp) (t : SumType) (a : Nat)
    (r : SumRes) : (s.sumWrite core o t a r).Canon := by
  unfold State.sumWrite
  split
  · exact (State.canon_markInvalid h ..).bind fun t ht => by simp [ht]
  · exact (State.canon_poke (by exact h) ..).bind fun t ht => by simp [ht]

@[simp] theorem State.canon_sumAnswer {s : State} (h : Memory.Canon s.mem) (core : Nat) (o : EngOp) (valid : Bool) (bad : Nat)
    (r : FRes) : Memory.Canon (s.sumAnswer core o valid bad r).mem := by simp [State.sumAnswer, h]

theorem State.canon_runSum {s : State} (h : Memory.Canon s.mem) (core : Nat) (o : EngOp) (k : SumKind) (a b c : Nat) (sh : BitVec 256) :
    (s.runSum core o k a b c sh).Canon := by
  cases k with
  | hhq => exact Got.Canon.bind (by simp [h]) fun t ht => by simp [ht]
  | _ => simp [State.runSum, h]

/-! ### Page tables, tenants and reset (R400, R407, R414 to R416) -/

theorem State.canon_level2 {s : State} (h : Memory.Canon s.mem) {t : Tenant} {page : Nat} {r : State × Nat}
    (hr : s.level2 t page = some r) : Memory.Canon r.1.mem := by
  unfold State.level2 at hr
  dsimp only at hr
  split at hr
  · cases hr; exact h
  · split at hr
    · cases hr
    · cases hr; simp [h]

theorem State.canon_writeLeaf {s u : State} (h : Memory.Canon s.mem) {t : Tenant} {page leaf : Nat}
    (hu : s.writeLeaf t page leaf = some u) : Memory.Canon u.mem := by
  obtain ⟨r, hr, rfl⟩ := Option.map_eq_some_iff.mp hu
  simp [State.canon_level2 h hr]

@[simp] theorem State.canon_makeRoots0 {s : State} (h : Memory.Canon s.mem) (g : Nat) : Memory.Canon (s.makeRoots0 g).mem := by
  simp [State.makeRoots0, h]

theorem State.canon_clearFrame {s u : State} (h : Memory.Canon s.mem) {t : Tenant} {g f : Nat}
    (hu : s.clearFrame t g f = some u) : Memory.Canon u.mem := by
  obtain ⟨r, hr, hw⟩ := Option.bind_eq_some_iff.mp hu
  refine State.canon_writeLeaf ?_ hw
  split <;> simp [State.canon_writeLeaf (State.canon_makeRoots0 h _) hr]

theorem State.canon_mapPage {s u : State} (h : Memory.Canon s.mem) {t : Tenant} {wr : Bool} {page : Nat}
    (hu : s.mapPage t wr page = some u) : Memory.Canon u.mem := by
  unfold State.mapPage at hu
  dsimp only at hu
  split at hu
  · cases hu
  · obtain ⟨r, hr, hw⟩ := Option.bind_eq_some_iff.mp hu
    obtain ⟨q, hq, rfl⟩ := Option.map_eq_some_iff.mp hw
    simp [State.canon_writeLeaf (State.canon_clearFrame h hr) hq]

theorem State.canon_mapPages {s u : State} (h : Memory.Canon s.mem) {t : Tenant} {wr : Bool} {l : List Nat}
    (hu : s.mapPages t wr l = some u) : Memory.Canon u.mem := by
  induction l generalizing s with
  | nil => cases hu; exact h
  | cons p l ih =>
    unfold State.mapPages at hu
    split at hu
    · next r hr => exact ih (State.canon_mapPage h hr) hu
    · cases hu

@[simp] theorem State.canon_makeRoots {s : State} (h : Memory.Canon s.mem) (t : Tenant) : Memory.Canon (s.makeRoots t).mem :=
  State.canon_foldl (fun _ _ h => by simp [h]) h

@[simp] theorem State.canon_admitTenant {s : State} (h : Memory.Canon s.mem) (t : Tenant) (key : BitVec 256) (new : TenantRec) :
    Memory.Canon (s.admitTenant t key new).mem := by
  have keyed (keys : Tab (BitVec 512)) : Memory.Canon (({ s.draw with hbmKeys := keys } : State).putFabricKey t.toNat key).mem := by
    simpa using h
  have rooted := State.canon_makeRoots (keyed (Tab.put s.hbmKeys t.toNat (Config.hbmKeyDraw s.freeCtr))) t
  rwa [State.admitTenant, State.modFw_mem]

@[simp] theorem State.canon_dropTenant {s : State} (h : Memory.Canon s.mem) (t : Tenant) (r : TenantRec) :
    Memory.Canon (s.dropTenant t r).mem := by
  have wiped : Memory.Canon (r.mapped.foldl (fun s p =>
      let home := hbmHome (p.1 % 16) (p.2 * 0x200000)
      let s := s.wipe home 0x200000
      { s with frameKeys := Tab.del s.frameKeys (home / 0x200000) }) s).mem := State.canon_foldl (fun _ _ h => by simp [h]) h
  simp only [State.dropTenant]
  split <;> simpa using wiped

theorem State.canon_endTenant {s : State} (h : Memory.Canon s.mem) (t : Tenant) (r : TenantRec) (ms : List Nat) :
    (s.endTenant t r ms).Canon := by
  unfold State.endTenant
  repeat' split
  all_goals simp [h]

theorem State.canon_loadRoot {s : State} (h : Memory.Canon s.mem) (r : RootReq) : (s.loadRoot r).Canon := by
  unfold State.loadRoot
  dsimp only
  split
  · simp [h]
  · split
    · exact h
    · split
      · next e mon _ _ =>
        have born := State.canon_bear h (epCore r.place) e { tenant := r.tenant, supv := true } r.image r.ilen
        split <;> simp_all
      · exact h

@[simp] theorem State.canon_afterReset {s : State} (h : Memory.Canon s.mem) : Memory.Canon s.afterReset.mem := State.afterReset_wf h

@[simp] theorem State.canon_holdReset {s : State} (h : Memory.Canon s.mem) : Memory.Canon s.holdReset.mem := State.afterReset_wf h

/-! ### Steward writes (R359) -/

theorem Wrote.canon_of {r : Option State} (h : ∀ t, r = some t → Memory.Canon t.mem) : (Wrote.of r).Canon := by
  cases r with
  | none => trivial
  | some t => exact h t rfl

theorem State.writeSlice_mem {s t : State} {core i : Nat} {v : Word} (h : s.writeSlice core i v = some t) : t.mem = s.mem := by
  simp only [State.writeSlice, Option.ite_none_right_eq_some, Option.some.injEq] at h
  simp [← h.2]

theorem State.writeCfg_mem {s t : State} {core i : Nat} {v : Word} (h : s.writeCfg core i v = some t) : t.mem = s.mem := by
  unfold State.writeCfg at h
  dsimp only at h
  split at h <;>
  · simp only [Option.ite_none_right_eq_some, Option.some.injEq] at h
    simp [← h.2]

/-- A written word of the tag allocator is its control word or one of its counts withheld. -/
theorem State.writeTag_cases {s t : State} {core i : Nat} {v : Word} (h : s.writeTag core i v = some t) :
    (i = 0 ∧ t = s.modDie (dieOf core) fun d => { d with tagCtrl := v }) ∨
      (4098 ≤ i ∧ t = s.modDie (dieOf core) fun d => { d with tagWithheld := Tab.put d.tagWithheld (i - 4098) v }) := by
  unfold State.writeTag at h
  split at h
  · next control =>
    rw [Option.ite_none_right_eq_some, Option.some.injEq] at h
    exact .inl ⟨control, h.2.symm⟩
  · rw [Option.ite_none_right_eq_some, Option.some.injEq] at h
    exact .inr ⟨h.1, h.2.symm⟩

theorem State.writeTag_mem {s t : State} {core i : Nat} {v : Word} (h : s.writeTag core i v = some t) : t.mem = s.mem := by
  rcases State.writeTag_cases h with ⟨-, rfl⟩ | ⟨-, rfl⟩ <;> simp

theorem State.writeMember_mem {s t : State} {i : Nat} {v : Word} (h : s.writeMember i v = some t) : t.mem = s.mem := by
  unfold State.writeMember at h
  split at h
  · cases h
  · simp [← Option.some.inj h]

theorem State.writeGroupKey_mem {s t : State} {e w : Nat} {v : Word} (h : s.writeGroupKey e w v = some t) : t.mem = s.mem := by
  unfold State.writeGroupKey at h
  split at h
  · cases h
  · simp [← Option.some.inj h]

theorem State.writeRoot_mem {s t : State} {i : Nat} {v : Word} (h : s.writeRoot i v = some t) : t.mem = s.mem := by
  unfold State.writeRoot at h
  split at h
  · cases h
  · simp [← Option.some.inj h]

theorem State.canon_tableWrite {s : State} (h : Memory.Canon s.mem) (core tbl idx : Nat) (v : Word) (ack : Nat × Nat) :
    (s.tableWrite core tbl idx v ack).Canon := by
  unfold State.tableWrite
  split
  · exact Wrote.canon_of fun t ht => State.writeSlice_mem ht ▸ h
  · exact Wrote.canon_of fun t ht => State.writeCfg_mem ht ▸ h
  · exact Wrote.canon_of fun t ht => State.writeTag_mem ht ▸ h
  · exact Wrote.canon_of fun t ht => State.writeMember_mem ht ▸ h
  · dsimp only
    split
    · trivial
    · split
      · split <;> simp [h]
      · exact Wrote.canon_of fun t ht => State.writeGroupKey_mem ht ▸ h
  · exact Wrote.canon_of fun t ht => State.writeRoot_mem ht ▸ h
  · trivial

/-! ### Fetching (R207, R215) -/

theorem State.canon_fetchWord {s : State} (h : Memory.Canon s.mem) (addr : Nat) : (s.fetchWord addr).Canon := by
  unfold State.fetchWord
  dsimp only
  split
  · trivial
  · split
    · trivial
    · split <;> simp [h]

theorem State.canon_fetchGroup {s : State} (h : Memory.Canon s.mem) (pc n : Nat) (ws : List Half) : (s.fetchGroup pc n ws).Canon := by
  induction n generalizing s ws with
  | zero => trivial
  | succ n ih =>
    have word := State.canon_fetchWord h (pc + 2 * ws.length)
    unfold State.fetchGroup
    split
    · trivial
    · trivial
    · next t w ht =>
      rw [ht] at word
      split
      · exact word
      · trivial
      · exact ih word _

theorem State.canon_ready {s : State} (h : Memory.Canon s.mem) (core slot : Nat) : (s.ready core slot).Canon := by
  unfold State.ready
  split
  · trivial
  · split
    · trivial
    · next rec _ =>
      extract_lets u
      have kept : Memory.Canon u.mem := h
      have group := State.canon_fetchGroup kept u.hd.pc 6 []
      split
      · simp [kept]
      · simp [kept]
      · next t i n ht => rw [ht] at group; simpa using group

end Sys2Proof.Machine
end

section
/-! PROOFS. What the shared parts of instructions and events answer: always a next state, whose memory keeps its canonical form. -/

namespace Sys2Proof.Machine

open Sys2Proof

-- In order, not in parallel: the threads of the tests above leave little of the memory that one compile may take.
set_option Elab.async false

/-! ### Answers of instructions and events -/

/-- An answer is a next state, whose memory has the canonical form where `m` has it. -/
def Res.Keeps (m : Tab Byte) (r : Res) : Prop := ∃ t, r = .next t ∧ (Memory.Canon m → Memory.Canon t.mem)

section Rules
variable {m : Tab Byte} {s : State}

@[simp] theorem Res.keeps_next {t : State} : Res.Keeps m (.next t) ↔ (Memory.Canon m → Memory.Canon t.mem) := by
  constructor
  · rintro ⟨_, ⟨⟩, h⟩
    exact h
  · exact fun h => ⟨t, rfl, h⟩

@[simp] theorem Res.keeps_ite {c : Prop} [Decidable c] {a b : Res} :
    Res.Keeps m (if c then a else b) ↔ (c → Res.Keeps m a) ∧ (¬c → Res.Keeps m b) := by split <;> simp [*]

@[simp] theorem Res.keeps_fault {c : FaultCode} : Res.Keeps m (s.fault c) ↔ (Memory.Canon m → Memory.Canon s.mem) := by
  simp [State.fault]

@[simp] theorem Res.keeps_done : Res.Keeps m s.done ↔ (Memory.Canon m → Memory.Canon s.mem) := by simp [State.done]

@[simp] theorem Res.keeps_idle : Res.Keeps m s.idle ↔ (Memory.Canon m → Memory.Canon s.mem) := by simp [State.idle]

@[simp] theorem Res.keeps_guardRegs {rs : List Reg} {k : Res} : Res.Keeps m (s.guardRegs rs k) ↔
    (s.hd.named (rs.map BitVec.toNat) = true → Res.Keeps m k) ∧
      (s.hd.named (rs.map BitVec.toNat) = false → Memory.Canon m → Memory.Canon s.mem) := by simp [State.guardRegs]

@[simp] theorem Res.keeps_guardPriv {k : Res} : Res.Keeps m (s.guardPriv k) ↔
    (isSteward s.cur.core = true → Res.Keeps m k) ∧
      (isSteward s.cur.core = false → Memory.Canon m → Memory.Canon s.mem) := by simp [State.guardPriv]

@[simp] theorem Res.keeps_require {b : Bool} {c : FaultCode} {k : Res} : Res.Keeps m (s.require b c k) ↔
    (b = true → Res.Keeps m k) ∧ (b = false → Memory.Canon m → Memory.Canon s.mem) := by simp [State.require]

theorem Res.Keeps.trans {r : Res} (hs : Memory.Canon m → Memory.Canon s.mem) (hr : Res.Keeps s.mem r) : Res.Keeps m r := by
  obtain ⟨t, rfl, ht⟩ := hr
  exact ⟨t, rfl, fun h => ht (hs h)⟩

theorem Res.Keeps.guardRegs {rs : List Reg} {k : Res} (hk : Res.Keeps s.mem k) : Res.Keeps s.mem (s.guardRegs rs k) := by
  simp [hk]

theorem Res.Keeps.got {g : Got} {k : State → Res} (hs : Memory.Canon m → Memory.Canon s.mem) (hg : Memory.Canon m → g.Canon)
    (hk : ∀ t, (Memory.Canon m → Memory.Canon t.mem) → Res.Keeps m (k t)) : Res.Keeps m (s.got g k) := by
  cases g with
  | ok t => exact hk t hg
  | noCell => simpa [State.got] using hs
  | full t => simpa [State.got] using hg

theorem Res.Keeps.orWait {g : Got} {w : State} {f : State → State} (hg : Memory.Canon m → g.Canon)
    (hw : Memory.Canon m → Memory.Canon w.mem) (hf : ∀ t, Memory.Canon t.mem → Memory.Canon (f t).mem) :
    Res.Keeps m (g.orWait w f) := by
  cases g with
  | ok t => simpa [Got.orWait] using fun h => hf t (hg h)
  | noCell => simpa [Got.orWait] using hw
  | full t => simpa [Got.orWait] using hw

theorem Res.Keeps.landing {reg : Option Reg} {p : Pred} {acq : Option Scope} {k : Option Nat → Option Nat → State → Res}
    (hs : Memory.Canon m → Memory.Canon s.mem) (hk : ∀ i j h, Res.Keeps m (k i j (s.setHd h))) :
    Res.Keeps m (s.landing reg p acq k) := by
  unfold State.landing
  split
  · simpa using hs
  · exact hk ..

end Rules

/-! ### Scalar, floating-point and jump forms (chapter 11) -/

section Forms
variable (s : State)

@[simp] theorem State.keeps_alu (a b c : Reg) (w : OpWidth) (f : Nat → Word → Word → Word × BitVec 6) :
    Res.Keeps s.mem (s.alu a b c w f) := by simp [State.alu]

@[simp] theorem State.keeps_aluImm (a : Reg) (imm : Word) (f : Word → Word → Word) : Res.Keeps s.mem (s.aluImm a imm f) := by
  simp [State.aluImm]

@[simp] theorem State.keeps_alu1 (a b : Reg) (w : OpWidth) (f : Nat → Nat → Nat) : Res.Keeps s.mem (s.alu1 a b w f) := by
  simp [State.alu1]

@[simp] theorem State.keeps_jumpReg (b : Reg) (link : Bool) : Res.Keeps s.mem (s.jumpReg b link) := by
  simp [State.jumpReg]

@[simp] theorem State.keeps_fput (a : Reg) (r : FRes) : Res.Keeps s.mem (s.fput a r) := by simp [State.fput]

@[simp] theorem State.keeps_fop2 (f : FFmt) (a b c : Reg) (op : FVal → FVal → FVal × BitVec 6) :
    Res.Keeps s.mem (s.fop2 f a b c op) := by simp [State.fop2]

@[simp] theorem State.keeps_fopFma (f : FFmt) (a b c : Reg) : Res.Keeps s.mem (s.fopFma f a b c) := by simp [State.fopFma]

@[simp] theorem State.keeps_fopCmp (f : FFmt) (cond : FCond) (p : Pred) (b c : Reg) : Res.Keeps s.mem (s.fopCmp f cond p b c) := by
  simp [State.fopCmp]

@[simp] theorem State.keeps_fopDiv (f : FFmt) (a b c : Reg) : Res.Keeps s.mem (s.fopDiv f a b c) := by simp [State.fopDiv]

@[simp] theorem State.keeps_fopSqrt (f : FFmt) (a b : Reg) : Res.Keeps s.mem (s.fopSqrt f a b) := by simp [State.fopSqrt]

@[simp] theorem State.keeps_fopMin (f : FFmt) (isMax : Bool) (a b c : Reg) : Res.Keeps s.mem (s.fopMin f isMax a b c) := by
  simp [State.fopMin]

/-! ### Local memory (chapter 12) -/

@[simp] theorem State.keeps_load (n : Nat) (a b : Reg) (off : Word) (v : View) (check : Nat → Region → Option FaultCode) :
    Res.Keeps s.mem (s.load n a b off v check) := by
  unfold State.load
  split
  · simp
  · simp
  · split <;> simp

@[simp] theorem State.keeps_execLoad (n : Nat) (a b : Reg) (off : Word) : Res.Keeps s.mem (s.execLoad n a b off) := by
  simp [State.execLoad]

@[simp] theorem State.keeps_store (n : Nat) (a b : Reg) (off : Word) (ord : MemOrd) : Res.Keeps s.mem (s.store n a b off ord) := by
  unfold State.store
  split
  · simp
  · simp
  · exact .got id (fun h => State.canon_localStore h ..) fun t ht => by simpa using ht

@[simp] theorem State.keeps_execStore (n : Nat) (a b : Reg) (off : Word) (ord : MemOrd) :
    Res.Keeps s.mem (s.execStore n a b off ord) := by simp [State.execStore]

@[simp] theorem State.keeps_atomic (a b c : Reg) (off : Word) (ord : MemOrd) (f : Word → Option Word) :
    Res.Keeps s.mem (s.atomic a b c off ord f) := by
  unfold State.atomic
  refine .guardRegs ?_
  split
  · simp
  · simp
  · extract_lets k conds sp
    refine Res.keeps_ite.mpr ⟨fun _ => by simp, fun _ => ?_⟩
    split
    · simp
    · exact .got id (fun h => State.canon_storeView h ..) fun t ht => by simpa using ht

/-! ### Messages and landings (chapters 12 and 13) -/

@[simp] theorem State.keeps_sendMsg {m : Tab Byte} (x : Msg) (rel : Option Scope) (deadline : Nat) :
    Res.Keeps m (s.sendMsg x rel deadline) ↔ (Memory.Canon m → Memory.Canon s.mem) := by
  unfold State.sendMsg
  split <;> simp

theorem State.keeps_landPred (p : Pred) (v : Bool) {k : State → State} (hk : ∀ t, (k t).mem = t.mem) :
    Res.Keeps s.mem (s.landPred p v k) :=
  .landing id fun _ j h => by dsimp only; split <;> simp [hk]

/-! ### Engines (chapters 15 to 17) -/

@[simp] theorem State.keeps_loadShape (d : ShapeReg) (b : Reg) (off : Word) (base : Option Word) :
    Res.Keeps s.mem (s.loadShape d b off base) := by
  unfold State.loadShape
  split
  · simp
  · simp
  · dsimp only
    split <;> simp

@[simp] theorem State.keeps_vecForm (k : VecKind) (d : ShapeReg) (srcs : List ShapeReg) (v w : Word) :
    Res.Keeps s.mem (s.vecForm k d srcs v w) := by
  unfold State.vecForm
  split
  · simp
  · simp
  · dsimp only
    split
    · simp
    · simp
    · split
      · simp
      · exact .got id (fun h => State.canon_reserveShape h _) fun t ht => by simpa using ht

@[simp] theorem State.keeps_vec2 (k : VecKind) (a b : ShapeReg) (c : VSrc) : Res.Keeps s.mem (s.vec2 k a b c) := by
  cases c <;> simp [State.vec2]

@[simp] theorem State.keeps_vec1 (k : VecKind) (a b : ShapeReg) : Res.Keeps s.mem (s.vec1 k a b) := by simp [State.vec1]

@[simp] theorem State.keeps_matMul (sparse : Bool) (kind : MatKind) (n : AccReg) (a b c : Reg) :
    Res.Keeps s.mem (s.matMul sparse kind n a b c) := by
  refine .guardRegs ?_
  dsimp only
  repeat' split
  all_goals simp

@[simp] theorem State.keeps_matTile (k : MatKind) (d a : AccReg) : Res.Keeps s.mem (s.matTile k d a) := by simp [State.matTile]

@[simp] theorem State.keeps_sumIssue (k : SumKind) (dst ext : Nat) (reads : List Span) (a b c : Word) (sh : BitVec 256) :
    Res.Keeps s.mem (s.sumIssue k dst ext reads a b c sh) := by
  unfold State.sumIssue
  dsimp only
  split
  · simp
  · exact .got id (fun h => State.canon_reserveExtent h ..) fun t ht => by simpa using ht

@[simp] theorem State.keeps_sumInsert (t : SumType) (k : SumKind) (a : Reg) (d : ShapeReg) :
    Res.Keeps s.mem (s.sumInsert t k a d) := by
  refine .guardRegs ?_
  dsimp only
  repeat' split
  all_goals simp

@[simp] theorem State.keeps_sumMerge (t : SumType) (k : SumKind) (a b : Reg) : Res.Keeps s.mem (s.sumMerge t k a b) := by
  refine .guardRegs ?_
  dsimp only
  repeat' split
  all_goals simp

@[simp] theorem State.keeps_sumQuery (k : SumKind) (a : Reg) (src : Word) (ext : Nat) (c : Word) (writes : List (Nat × Nat)) :
    Res.Keeps s.mem (s.sumQuery k a src ext c writes) := by
  unfold State.sumQuery
  dsimp only
  split
  · simp
  · split
    · simp
    · refine .got id (fun h => Got.canon_foldl (fun t a ht => State.canon_reserveExtent ht ..) h) fun t ht => ?_
      exact .landing ht fun i j h => by simpa using ht

@[simp] theorem State.keeps_sumAsk (t : SumType) (k : SumKind) (a b : Reg) (c : Word) : Res.Keeps s.mem (s.sumAsk t k a b c) := by
  unfold State.sumAsk
  dsimp only
  repeat' split
  all_goals simp

@[simp] theorem State.keeps_sumReset (t : SumType) (k : SumKind) (fmt : Nat) (a b : Reg) :
    Res.Keeps s.mem (s.sumReset t k fmt a b) := by
  refine .guardRegs ?_
  dsimp only
  repeat' split
  all_goals simp

/-! ### Copies and remote forms (chapter 14) -/

@[simp] theorem State.keeps_issueCopy (k : CopyKind) (d : CopyDesc) (rel : Option Scope) (ops : List (Word × Nat)) :
    Res.Keeps s.mem (s.issueCopy k d rel ops) := by
  unfold State.issueCopy
  dsimp only
  split
  · simp
  · simp
  · refine Res.keeps_ite.mpr ⟨fun _ => by simp, fun _ => Res.keeps_ite.mpr ⟨fun _ => by simp, fun _ =>
      Res.keeps_ite.mpr ⟨fun _ => by simp, fun _ => .got id (fun h => ?_) fun t ht => ?_⟩⟩⟩
    · repeat' split
      all_goals simp [h]
    · simp +contextual [ht]

@[simp] theorem State.keeps_copyForm (k : CopyKind) (b : Reg) (rel : Option Scope) : Res.Keeps s.mem (s.copyForm k b rel) := by
  refine .guardRegs ?_
  dsimp only
  repeat' split
  all_goals simp

@[simp] theorem State.keeps_remoteStore (n : BitVec 5) (a b c : Reg) (ord : MemOrd) (counted : Bool) :
    Res.Keeps s.mem (s.remoteStore n a b c ord counted) := by
  refine .guardRegs ?_
  dsimp only
  repeat' split
  all_goals simp

/-! ### Stewards (chapter 18) -/

@[simp] theorem State.keeps_stewardAccess (addr : Word) (write : Option Word) (reg : Option Reg) (p : Pred) :
    Res.Keeps s.mem (s.stewardAccess addr write reg p) := by
  unfold State.stewardAccess
  split
  · simp
  · split
    · simp
    · exact .landing id fun _ _ _ => by simp

theorem State.keeps_stewardWave (ok : Bool) (b c : Reg) {go : Option (Nat × Name × Word × Word × CtxId) → State → State}
    (hgo : ∀ x t, (go x t).mem = t.mem) : Res.Keeps s.mem (s.stewardWave ok b c go) := by simp [State.stewardWave, hgo]

@[simp] theorem State.keeps_prmt (b : Reg) (op : BitVec 2) : Res.Keeps s.mem (s.prmt b op) := by simp [State.prmt]

@[simp] theorem State.keeps_performAccess (n core : Nat) (a : StewardAccess) : Res.Keeps s.mem (s.performAccess n core a) := by
  unfold State.performAccess
  dsimp only
  split
  · simp
  · next v _ =>
    have wrote (h : Memory.Canon s.mem) := State.canon_tableWrite (s := s.takePacket n) (by simpa using h) core a.tbl.toNat a.idx.toNat v
      (a.core, a.rid)
    split
    · next t ht => rw [ht] at wrote; simpa using wrote
    · simp
    · next t ht => rw [ht] at wrote; simpa using wrote
    · simp

@[simp] theorem State.keeps_accessArrival (n : Nat) (sel : StewardAccess → Bool) : Res.Keeps s.mem (s.accessArrival n sel) := by
  unfold State.accessArrival
  repeat' split
  all_goals simp

/-! ### Events -/

@[simp] theorem State.keeps_finishVec (core : Nat) (o : EngOp) (r : VecOut) : Res.Keeps s.mem (s.finishVec core o r) :=
  .orWait (fun h => State.canon_pokeAll h ..) id fun t ht => by simp [ht]

theorem State.keeps_waveAt (wave place : Nat) {take : State → State} (h : ∀ t, (take t).mem = t.mem) :
    Res.Keeps s.mem (s.waveAt wave place take) := by simp [State.waveAt, h]

@[simp] theorem State.keeps_flitArrive (flit : WireFlit) : Res.Keeps s.mem (s.flitArrive flit) := by simp [State.flitArrive]

theorem State.keeps_atFunction (fn : Nat) (sealed : Bool) {k : Res} (hk : Res.Keeps s.mem k) :
    Res.Keeps s.mem (s.atFunction fn sealed k) := by simp [State.atFunction, hk]

theorem State.keeps_atAperture (fn off len : Nat) (sealed : Bool) {k : Res} (hk : Res.Keeps s.mem k) :
    Res.Keeps s.mem (s.atAperture fn off len sealed k) := by simp [State.atAperture, State.keeps_atFunction s fn sealed hk]

@[simp] theorem State.keeps_answerWith {m : Tab Byte} (n : Nat) (x : Msg) (status : Nat) (a1 a2 a3 : Word) :
    Res.Keeps m (s.answerWith n x status a1 a2 a3) ↔ (Memory.Canon m → Memory.Canon s.mem) := by simp [State.answerWith]

@[simp] theorem State.keeps_status {m : Tab Byte} (n : Nat) (x : Msg) (st : Nat) :
    Res.Keeps m (s.status n x st) ↔ (Memory.Canon m → Memory.Canon s.mem) := by simp [State.status]

theorem State.keeps_serve (n code : Nat) (who : Msg → Bool) {k : Msg → Res} (hk : ∀ x, Res.Keeps s.mem (k x)) :
    Res.Keeps s.mem (s.serve n code who k) := by
  unfold State.serve
  split
  · simp
  · simp [hk]

@[simp] theorem State.keeps_spdmAnswer (fn : Nat) (ok : Bool) (x : Spdm) (what : String) (bs : List Byte) :
    Res.Keeps s.mem (s.spdmAnswer fn ok x what bs) := by simp [State.spdmAnswer]

end Forms

end Sys2Proof.Machine
end

section
/-! PROOFS. What each instruction and each event answers: a next state, whose memory keeps its canonical form. One lemma for each arm of `exec`. -/

namespace Sys2Proof.Machine

open Sys2Proof

-- In order, not in parallel: the threads of the tests above leave little of the memory that one compile may take.
set_option Elab.async false

/-! ### System -/

@[simp] theorem execCrd_keeps (a : Reg) (n : BitVec 8) (s : State) : Res.Keeps s.mem (execCrd a n s) := by
  simp only [execCrd]
  repeat' split
  all_goals simp

@[simp] theorem execCrdFlags_keeps (a : Reg) (s : State) : Res.Keeps s.mem (execCrdFlags a s) := by simp [execCrdFlags]

@[simp] theorem execCrdEntr_keeps (a : Reg) (s : State) : Res.Keeps s.mem (execCrdEntr a s) := by simp [execCrdEntr]

@[simp] theorem execCwr_keeps (n : BitVec 8) (b : Reg) (s : State) : Res.Keeps s.mem (execCwr n b s) := by
  simp only [execCwr]
  repeat' split
  all_goals simp

@[simp] theorem execCwrMbox_keeps (b : Reg) (s : State) : Res.Keeps s.mem (execCwrMbox b s) := by simp [execCwrMbox]

@[simp] theorem execCwrTrapx_keeps (b : Reg) (s : State) : Res.Keeps s.mem (execCwrTrapx b s) := by simp [execCwrTrapx]

@[simp] theorem execCwrWatch_keeps (b : Reg) (s : State) : Res.Keeps s.mem (execCwrWatch b s) := by simp [execCwrWatch]

@[simp] theorem execCwrFlags_keeps (b : Reg) (s : State) : Res.Keeps s.mem (execCwrFlags b s) := by simp [execCwrFlags]

@[simp] theorem execFence_keeps (sc : Scope) (s : State) : Res.Keeps s.mem (execFence sc s) := by simp [execFence]

@[simp] theorem execTfence_keeps (sc : Scope) (s : State) : Res.Keeps s.mem (execTfence sc s) := by simp [execTfence]

@[simp] theorem execNop_keeps (s : State) : Res.Keeps s.mem (execNop s) := by simp [execNop]

@[simp] theorem execSysreq_keeps (b : Reg) (ord : MemOrd) (s : State) : Res.Keeps s.mem (execSysreq b ord s) := by
  unfold execSysreq
  split <;> simp

@[simp] theorem execBrk_keeps (n : BitVec 6) (s : State) : Res.Keeps s.mem (execBrk n s) := by simp +contextual [execBrk]

@[simp] theorem execStrd_keeps (p : Pred) (a b : Reg) (s : State) : Res.Keeps s.mem (execStrd p a b s) := by simp [execStrd]

@[simp] theorem execStwr_keeps (p : Pred) (b c : Reg) (s : State) : Res.Keeps s.mem (execStwr p b c s) := by simp [execStwr]

@[simp] theorem execKeyset_keeps (p : Pred) (b : Reg) (s : State) : Res.Keeps s.mem (execKeyset p b s) := by
  refine Res.keeps_guardPriv.mpr ⟨fun _ => .guardRegs ?_, fun _ => id⟩
  dsimp only
  split
  · simp
  · next g r _ =>
    refine Res.keeps_ite.mpr ⟨fun _ => by simp, fun _ => Res.keeps_ite.mpr ⟨fun _ => by simp, fun _ => ?_⟩⟩
    have wiped (h : Memory.Canon s.mem) := State.canon_localStore h s.hdView g r ((s.reg b).toNat + 64) (List.replicate 64 0#8) none
    split
    · simp
    · next t ht => simpa using fun h => (wiped h).full ht
    · next t ht =>
      refine Res.keeps_ite.mpr ⟨fun _ => by simp, fun _ => .trans (fun h => (wiped h).ok ht) (State.keeps_landPred t p _ fun u => ?_)⟩
      split <;> simp

@[simp] theorem execKeydel_keeps (p : Pred) (b : Reg) (s : State) : Res.Keeps s.mem (execKeydel p b s) := by
  refine Res.keeps_guardPriv.mpr ⟨fun _ => .guardRegs ?_, fun _ => id⟩
  refine Res.keeps_ite.mpr ⟨fun _ => by simp, fun _ => Res.keeps_ite.mpr ⟨fun _ => ?_, fun _ => ?_⟩⟩
  · exact State.keeps_landPred s p _ fun _ => rfl
  · exact State.keeps_landPred s p _ fun _ => rfl

@[simp] theorem execWaveShootdown_keeps (b c : Reg) (s : State) : Res.Keeps s.mem (execWaveShootdown b c s) := by
  exact Res.keeps_guardPriv.mpr ⟨fun _ => .guardRegs (State.keeps_stewardWave s _ b c fun _ _ => by simp), fun _ => id⟩

@[simp] theorem execWaveRetire_keeps (b c : Reg) (s : State) : Res.Keeps s.mem (execWaveRetire b c s) := by
  exact Res.keeps_guardPriv.mpr ⟨fun _ => .guardRegs (State.keeps_stewardWave s _ b c fun _ _ => by simp), fun _ => id⟩

@[simp] theorem execWaveModuleLoss_keeps (b c : Reg) (s : State) : Res.Keeps s.mem (execWaveModuleLoss b c s) := by
  exact Res.keeps_guardPriv.mpr ⟨fun _ => .guardRegs (State.keeps_stewardWave s _ b c fun _ _ => by simp), fun _ => id⟩

@[simp] theorem execPrmtPreempt_keeps (b : Reg) (s : State) : Res.Keeps s.mem (execPrmtPreempt b s) := by
  simp [execPrmtPreempt]

@[simp] theorem execPrmtHold_keeps (b : Reg) (s : State) : Res.Keeps s.mem (execPrmtHold b s) := by simp [execPrmtHold]

@[simp] theorem execPrmtRelease_keeps (b : Reg) (s : State) : Res.Keeps s.mem (execPrmtRelease b s) := by
  simp [execPrmtRelease]


/-! ### Actors -/

@[simp] theorem execSend_keeps (a b : Reg) (ctx : Option Reg) (ord : MemOrd) (s : State) :
    Res.Keeps s.mem (execSend a b ctx ord s) := by
  refine .guardRegs ?_
  dsimp only
  repeat' split
  all_goals simp

@[simp] theorem execReply_keeps (b : Reg) (ctx : Option Reg) (ord : MemOrd) (s : State) :
    Res.Keeps s.mem (execReply b ctx ord s) := by
  refine .guardRegs ?_
  dsimp only
  repeat' split
  all_goals simp

@[simp] theorem execSendp_keeps (b : Reg) (ord : MemOrd) (s : State) : Res.Keeps s.mem (execSendp b ord s) := by
  simp only [execSendp]
  repeat' split
  all_goals simp +contextual

@[simp] theorem execRdln_keeps (p : Pred) (b : Reg) (s : State) : Res.Keeps s.mem (execRdln p b s) := by
  unfold execRdln
  split <;> simp

@[simp] theorem execSpawn_keeps (a b c : Reg) (s : State) : Res.Keeps s.mem (execSpawn a b c s) := by
  refine .guardRegs ?_
  dsimp only
  repeat' split
  any_goals solve | simp
  all_goals exact .landing id fun _ _ _ => by simp

@[simp] theorem execKill_keeps (a b : Reg) (s : State) : Res.Keeps s.mem (execKill a b s) := by
  unfold execKill
  split <;> simp

@[simp] theorem execExit_keeps (b : Reg) (s : State) : Res.Keeps s.mem (execExit b s) := by simp [execExit]

@[simp] theorem execLink_keeps (b : Reg) (s : State) : Res.Keeps s.mem (execLink b s) := by
  unfold execLink
  split <;> simp

@[simp] theorem execUnlink_keeps (b : Reg) (s : State) : Res.Keeps s.mem (execUnlink b s) := by
  refine .guardRegs ?_
  dsimp only
  repeat' split
  all_goals simp

@[simp] theorem execMon_keeps (a b : Reg) (s : State) : Res.Keeps s.mem (execMon a b s) := by
  unfold execMon
  split <;> simp

@[simp] theorem execDemon_keeps (b : Reg) (s : State) : Res.Keeps s.mem (execDemon b s) := by
  refine .guardRegs ?_
  dsimp only
  repeat' split
  all_goals simp

@[simp] theorem execTrapx_keeps (a b : Reg) (s : State) : Res.Keeps s.mem (execTrapx a b s) := by simp [execTrapx]

@[simp] theorem execTimer_keeps (a b c : Reg) (s : State) : Res.Keeps s.mem (execTimer a b c s) := by
  refine .guardRegs ?_
  dsimp only
  repeat' split
  all_goals simp

@[simp] theorem execTcancel_keeps (p : Pred) (b : Reg) (s : State) : Res.Keeps s.mem (execTcancel p b s) := by
  simp [execTcancel]

@[simp] theorem execWatch_keeps (b : Reg) (s : State) : Res.Keeps s.mem (execWatch b s) := by simp [execWatch]

@[simp] theorem execWkick_keeps (s : State) : Res.Keeps s.mem (execWkick s) := by simp [execWkick]

@[simp] theorem execJcget_keeps (a : Reg) (s : State) : Res.Keeps s.mem (execJcget a s) := by
  unfold execJcget
  split <;> simp

@[simp] theorem execJcput_keeps (b : Reg) (s : State) : Res.Keeps s.mem (execJcput b s) := by
  simp only [execJcput]
  split <;> simp

@[simp] theorem execArm_keeps (a b c : Reg) (s : State) : Res.Keeps s.mem (execArm a b c s) := by
  refine .guardRegs ?_
  dsimp only
  repeat' split
  all_goals simp

@[simp] theorem execDec_keeps (a b : Reg) (ord : MemOrd) (s : State) : Res.Keeps s.mem (execDec a b ord s) := by
  simp [execDec]

@[simp] theorem execFork_keeps (a b : Reg) (s : State) : Res.Keeps s.mem (execFork a b s) := by
  unfold execFork
  split <;> simp

@[simp] theorem execJoin_keeps (s : State) : Res.Keeps s.mem (execJoin s) := by
  unfold execJoin
  split <;> simp

@[simp] theorem execSupv_keeps (b : Reg) (s : State) : Res.Keeps s.mem (execSupv b s) := by
  refine .guardRegs ?_
  dsimp only
  repeat' split
  all_goals simp

@[simp] theorem execRstart_keeps (a b : Reg) (s : State) : Res.Keeps s.mem (execRstart a b s) := by
  refine .guardRegs ?_
  dsimp only
  repeat' split
  any_goals solve | simp
  all_goals exact .landing id fun _ _ _ => by simp

@[simp] theorem execSelfq_keeps (sel : BitVec 3) (a b : Reg) (s : State) : Res.Keeps s.mem (execSelfq sel a b s) := by
  simp only [execSelfq]
  repeat' split
  all_goals simp


/-! ### Local -/

@[simp] theorem execLdB_keeps (a b : Reg) (off : Word) (_ord : MemOrd) (s : State) :
    Res.Keeps s.mem (execLdB a b off _ord s) := by
  simp [execLdB]

@[simp] theorem execLdH_keeps (a b : Reg) (off : Word) (_ord : MemOrd) (s : State) :
    Res.Keeps s.mem (execLdH a b off _ord s) := by
  simp [execLdH]

@[simp] theorem execLdW_keeps (a b : Reg) (off : Word) (_ord : MemOrd) (s : State) :
    Res.Keeps s.mem (execLdW a b off _ord s) := by
  simp [execLdW]

@[simp] theorem execLdD_keeps (a b : Reg) (off : Word) (_ord : MemOrd) (s : State) :
    Res.Keeps s.mem (execLdD a b off _ord s) := by
  simp [execLdD]

@[simp] theorem execStB_keeps (a b : Reg) (off : Word) (ord : MemOrd) (s : State) :
    Res.Keeps s.mem (execStB a b off ord s) := by
  simp [execStB]

@[simp] theorem execStH_keeps (a b : Reg) (off : Word) (ord : MemOrd) (s : State) :
    Res.Keeps s.mem (execStH a b off ord s) := by
  simp [execStH]

@[simp] theorem execStW_keeps (a b : Reg) (off : Word) (ord : MemOrd) (s : State) :
    Res.Keeps s.mem (execStW a b off ord s) := by
  simp [execStW]

@[simp] theorem execStD_keeps (a b : Reg) (off : Word) (ord : MemOrd) (s : State) :
    Res.Keeps s.mem (execStD a b off ord s) := by
  simp [execStD]

@[simp] theorem execLdx_keeps (size : Size) (a b c : Reg) (off : Word) (_ord : MemOrd) (s : State) :
    Res.Keeps s.mem (execLdx size a b c off _ord s) := by
  simp only [execLdx]
  repeat' split
  all_goals simp

@[simp] theorem execStx_keeps (size : Size) (a b c : Reg) (off : Word) (ord : MemOrd) (s : State) :
    Res.Keeps s.mem (execStx size a b c off ord s) := by
  refine .guardRegs ?_
  have stored {t : State} {v : View} {n : Nat} {r : Region} {addr : Nat} {bs : List Byte} {rel : Option Scope}
      (ht : t.mem = s.mem) (h : Memory.Canon s.mem) : (t.localStore v n r addr bs rel).Canon :=
    State.canon_localStore (by rwa [ht]) ..
  split
  · simp
  · simp
  · split
    · simp
    · refine Res.keeps_ite.mpr ⟨fun _ => by simp, fun _ => Res.keeps_ite.mpr ⟨fun _ => by simp, fun _ =>
        Res.keeps_ite.mpr ⟨fun _ => ?_, fun _ => Res.keeps_ite.mpr ⟨fun _ => ?_, fun _ => ?_⟩⟩⟩⟩
      · exact .got id (stored rfl) fun t ht => by simpa using ht
      · exact .got id (stored rfl) fun t ht => by simpa using ht
      · split
        · simp
        · split
          · next t ht => simpa using fun h => Got.Canon.ok (stored (by rfl) h) ht
          · simp
          · next t ht => simpa using fun h => Got.Canon.full (stored (by rfl) h) ht

@[simp] theorem execAadd_keeps (a b c : Reg) (off : Word) (ord : MemOrd) (s : State) :
    Res.Keeps s.mem (execAadd a b c off ord s) := by
  simp [execAadd]

@[simp] theorem execAswp_keeps (a b c : Reg) (off : Word) (ord : MemOrd) (s : State) :
    Res.Keeps s.mem (execAswp a b c off ord s) := by
  simp [execAswp]

@[simp] theorem execAcas_keeps (a b c : Reg) (off : Word) (ord : MemOrd) (s : State) :
    Res.Keeps s.mem (execAcas a b c off ord s) := by
  simp [execAcas]

@[simp] theorem execCtxnew_keeps (a : Reg) (s : State) : Res.Keeps s.mem (execCtxnew a s) := by
  unfold execCtxnew
  split <;> simp

@[simp] theorem execCtxpf_keeps (p : Pred) (b : Reg) (s : State) : Res.Keeps s.mem (execCtxpf p b s) := by
  unfold execCtxpf
  split <;> simp

@[simp] theorem execCtxset_keeps (p : Pred) (b : Reg) (s : State) : Res.Keeps s.mem (execCtxset p b s) := by
  refine .guardRegs ?_
  dsimp only
  repeat' split
  all_goals simp

@[simp] theorem execCtxret_keeps (b : Reg) (s : State) : Res.Keeps s.mem (execCtxret b s) := by
  unfold execCtxret
  split <;> simp

@[simp] theorem execCtxq_keeps (byId : Bool) (a b : Reg) (s : State) : Res.Keeps s.mem (execCtxq byId a b s) := by
  simp [execCtxq]

@[simp] theorem execCommit_keeps (n : BitVec 3) (s : State) : Res.Keeps s.mem (execCommit n s) := by
  simp only [execCommit]
  repeat' split
  all_goals simp


/-! ### Regions -/

@[simp] theorem execRalloc_keeps (a b c : Reg) (s : State) : Res.Keeps s.mem (execRalloc a b c s) := by
  refine .guardRegs ?_
  dsimp only
  refine Res.keeps_ite.mpr ⟨fun _ => by simp, fun _ => Res.keeps_ite.mpr ⟨fun _ => by simp, fun _ => .landing id fun i _ g => ?_⟩⟩
  split
  · simp
  · next t _ _ ht => simpa using fun h => State.canon_allocRegion (s := s.setHd g) h ht

@[simp] theorem execRfree_keeps (b : Reg) (s : State) : Res.Keeps s.mem (execRfree b s) := by
  simp only [execRfree]
  split <;> simp

@[simp] theorem execGive_keeps (a b c : Reg) (s : State) : Res.Keeps s.mem (execGive a b c s) := by
  refine .guardRegs ?_
  dsimp only
  repeat' split
  all_goals simp

@[simp] theorem execGrant_keeps (a b : Reg) (s : State) : Res.Keeps s.mem (execGrant a b s) := by
  refine .guardRegs ?_
  dsimp only
  repeat' split
  all_goals simp

@[simp] theorem execRevoke_keeps (b : Reg) (s : State) : Res.Keeps s.mem (execRevoke b s) := by
  unfold execRevoke
  split <;> simp

@[simp] theorem execPublish_keeps (withdraw : Bool) (b : Reg) (s : State) : Res.Keeps s.mem (execPublish withdraw b s) := by
  unfold execPublish
  split <;> simp


/-! ### Remote -/

@[simp] theorem execRst_keeps (n : BitVec 5) (a b c : Reg) (ord : MemOrd) (s : State) :
    Res.Keeps s.mem (execRst n a b c ord s) := by
  simp [execRst]

@[simp] theorem execRstc_keeps (n : BitVec 5) (a b c : Reg) (ord : MemOrd) (s : State) :
    Res.Keeps s.mem (execRstc n a b c ord s) := by
  simp [execRstc]

@[simp] theorem execRld_keeps (p : Pred) (a b c : Reg) (ord : MemOrd) (s : State) :
    Res.Keeps s.mem (execRld p a b c ord s) := by
  refine .guardRegs ?_
  dsimp only
  repeat' split
  any_goals solve | simp
  all_goals exact .landing id fun _ _ _ => by simp

@[simp] theorem execRatom_keeps (op : AtomOp) (p : Pred) (a b c : Reg) (ord : MemOrd) (s : State) :
    Res.Keeps s.mem (execRatom op p a b c ord s) := by
  refine .guardRegs ?_
  dsimp only
  repeat' split
  any_goals solve | simp
  all_goals exact .landing id fun _ _ _ => by simp

@[simp] theorem execWqOpen_keeps (a b : Reg) (s : State) : Res.Keeps s.mem (execWqOpen a b s) := by
  refine .guardRegs ?_
  dsimp only
  repeat' split
  any_goals solve | simp
  all_goals exact .landing id fun _ _ _ => by simp

@[simp] theorem execWqQuery_keeps (a b : Reg) (s : State) : Res.Keeps s.mem (execWqQuery a b s) := by
  refine .guardRegs ?_
  dsimp only
  repeat' split
  any_goals solve | simp
  all_goals exact .landing id fun _ _ _ => by simp

@[simp] theorem execWqClose_keeps (b : Reg) (s : State) : Res.Keeps s.mem (execWqClose b s) := by simp [execWqClose]

@[simp] theorem execFenceR_keeps (sc : Scope) (p : Pred) (s : State) : Res.Keeps s.mem (execFenceR sc p s) := by
  unfold execFenceR
  refine Res.keeps_ite.mpr ⟨fun _ => by simp, fun _ => .landing id fun _ _ _ => by simp⟩


/-! ### Copy -/

@[simp] theorem execCpy_keeps (b : Reg) (s : State) : Res.Keeps s.mem (execCpy b s) := by simp [execCpy]

@[simp] theorem execCpyc_keeps (b : Reg) (ord : MemOrd) (s : State) : Res.Keeps s.mem (execCpyc b ord s) := by
  simp [execCpyc]

@[simp] theorem execCpye_keeps (m : ExfMode) (b : Reg) (s : State) : Res.Keeps s.mem (execCpye m b s) := by simp [execCpye]

@[simp] theorem execDeal_keeps (b : Reg) (ord : MemOrd) (s : State) : Res.Keeps s.mem (execDeal b ord s) := by
  simp [execDeal]

@[simp] theorem execGath_keeps (b : Reg) (s : State) : Res.Keeps s.mem (execGath b s) := by simp [execGath]

@[simp] theorem execMcst_keeps (b : Reg) (ord : MemOrd) (s : State) : Res.Keeps s.mem (execMcst b ord s) := by
  simp [execMcst]

@[simp] theorem execPull_keeps (b : Reg) (s : State) : Res.Keeps s.mem (execPull b s) := by simp [execPull]


/-! ### Dispatcher -/

@[simp] theorem execMessageArrival_keeps (n : Nat) (s : State) : Res.Keeps s.mem (execMessageArrival n s) := by
  unfold execMessageArrival
  split <;> simp

@[simp] theorem execPoolArrival_keeps (n : Nat) (s : State) : Res.Keeps s.mem (execPoolArrival n s) := by
  unfold execPoolArrival
  split <;> simp

@[simp] theorem execCounterAdvance_keeps (n : Nat) (s : State) : Res.Keeps s.mem (execCounterAdvance n s) := by
  simp only [execCounterAdvance]
  repeat' split
  all_goals simp

@[simp] theorem execDispatch_keeps (core : Nat) (s : State) : Res.Keeps s.mem (execDispatch core s) := by
  simp only [execDispatch]
  repeat' split
  all_goals simp +contextual

@[simp] theorem execResumption_keeps (core : Nat) (s : State) : Res.Keeps s.mem (execResumption core s) := by
  simp only [execResumption]
  repeat' split
  all_goals simp

@[simp] theorem execDispatchRecallDone_keeps (core : Nat) (i : Nat) (s : State) :
    Res.Keeps s.mem (execDispatchRecallDone core i s) := by
  unfold execDispatchRecallDone
  split
  · simp
  · next r _ =>
    have filled (h : Memory.Canon s.mem) := State.canon_performRecall h core r.entry r.ctx fun _ => false
    refine Res.keeps_ite.mpr ⟨fun _ => by simp, fun _ => ?_⟩
    split
    · next ht => simpa [ht] using filled
    · next ht => simpa [ht] using filled
    · next ht =>
      simp only [ht, Fill.canon_done] at filled
      simp +contextual [filled]

@[simp] theorem execBudgetExhausted_keeps (core : Nat) (i : Nat) (s : State) :
    Res.Keeps s.mem (execBudgetExhausted core i s) := by
  simp only [execBudgetExhausted]
  repeat' split
  all_goals simp +contextual

@[simp] theorem execSliceEnd_keeps (core : Nat) (s : State) : Res.Keeps s.mem (execSliceEnd core s) := by
  unfold execSliceEnd
  extract_lets k due ripe
  refine Res.keeps_ite.mpr ⟨fun _ => by simp, fun _ => Res.keeps_next.mpr fun h => ?_⟩
  exact State.canon_foldl (fun _ _ h => State.canon_preempt h ..) h

@[simp] theorem execStealRequest_keeps (core : Nat) (i : Nat) (s : State) : Res.Keeps s.mem (execStealRequest core i s) := by
  simp [execStealRequest]

@[simp] theorem execStealRequestArrival_keeps (n : Nat) (s : State) : Res.Keeps s.mem (execStealRequestArrival n s) := by
  simp only [execStealRequestArrival]
  repeat' split
  all_goals simp

@[simp] theorem execStealReplyArrival_keeps (n : Nat) (s : State) : Res.Keeps s.mem (execStealReplyArrival n s) := by
  simp only [execStealReplyArrival]
  repeat' split
  all_goals simp

@[simp] theorem execTimerExpiry_keeps (core : Nat) (i : Nat) (s : State) : Res.Keeps s.mem (execTimerExpiry core i s) := by
  simp only [execTimerExpiry]
  split <;> simp

@[simp] theorem execWatchdogExpiry_keeps (core : Nat) (i : Nat) (s : State) :
    Res.Keeps s.mem (execWatchdogExpiry core i s) := by
  simp [execWatchdogExpiry]

@[simp] theorem execReplyDeadlineExpiry_keeps (core : Nat) (i : Nat) (s : State) :
    Res.Keeps s.mem (execReplyDeadlineExpiry core i s) := by
  unfold execReplyDeadlineExpiry
  split <;> simp


/-! ### Yarrow -/

@[simp] theorem execExitSignalArrival_keeps (n : Nat) (s : State) : Res.Keeps s.mem (execExitSignalArrival n s) := by
  unfold execExitSignalArrival
  split <;> simp

@[simp] theorem execKillArrival_keeps (n : Nat) (s : State) : Res.Keeps s.mem (execKillArrival n s) := by
  unfold execKillArrival
  split <;> simp

@[simp] theorem execRegionsReturned_keeps (core : Nat) (i : Nat) (s : State) :
    Res.Keeps s.mem (execRegionsReturned core i s) := by
  simp only [execRegionsReturned]
  repeat' split
  all_goals simp

@[simp] theorem execResolutionAnswer_keeps (n : Nat) (s : State) : Res.Keeps s.mem (execResolutionAnswer n s) := by
  simp only [execResolutionAnswer]
  repeat' split
  all_goals simp

@[simp] theorem execResolveTmo_keeps (core : Nat) (i : Nat) (s : State) : Res.Keeps s.mem (execResolveTmo core i s) := by
  unfold execResolveTmo
  split <;> simp

@[simp] theorem execResolutionRequest_keeps (n : Nat) (s : State) : Res.Keeps s.mem (execResolutionRequest n s) := by
  simp only [execResolutionRequest]
  repeat' split
  all_goals simp +contextual

@[simp] theorem execYarrowRestartStart_keeps (core : Nat) (i : Nat) (s : State) :
    Res.Keeps s.mem (execYarrowRestartStart core i s) := by
  simp only [execYarrowRestartStart]
  repeat' split
  all_goals simp +contextual

@[simp] theorem execYarrowImageLoaded_keeps (core : Nat) (i : Nat) (s : State) :
    Res.Keeps s.mem (execYarrowImageLoaded core i s) := by
  simp only [execYarrowImageLoaded]
  repeat' split
  all_goals simp +contextual

@[simp] theorem execSpawnRequestArrival_keeps (n : Nat) (s : State) : Res.Keeps s.mem (execSpawnRequestArrival n s) := by
  simp only [execSpawnRequestArrival]
  repeat' split
  all_goals simp

@[simp] theorem execSpawnAckArrival_keeps (n : Nat) (s : State) : Res.Keeps s.mem (execSpawnAckArrival n s) := by
  simp only [execSpawnAckArrival]
  repeat' split
  all_goals simp +contextual

@[simp] theorem execSpawnNameArrival_keeps (n : Nat) (s : State) : Res.Keeps s.mem (execSpawnNameArrival n s) := by
  simp only [execSpawnNameArrival]
  repeat' split
  all_goals simp +contextual

@[simp] theorem execLinkRequestArrival_keeps (n : Nat) (s : State) : Res.Keeps s.mem (execLinkRequestArrival n s) := by
  simp only [execLinkRequestArrival]
  repeat' split
  all_goals simp +contextual

@[simp] theorem execLinkAnswerArrival_keeps (n : Nat) (s : State) : Res.Keeps s.mem (execLinkAnswerArrival n s) := by
  unfold execLinkAnswerArrival
  split
  · next mon req peer ref entered sup rst _ =>
    generalize signalWord .unreachable 0#8 0#16 mon (if mon then ref else 0#32) = w1
    refine Res.keeps_ite.mpr ⟨fun _ => by simp, fun _ => Res.keeps_ite.mpr ⟨fun _ => Res.keeps_ite.mpr ⟨fun _ => by simp, fun _ => ?_⟩,
      fun _ => by simp⟩⟩
    split <;> simp
  · simp

@[simp] theorem execUnlinkArrival_keeps (n : Nat) (s : State) : Res.Keeps s.mem (execUnlinkArrival n s) := by
  unfold execUnlinkArrival
  split <;> simp

@[simp] theorem execReplicaHashArrival_keeps (n : Nat) (s : State) : Res.Keeps s.mem (execReplicaHashArrival n s) := by
  unfold execReplicaHashArrival
  split <;> simp

@[simp] theorem execCampionTimeout_keeps (core : Nat) (i : Nat) (s : State) :
    Res.Keeps s.mem (execCampionTimeout core i s) := by
  unfold execCampionTimeout
  split <;> simp

@[simp] theorem execOverflowWalkEnd_keeps (core : Nat) (i : Nat) (s : State) :
    Res.Keeps s.mem (execOverflowWalkEnd core i s) := by
  unfold execOverflowWalkEnd
  split
  · simp
  · next w _ =>
    refine Res.keeps_ite.mpr ⟨fun _ => by simp, fun _ => Res.keeps_next.mpr fun h => ?_⟩
    exact State.canon_foldl (s := s.probeArea _ _) (fun _ _ h => State.canon_freeRecord h ..) (by simpa using h)


/-! ### Landings -/

@[simp] theorem execRemoteResponseArrival_keeps (n : Nat) (s : State) : Res.Keeps s.mem (execRemoteResponseArrival n s) := by
  simp only [execRemoteResponseArrival]
  repeat' split
  all_goals simp

@[simp] theorem execRemoteTimeout_keeps (core : Nat) (i : Nat) (s : State) :
    Res.Keeps s.mem (execRemoteTimeout core i s) := by
  simp only [execRemoteTimeout]
  repeat' split
  all_goals simp

@[simp] theorem execResultArrival_keeps (core : Nat) (i : Nat) (s : State) :
    Res.Keeps s.mem (execResultArrival core i s) := by
  simp only [execResultArrival]
  repeat' split
  all_goals simp +contextual

@[simp] theorem execOutboundRelease_keeps (core : Nat) (i : Nat) (s : State) :
    Res.Keeps s.mem (execOutboundRelease core i s) := by
  simp only [execOutboundRelease]
  repeat' split
  all_goals simp +contextual

@[simp] theorem execRemoteOpArrival_keeps (n : Nat) (s : State) : Res.Keeps s.mem (execRemoteOpArrival n s) := by
  have arrived {l : List RemoteOp} {core : Nat} (h : Memory.Canon s.mem) :
      Memory.Canon (l.foldl (fun s op => s.remoteIn core op none) (s.takePacket n)).mem :=
    State.canon_foldl (fun _ _ h => State.canon_remoteIn h ..) (by simpa using h)
  unfold execRemoteOpArrival
  split
  · split <;> simp +contextual
  · split
    · simp
    · split
      · exact Res.keeps_ite.mpr ⟨fun _ => Res.keeps_next.mpr arrived, fun _ => by simp⟩
      · simp
  · simp

@[simp] theorem execHeldLandingRelease_keeps (core : Nat) (i : Nat) (s : State) :
    Res.Keeps s.mem (execHeldLandingRelease core i s) := by
  unfold execHeldLandingRelease
  extract_lets k drop finish
  split
  · simp
  · next x _ =>
    extract_lets land
    have landed {t : State} (ht : Memory.Canon s.mem → Memory.Canon t.mem) : Res.Keeps s.mem (land t) := by
      have kept (h : Memory.Canon s.mem) := State.canon_land (ht h) core x
      simp only [land]
      split <;> next hu => simpa [hu, drop] using kept
    refine Res.keeps_ite.mpr ⟨fun _ => by simp, fun _ => ?_⟩
    split
    · next j _ =>
      extract_lets ended
      have filled (h : Memory.Canon s.mem) := State.canon_performRecall h core x.entry x.op.ctx (recordNeeded x)
      split
      · next ht => simpa [ht] using filled
      · next t ht =>
        simp only [ht, Fill.canon_done] at filled
        exact landed (by simp +contextual [ended, filled])
      · next t _ ht =>
        simp only [ht, Fill.canon_short] at filled
        exact Res.keeps_ite.mpr ⟨fun _ => by simpa [finish, drop, ended] using filled, fun _ => landed (by simpa [ended] using filled)⟩
    · exact Res.keeps_ite.mpr ⟨fun _ => by simp, fun _ => landed id⟩

@[simp] theorem execMulticastArrival_keeps (n : Nat) (s : State) : Res.Keeps s.mem (execMulticastArrival n s) := by
  simp only [execMulticastArrival]
  repeat' split
  all_goals simp +contextual

@[simp] theorem execPullReadArrival_keeps (n : Nat) (s : State) : Res.Keeps s.mem (execPullReadArrival n s) := by
  simp only [execPullReadArrival]
  repeat' split
  all_goals simp

@[simp] theorem execMergedAckArrival_keeps (n : Nat) (s : State) : Res.Keeps s.mem (execMergedAckArrival n s) := by
  simp only [execMergedAckArrival]
  repeat' split
  all_goals simp +contextual

@[simp] theorem execReducedLineArrival_keeps (n : Nat) (s : State) : Res.Keeps s.mem (execReducedLineArrival n s) := by
  simp only [execReducedLineArrival]
  repeat' split
  all_goals simp +contextual

@[simp] theorem execTransferComplete_keeps (n : Nat) (s : State) : Res.Keeps s.mem (execTransferComplete n s) := by
  simp only [execTransferComplete]
  repeat' split
  all_goals simp +contextual

@[simp] theorem execWqQueryArrival_keeps (n : Nat) (s : State) : Res.Keeps s.mem (execWqQueryArrival n s) := by
  simp only [execWqQueryArrival]
  repeat' split
  all_goals simp

@[simp] theorem execWqCloseArrival_keeps (n : Nat) (s : State) : Res.Keeps s.mem (execWqCloseArrival n s) := by
  simp only [execWqCloseArrival]
  repeat' split
  all_goals simp


/-! ### Vetch -/

@[simp] theorem execWriteBackComplete_keeps (core : Nat) (i : Nat) (s : State) :
    Res.Keeps s.mem (execWriteBackComplete core i s) := by
  simp only [execWriteBackComplete]
  repeat' split
  all_goals simp +contextual

@[simp] theorem execPrefetchFill_keeps (core : Nat) (i : Nat) (s : State) : Res.Keeps s.mem (execPrefetchFill core i s) := by
  unfold execPrefetchFill
  split
  · simp
  · next r _ =>
    split
    · extract_lets k x u gone stop mine
      have filled (h : Memory.Canon s.mem) := State.canon_recallList (s := u) (by simpa [u] using h) core r.entry r.ctx x.1
      split
      · next ht => simpa [ht, mine] using filled
      · next ht => simpa [ht, mine] using filled
      · next ht => simpa [ht, mine, stop] using filled
      · next ht =>
        simp only [ht, Fill.canon_done] at filled
        simp +contextual [filled, mine, stop]
    · simp

@[simp] theorem execTagRefill_keeps (core : Nat) (s : State) : Res.Keeps s.mem (execTagRefill core s) := by
  simp [execTagRefill]

@[simp] theorem execRetireWaveArrival_keeps (wave : Nat) (place : Nat) (s : State) :
    Res.Keeps s.mem (execRetireWaveArrival wave place s) := by
  unfold execRetireWaveArrival
  split
  · simp
  · refine Res.keeps_ite.mpr ⟨fun _ => by simp, fun _ => ?_⟩
    split
    · exact State.keeps_waveAt s wave place fun _ => by simp
    · simp

@[simp] theorem execRetireWaveComplete_keeps (wave : Nat) (s : State) : Res.Keeps s.mem (execRetireWaveComplete wave s) := by
  simp only [execRetireWaveComplete]
  repeat' split
  all_goals simp

@[simp] theorem execShootdownArrival_keeps (wave : Nat) (place : Nat) (s : State) :
    Res.Keeps s.mem (execShootdownArrival wave place s) := by
  unfold execShootdownArrival
  split
  · simp
  · refine Res.keeps_ite.mpr ⟨fun _ => by simp, fun _ => ?_⟩
    split
    · exact State.keeps_waveAt s wave place fun _ => by simp
    · simp

@[simp] theorem execShootdownComplete_keeps (wave : Nat) (s : State) : Res.Keeps s.mem (execShootdownComplete wave s) := by
  simp only [execShootdownComplete]
  repeat' split
  all_goals simp

@[simp] theorem execModuleLossWaveArrival_keeps (wave : Nat) (place : Nat) (s : State) :
    Res.Keeps s.mem (execModuleLossWaveArrival wave place s) := by
  unfold execModuleLossWaveArrival
  split
  · simp
  · refine Res.keeps_ite.mpr ⟨fun _ => by simp, fun _ => ?_⟩
    split
    · refine Res.keeps_ite.mpr ⟨fun _ => by simp, fun _ => State.keeps_waveAt s wave place fun _ => by simp⟩
    · simp

@[simp] theorem execWaveCompleteMessage_keeps (wave : Nat) (s : State) :
    Res.Keeps s.mem (execWaveCompleteMessage wave s) := by
  unfold execWaveCompleteMessage
  split <;> simp

@[simp] theorem execCoreSleep_keeps (core : Nat) (s : State) : Res.Keeps s.mem (execCoreSleep core s) := by
  unfold execCoreSleep
  split <;> simp

@[simp] theorem execCoreWake_keeps (core : Nat) (s : State) : Res.Keeps s.mem (execCoreWake core s) := by simp [execCoreWake]

@[simp] theorem execWakingQuery_keeps (core : Nat) (id : BitVec 32) (s : State) :
    Res.Keeps s.mem (execWakingQuery core id s) := by
  simp only [execWakingQuery]
  repeat' split
  all_goals simp +contextual

@[simp] theorem execWakeComplete_keeps (core : Nat) (s : State) : Res.Keeps s.mem (execWakeComplete core s) := by
  unfold execWakeComplete
  refine Res.keeps_ite.mpr ⟨fun _ => by simp, fun _ => ?_⟩
  simpa using execTagRefill_keeps core (s.modCore core fun k => { k with waking := false })


/-! ### Steward -/

@[simp] theorem execStewardAccessArrival_keeps (n : Nat) (s : State) : Res.Keeps s.mem (execStewardAccessArrival n s) := by
  simp [execStewardAccessArrival]

@[simp] theorem execSliceTableWrite_keeps (n : Nat) (s : State) : Res.Keeps s.mem (execSliceTableWrite n s) := by
  simp [execSliceTableWrite]

@[simp] theorem execCoreConfigurationWrite_keeps (n : Nat) (s : State) :
    Res.Keeps s.mem (execCoreConfigurationWrite n s) := by
  simp [execCoreConfigurationWrite]

@[simp] theorem execTagAllocatorWrite_keeps (n : Nat) (s : State) : Res.Keeps s.mem (execTagAllocatorWrite n s) := by
  simp [execTagAllocatorWrite]

@[simp] theorem execMembershipWrite_keeps (n : Nat) (s : State) : Res.Keeps s.mem (execMembershipWrite n s) := by
  simp [execMembershipWrite]

@[simp] theorem execGroupTableWrite_keeps (n : Nat) (s : State) : Res.Keeps s.mem (execGroupTableWrite n s) := by
  simp [execGroupTableWrite]

@[simp] theorem execPageTableRootWrite_keeps (n : Nat) (s : State) : Res.Keeps s.mem (execPageTableRootWrite n s) := by
  simp [execPageTableRootWrite]

@[simp] theorem execPrmtArrival_keeps (n : Nat) (s : State) : Res.Keeps s.mem (execPrmtArrival n s) := by
  have stopped {l : List Nat} {core : Nat} {hold : Bool} (h : Memory.Canon s.mem) :
      Memory.Canon (l.foldl (fun s r => s.preempt core r (.request hold)) (s.takePacket n)).mem :=
    State.canon_foldl (fun _ _ h => State.canon_preempt h ..) (by simpa using h)
  unfold execPrmtArrival
  repeat' split
  all_goals simp +contextual [stopped]


/-! ### Fabric -/

@[simp] theorem execCombineFlush_keeps (i : Nat) (s : State) : Res.Keeps s.mem (execCombineFlush i s) := by
  unfold execCombineFlush
  split <;> simp

@[simp] theorem execMaskHoldExpiry_keeps (i : Nat) (s : State) : Res.Keeps s.mem (execMaskHoldExpiry i s) := by
  unfold execMaskHoldExpiry
  split <;> simp

@[simp] theorem execFlitReceive_keeps (flit : WireFlit) (s : State) : Res.Keeps s.mem (execFlitReceive flit s) := by
  simp [execFlitReceive]

@[simp] theorem execPortDown_keeps (p : Nat) (s : State) : Res.Keeps s.mem (execPortDown p s) := by simp [execPortDown]

@[simp] theorem execFlitCrcFail_keeps (p : Nat) (s : State) : Res.Keeps s.mem (execFlitCrcFail p s) := by
  simp [execFlitCrcFail]

@[simp] theorem execLinkBringUp_keeps (p : Nat) (isSwitch : Bool) (reaches : List Nat) (s : State) :
    Res.Keeps s.mem (execLinkBringUp p isSwitch reaches s) := by
  simp [execLinkBringUp]

@[simp] theorem execLaneRotation_keeps (p : Nat) (s : State) : Res.Keeps s.mem (execLaneRotation p s) := by
  simp [execLaneRotation]

@[simp] theorem execLaneRetire_keeps (p lane : Nat) (margin : EyeMargin) (s : State) :
    Res.Keeps s.mem (execLaneRetire p lane margin s) := by
  simp [execLaneRetire]

@[simp] theorem execLaneDegrade_keeps (p : Nat) (s : State) : Res.Keeps s.mem (execLaneDegrade p s) := by
  simp [execLaneDegrade]

@[simp] theorem execHeartbeatSend_keeps (s : State) : Res.Keeps s.mem (execHeartbeatSend s) := by simp [execHeartbeatSend]

@[simp] theorem execHeartbeatArrival_keeps (flit : WireFlit) (s : State) :
    Res.Keeps s.mem (execHeartbeatArrival flit s) := by
  unfold execHeartbeatArrival
  split <;> simp

@[simp] theorem execSuspect_keeps (m : Nat) (s : State) : Res.Keeps s.mem (execSuspect m s) := by
  unfold execSuspect
  split <;> simp

@[simp] theorem execProbeTimeout_keeps (m : Nat) (s : State) : Res.Keeps s.mem (execProbeTimeout m s) := by
  unfold execProbeTimeout
  split <;> simp

@[simp] theorem execSelfLost_keeps (tenant : Nat) (s : State) : Res.Keeps s.mem (execSelfLost tenant s) := by
  simp [execSelfLost]

@[simp] theorem execTimeSync_keeps (podTime : Nat) (s : State) : Res.Keeps s.mem (execTimeSync podTime s) := by
  simp [execTimeSync]

@[simp] theorem execRouterCombining_keeps (core : Nat) (comb : CombineStep) (s : State) :
    Res.Keeps s.mem (execRouterCombining core comb s) := by
  simp [execRouterCombining]


/-! ### Power -/

@[simp] theorem execDvfsChangeDone_keeps (die : Nat) (s : State) : Res.Keeps s.mem (execDvfsChangeDone die s) := by
  unfold execDvfsChangeDone
  split <;> simp

@[simp] theorem execCapWrite_keeps (die watts : Nat) (s : State) : Res.Keeps s.mem (execCapWrite die watts s) := by
  simp [execCapWrite]

@[simp] theorem execLidSample_keeps (die region temp : Nat) (s : State) :
    Res.Keeps s.mem (execLidSample die region temp s) := by
  simp [execLidSample]

@[simp] theorem execClampRelease_keeps (die : Nat) (s : State) : Res.Keeps s.mem (execClampRelease die s) := by
  unfold execClampRelease
  split <;> simp

@[simp] theorem execInputLow_keeps (milliVolts micros : Nat) (s : State) :
    Res.Keeps s.mem (execInputLow milliVolts micros s) := by
  simp [execInputLow]

@[simp] theorem execInputLimit_keeps (milliWatts : Nat) (s : State) : Res.Keeps s.mem (execInputLimit milliWatts s) := by
  simp [execInputLimit]

@[simp] theorem execRailSample_keeps (rail milliVolts tenMilliAmps deciWatts : Nat) (s : State) :
    Res.Keeps s.mem (execRailSample rail milliVolts tenMilliAmps deciWatts s) := by
  simp [execRailSample]

@[simp] theorem execEnergyApportion_keeps (die microJoules : Nat) (s : State) :
    Res.Keeps s.mem (execEnergyApportion die microJoules s) := by
  simp [execEnergyApportion]

@[simp] theorem execTsatWrite_keeps (value : BitVec 16) (s : State) : Res.Keeps s.mem (execTsatWrite value s) := by
  simp [execTsatWrite]

@[simp] theorem execFeedWrite_keeps (value : BitVec 16) (s : State) : Res.Keeps s.mem (execFeedWrite value s) := by
  simp [execFeedWrite]

@[simp] theorem execDieCounterSelect_keeps (die counter source : Nat) (s : State) :
    Res.Keeps s.mem (execDieCounterSelect die counter source s) := by
  simp [execDieCounterSelect]

@[simp] theorem execMctpControl_keeps (cmd : MctpCmd) (s : State) : Res.Keeps s.mem (execMctpControl cmd s) := by
  unfold execMctpControl
  split <;> simp

@[simp] theorem execPldmSensorRead_keeps (id : Nat) (s : State) : Res.Keeps s.mem (execPldmSensorRead id s) := by
  unfold execPldmSensorRead
  split <;> simp


/-! ### HostGate -/

@[simp] theorem execFstatClear_keeps (req : HostReq) (value : Word) (s : State) :
    Res.Keeps s.mem (execFstatClear req value s) := by
  exact State.keeps_atFunction s _ _ (by simp)

@[simp] theorem execHqheadWrite_keeps (req : HostReq) (value : Word) (s : State) :
    Res.Keeps s.mem (execHqheadWrite req value s) := by
  exact State.keeps_atFunction s _ _ (by simp)

@[simp] theorem execHostRegisterWrite_keeps (req : HostReq) (off : Nat) (value : Word) (s : State) :
    Res.Keeps s.mem (execHostRegisterWrite req off value s) := by
  refine State.keeps_atFunction s _ _ ?_
  simp

@[simp] theorem execSendApertureWrite_keeps (req : HostReq) (off : Nat) (bytes : List Byte) (s : State) :
    Res.Keeps s.mem (execSendApertureWrite req off bytes s) := by
  refine State.keeps_atFunction s _ _ (Res.keeps_ite.mpr ⟨fun _ => by simp, fun _ => ?_⟩)
  split <;> simp

@[simp] theorem execBar2Write_keeps (fn off : Nat) (bytes : List Byte) (sealed : Bool) (s : State) :
    Res.Keeps s.mem (execBar2Write fn off bytes sealed s) := by
  refine State.keeps_atAperture s _ _ _ _ ?_
  split <;> simp +contextual

@[simp] theorem execBar2Read_keeps (fn off len : Nat) (sealed : Bool) (s : State) :
    Res.Keeps s.mem (execBar2Read fn off len sealed s) := by
  refine State.keeps_atAperture s _ _ _ _ ?_
  split <;> simp +contextual

@[simp] theorem execHostQueueDelivery_keeps (fn : Nat) (s : State) : Res.Keeps s.mem (execHostQueueDelivery fn s) := by
  simp only [execHostQueueDelivery]
  split <;> simp

@[simp] theorem execFunctionLevelReset_keeps (fn : Nat) (s : State) : Res.Keeps s.mem (execFunctionLevelReset fn s) := by
  simp only [execFunctionLevelReset]
  repeat' split
  all_goals simp

@[simp] theorem execTdispRequest_keeps (fn : Nat) (req : TdispReq) (s : State) :
    Res.Keeps s.mem (execTdispRequest fn req s) := by
  simp [execTdispRequest]

@[simp] theorem execIdeStreamSetup_keeps (fn : Nat) (selective enable : Bool) (s : State) :
    Res.Keeps s.mem (execIdeStreamSetup fn selective enable s) := by
  simp [execIdeStreamSetup]

@[simp] theorem execVfEnable_keeps (count : Nat) (s : State) : Res.Keeps s.mem (execVfEnable count s) := by
  simp [execVfEnable]


/-! ### Service -/

@[simp] theorem execServiceBadRequest_keeps (n : Nat) (s : State) : Res.Keeps s.mem (execServiceBadRequest n s) := by
  unfold execServiceBadRequest
  split <;> simp

@[simp] theorem execMap_keeps (n : Nat) (s : State) : Res.Keeps s.mem (execMap n s) := by
  refine State.keeps_serve s _ _ _ fun m => ?_
  split
  · simp
  · refine Res.keeps_ite.mpr ⟨fun _ => by simp, fun _ => Res.keeps_ite.mpr ⟨fun _ => by simp, fun _ =>
      Res.keeps_ite.mpr ⟨fun _ => by simp, fun _ => ?_⟩⟩⟩
    split
    · simp
    · next t ht => simpa using fun h => State.canon_mapPages h ht

@[simp] theorem execUnmap_keeps (n : Nat) (s : State) : Res.Keeps s.mem (execUnmap n s) := by
  refine State.keeps_serve s _ _ _ fun m => ?_
  split
  · simp
  · next r _ =>
    dsimp only
    have unmapped (l : List Nat) (h : Memory.Canon s.mem) :
        Memory.Canon (l.foldl (fun s p => (s.writeLeaf m.tenant p 0).getD s) (s.takePacket n)).mem :=
      State.canon_foldl (fun t p ht => by
        cases hu : t.writeLeaf m.tenant p 0 with
        | none => exact ht
        | some u => exact State.canon_writeLeaf ht hu) (by simpa using h)
    simp +contextual [unmapped]

@[simp] theorem execTenantCreate_keeps (n : Nat) (s : State) : Res.Keeps s.mem (execTenantCreate n s) := by
  refine State.keeps_serve s _ _ _ fun m => ?_
  dsimp only
  repeat' split
  all_goals simp +contextual

@[simp] theorem execTenantDestroy_keeps (n : Nat) (s : State) : Res.Keeps s.mem (execTenantDestroy n s) := by
  refine State.keeps_serve s _ _ _ fun m => ?_
  dsimp only
  split
  · simp
  · next r _ =>
    have ending (h : Memory.Canon s.mem) := State.canon_endTenant h (m.a1.setWidth 12) r s.podModules
    refine Res.keeps_ite.mpr ⟨fun _ => by simp, fun _ => ?_⟩
    split
    · next ht => rw [ht] at ending; simpa using ending
    · simp
    · next ht => rw [ht] at ending; simpa using ending

@[simp] theorem execQuery_keeps (n : Nat) (s : State) : Res.Keeps s.mem (execQuery n s) := by
  refine State.keeps_serve s _ _ _ fun m => ?_
  dsimp only
  repeat' split
  all_goals simp +contextual

@[simp] theorem execStartRoot_keeps (n : Nat) (s : State) : Res.Keeps s.mem (execStartRoot n s) := by
  refine State.keeps_serve s _ _ _ fun m => ?_
  split
  · simp
  · next r _ =>
    extract_lets ilen place far req
    have loaded (h : Memory.Canon s.mem) := State.canon_loadRoot h req
    refine Res.keeps_ite.mpr ⟨fun _ => by simp, fun _ => Res.keeps_ite.mpr ⟨fun _ => by simp, fun _ =>
      Res.keeps_ite.mpr ⟨fun _ => by simp, fun _ => Res.keeps_ite.mpr ⟨fun _ => by simp, fun _ =>
      Res.keeps_ite.mpr ⟨fun _ => by simp, fun _ => ?_⟩⟩⟩⟩⟩
    split <;> next ht => rw [ht] at loaded; simpa using loaded

@[simp] theorem execMcastSet_keeps (n : Nat) (s : State) : Res.Keeps s.mem (execMcastSet n s) := by
  refine State.keeps_serve s _ _ _ fun m => ?_
  dsimp only
  repeat' split
  all_goals simp +contextual

@[simp] theorem execMcastDel_keeps (n : Nat) (s : State) : Res.Keeps s.mem (execMcastDel n s) := by
  refine State.keeps_serve s _ _ _ fun m => Res.keeps_ite.mpr ⟨fun _ => by simp, fun _ => ?_⟩
  split <;> simp

@[simp] theorem execGroupInstallAck_keeps (flit : WireFlit) (s : State) : Res.Keeps s.mem (execGroupInstallAck flit s) := by
  unfold execGroupInstallAck
  split <;> simp

@[simp] theorem execGroupInstallTimeout_keeps (entry : Nat) (s : State) :
    Res.Keeps s.mem (execGroupInstallTimeout entry s) := by
  simp [execGroupInstallTimeout]

@[simp] theorem execGroupCreate_keeps (n : Nat) (s : State) : Res.Keeps s.mem (execGroupCreate n s) := by
  refine State.keeps_serve s _ _ _ fun m => ?_
  dsimp only
  repeat' split
  all_goals simp +contextual

@[simp] theorem execGroupRead_keeps (n : Nat) (s : State) : Res.Keeps s.mem (execGroupRead n s) := by
  refine State.keeps_serve s _ _ _ fun m => ?_
  dsimp only
  repeat' split
  all_goals simp +contextual

@[simp] theorem execGroupDelete_keeps (n : Nat) (s : State) : Res.Keeps s.mem (execGroupDelete n s) := by
  refine State.keeps_serve s _ _ _ fun m => ?_
  dsimp only
  repeat' split
  all_goals simp +contextual

@[simp] theorem execMembershipLossUpdate_keeps (m : Nat) (s : State) : Res.Keeps s.mem (execMembershipLossUpdate m s) := by
  simp [execMembershipLossUpdate]


/-! ### Attest -/

@[simp] theorem execModuleReset_keeps (s : State) : Res.Keeps s.mem (execModuleReset s) := by
  simp +contextual [execModuleReset]

@[simp] theorem execInputUndervoltage_keeps (milliVolts _micros : Nat) (s : State) :
    Res.Keeps s.mem (execInputUndervoltage milliVolts _micros s) := by
  simp +contextual [execInputUndervoltage]

@[simp] theorem execInputOvervoltage_keeps (milliVolts _micros : Nat) (s : State) :
    Res.Keeps s.mem (execInputOvervoltage milliVolts _micros s) := by
  simp +contextual [execInputOvervoltage]

@[simp] theorem execInputRecovery_keeps (milliVolts micros : Nat) (s : State) :
    Res.Keeps s.mem (execInputRecovery milliVolts micros s) := by
  simp [execInputRecovery]

@[simp] theorem execFirmwareUpdate_keeps (image : FlashSlot) (s : State) : Res.Keeps s.mem (execFirmwareUpdate image s) := by
  simp [execFirmwareUpdate]

@[simp] theorem execFusedSvnAdvance_keeps (svn : Nat) (s : State) : Res.Keeps s.mem (execFusedSvnAdvance svn s) := by
  simp [execFusedSvnAdvance]

@[simp] theorem execGetVersion_keeps (fn : Nat) (s : State) : Res.Keeps s.mem (execGetVersion fn s) := by
  simp [execGetVersion]

@[simp] theorem execGetCapabilities_keeps (fn : Nat) (s : State) : Res.Keeps s.mem (execGetCapabilities fn s) := by
  simp [execGetCapabilities]

@[simp] theorem execNegotiateAlgorithms_keeps (fn : Nat) (algs : List SpdmAlg) (s : State) :
    Res.Keeps s.mem (execNegotiateAlgorithms fn algs s) := by
  simp [execNegotiateAlgorithms]

@[simp] theorem execGetDigests_keeps (fn : Nat) (s : State) : Res.Keeps s.mem (execGetDigests fn s) := by
  simp [execGetDigests]

@[simp] theorem execGetCertificate_keeps (fn : Nat) (s : State) : Res.Keeps s.mem (execGetCertificate fn s) := by
  simp [execGetCertificate]

@[simp] theorem execChallenge_keeps (fn : Nat) (nonce : List Byte) (s : State) :
    Res.Keeps s.mem (execChallenge fn nonce s) := by
  simp [execChallenge]

@[simp] theorem execGetMeasurements_keeps (fn index : Nat) (nonce : List Byte) (s : State) :
    Res.Keeps s.mem (execGetMeasurements fn index nonce s) := by
  simp [execGetMeasurements]

@[simp] theorem execKeyExchange_keeps (fn : Nat) (nonce : List Byte) (s : State) :
    Res.Keeps s.mem (execKeyExchange fn nonce s) := by
  simp [execKeyExchange]

@[simp] theorem execFinish_keeps (fn session : Nat) (s : State) : Res.Keeps s.mem (execFinish fn session s) := by
  simp [execFinish]

@[simp] theorem execEndSession_keeps (fn session : Nat) (s : State) : Res.Keeps s.mem (execEndSession fn session s) := by
  simp [execEndSession]


/-! ### CopyDone -/

@[simp] theorem execCopyComplete_keeps (core : Nat) (id : Nat) (s : State) :
    Res.Keeps s.mem (execCopyComplete core id s) := by
  unfold execCopyComplete
  extract_lets k
  split
  · split
    · split <;> simp
    · simp
  · next o _ =>
    dsimp only
    split
    · have ready (h : Memory.Canon s.mem) := State.canon_opReady h core o
      refine Res.keeps_ite.mpr ⟨fun _ => by simp, fun _ => Res.keeps_ite.mpr ⟨fun _ => by simpa using ready, fun _ => ?_⟩⟩
      split
      · next t ht => simpa using fun h => State.canon_stepCopy (ready h) ht
      · simpa using ready
    · simp +contextual
    · simp


/-! ### Scalar -/

@[simp] theorem execAdd_keeps (a b c : Reg) (w : OpWidth) (s : State) : Res.Keeps s.mem (execAdd a b c w s) := by
  simp [execAdd]

@[simp] theorem execSub_keeps (a b c : Reg) (w : OpWidth) (s : State) : Res.Keeps s.mem (execSub a b c w s) := by
  simp [execSub]

@[simp] theorem execAnd_keeps (a b c : Reg) (w : OpWidth) (s : State) : Res.Keeps s.mem (execAnd a b c w s) := by
  simp [execAnd]

@[simp] theorem execOr_keeps (a b c : Reg) (w : OpWidth) (s : State) : Res.Keeps s.mem (execOr a b c w s) := by simp [execOr]

@[simp] theorem execXor_keeps (a b c : Reg) (w : OpWidth) (s : State) : Res.Keeps s.mem (execXor a b c w s) := by
  simp [execXor]

@[simp] theorem execShl_keeps (a b c : Reg) (w : OpWidth) (s : State) : Res.Keeps s.mem (execShl a b c w s) := by
  simp [execShl]

@[simp] theorem execShr_keeps (a b c : Reg) (w : OpWidth) (s : State) : Res.Keeps s.mem (execShr a b c w s) := by
  simp [execShr]

@[simp] theorem execSra_keeps (a b c : Reg) (w : OpWidth) (s : State) : Res.Keeps s.mem (execSra a b c w s) := by
  simp [execSra]

@[simp] theorem execMul_keeps (a b c : Reg) (w : OpWidth) (s : State) : Res.Keeps s.mem (execMul a b c w s) := by
  simp [execMul]

@[simp] theorem execMulh_keeps (a b c : Reg) (w : OpWidth) (s : State) : Res.Keeps s.mem (execMulh a b c w s) := by
  simp [execMulh]

@[simp] theorem execMulhu_keeps (a b c : Reg) (w : OpWidth) (s : State) : Res.Keeps s.mem (execMulhu a b c w s) := by
  simp [execMulhu]

@[simp] theorem execDiv_keeps (a b c : Reg) (w : OpWidth) (s : State) : Res.Keeps s.mem (execDiv a b c w s) := by
  simp [execDiv]

@[simp] theorem execDivu_keeps (a b c : Reg) (w : OpWidth) (s : State) : Res.Keeps s.mem (execDivu a b c w s) := by
  simp [execDivu]

@[simp] theorem execRem_keeps (a b c : Reg) (w : OpWidth) (s : State) : Res.Keeps s.mem (execRem a b c w s) := by
  simp [execRem]

@[simp] theorem execRemu_keeps (a b c : Reg) (w : OpWidth) (s : State) : Res.Keeps s.mem (execRemu a b c w s) := by
  simp [execRemu]

@[simp] theorem execClz_keeps (a b : Reg) (w : OpWidth) (s : State) : Res.Keeps s.mem (execClz a b w s) := by simp [execClz]

@[simp] theorem execCtz_keeps (a b : Reg) (w : OpWidth) (s : State) : Res.Keeps s.mem (execCtz a b w s) := by simp [execCtz]

@[simp] theorem execPopc_keeps (a b : Reg) (w : OpWidth) (s : State) : Res.Keeps s.mem (execPopc a b w s) := by
  simp [execPopc]

@[simp] theorem execAddi_keeps (a : Reg) (imm : Word) (s : State) : Res.Keeps s.mem (execAddi a imm s) := by simp [execAddi]

@[simp] theorem execAndi_keeps (a : Reg) (imm : Word) (s : State) : Res.Keeps s.mem (execAndi a imm s) := by simp [execAndi]

@[simp] theorem execOri_keeps (a : Reg) (imm : Word) (s : State) : Res.Keeps s.mem (execOri a imm s) := by simp [execOri]

@[simp] theorem execXori_keeps (a : Reg) (imm : Word) (s : State) : Res.Keeps s.mem (execXori a imm s) := by simp [execXori]

@[simp] theorem execShli_keeps (a : Reg) (imm : Word) (s : State) : Res.Keeps s.mem (execShli a imm s) := by simp [execShli]

@[simp] theorem execShri_keeps (a : Reg) (imm : Word) (s : State) : Res.Keeps s.mem (execShri a imm s) := by simp [execShri]

@[simp] theorem execSrai_keeps (a : Reg) (imm : Word) (s : State) : Res.Keeps s.mem (execSrai a imm s) := by simp [execSrai]

@[simp] theorem execLi_keeps (a : Reg) (imm : Word) (s : State) : Res.Keeps s.mem (execLi a imm s) := by simp [execLi]

@[simp] theorem execCmp_keeps (cond : CmpCond) (p : Pred) (b c : Reg) (s : State) :
    Res.Keeps s.mem (execCmp cond p b c s) := by
  simp [execCmp]

@[simp] theorem execCmpu_keeps (cond : CmpuCond) (p : Pred) (b c : Reg) (s : State) :
    Res.Keeps s.mem (execCmpu cond p b c s) := by
  simp [execCmpu]

@[simp] theorem execSel_keeps (a b : Reg) (p : Pred) (s : State) : Res.Keeps s.mem (execSel a b p s) := by simp [execSel]

@[simp] theorem execPlog_keeps (op : PlogOp) (p b c : Pred) (s : State) : Res.Keeps s.mem (execPlog op p b c s) := by
  simp [execPlog]

@[simp] theorem execExtu_keeps (a b : Reg) (pos len : BitVec 6) (s : State) : Res.Keeps s.mem (execExtu a b pos len s) := by
  simp [execExtu]

@[simp] theorem execExts_keeps (a b : Reg) (pos len : BitVec 6) (s : State) : Res.Keeps s.mem (execExts a b pos len s) := by
  simp [execExts]

@[simp] theorem execIns_keeps (a b : Reg) (pos len : BitVec 6) (s : State) : Res.Keeps s.mem (execIns a b pos len s) := by
  simp [execIns]

@[simp] theorem execFadd_keeps (a b c : Reg) (s : State) : Res.Keeps s.mem (execFadd a b c s) := by simp [execFadd]

@[simp] theorem execFsub_keeps (a b c : Reg) (s : State) : Res.Keeps s.mem (execFsub a b c s) := by simp [execFsub]

@[simp] theorem execFmul_keeps (a b c : Reg) (s : State) : Res.Keeps s.mem (execFmul a b c s) := by simp [execFmul]

@[simp] theorem execFma_keeps (a b c : Reg) (s : State) : Res.Keeps s.mem (execFma a b c s) := by simp [execFma]

@[simp] theorem execFdiv_keeps (a b c : Reg) (s : State) : Res.Keeps s.mem (execFdiv a b c s) := by simp [execFdiv]

@[simp] theorem execFsqrt_keeps (a b : Reg) (s : State) : Res.Keeps s.mem (execFsqrt a b s) := by simp [execFsqrt]

@[simp] theorem execFmin_keeps (a b c : Reg) (s : State) : Res.Keeps s.mem (execFmin a b c s) := by simp [execFmin]

@[simp] theorem execFmax_keeps (a b c : Reg) (s : State) : Res.Keeps s.mem (execFmax a b c s) := by simp [execFmax]

@[simp] theorem execFcmp_keeps (cond : FCond) (p : Pred) (b c : Reg) (s : State) :
    Res.Keeps s.mem (execFcmp cond p b c s) := by
  simp [execFcmp]

@[simp] theorem execDadd_keeps (a b c : Reg) (s : State) : Res.Keeps s.mem (execDadd a b c s) := by simp [execDadd]

@[simp] theorem execDsub_keeps (a b c : Reg) (s : State) : Res.Keeps s.mem (execDsub a b c s) := by simp [execDsub]

@[simp] theorem execDmul_keeps (a b c : Reg) (s : State) : Res.Keeps s.mem (execDmul a b c s) := by simp [execDmul]

@[simp] theorem execDfma_keeps (a b c : Reg) (s : State) : Res.Keeps s.mem (execDfma a b c s) := by simp [execDfma]

@[simp] theorem execDdiv_keeps (a b c : Reg) (s : State) : Res.Keeps s.mem (execDdiv a b c s) := by simp [execDdiv]

@[simp] theorem execDsqrt_keeps (a b : Reg) (s : State) : Res.Keeps s.mem (execDsqrt a b s) := by simp [execDsqrt]

@[simp] theorem execDmin_keeps (a b c : Reg) (s : State) : Res.Keeps s.mem (execDmin a b c s) := by simp [execDmin]

@[simp] theorem execDmax_keeps (a b c : Reg) (s : State) : Res.Keeps s.mem (execDmax a b c s) := by simp [execDmax]

@[simp] theorem execDcmp_keeps (cond : FCond) (p : Pred) (b c : Reg) (s : State) :
    Res.Keeps s.mem (execDcmp cond p b c s) := by
  simp [execDcmp]

@[simp] theorem execFcvt_keeps (code : BitVec 4) (a b : Reg) (s : State) : Res.Keeps s.mem (execFcvt code a b s) := by
  simp [execFcvt]

@[simp] theorem execBr_keeps (off : Word) (s : State) : Res.Keeps s.mem (execBr off s) := by simp [execBr]

@[simp] theorem execCall_keeps (off : Word) (s : State) : Res.Keeps s.mem (execCall off s) := by simp [execCall]

@[simp] theorem execBrp_keeps (p : Pred) (off : Word) (s : State) : Res.Keeps s.mem (execBrp p off s) := by simp [execBrp]

@[simp] theorem execBrpF_keeps (p : Pred) (off : Word) (s : State) : Res.Keeps s.mem (execBrpF p off s) := by simp [execBrpF]

@[simp] theorem execJr_keeps (b : Reg) (s : State) : Res.Keeps s.mem (execJr b s) := by simp [execJr]

@[simp] theorem execCallr_keeps (b : Reg) (s : State) : Res.Keeps s.mem (execCallr b s) := by simp [execCallr]

@[simp] theorem execDone_keeps (s : State) : Res.Keeps s.mem (execDone s) := by simp [execDone]

@[simp] theorem execUnassignedEncoding_keeps (s : State) : Res.Keeps s.mem (execUnassignedEncoding s) := by
  simp [execUnassignedEncoding]

@[simp] theorem execRngd_keeps (a b c : Reg) (s : State) : Res.Keeps s.mem (execRngd a b c s) := by simp [execRngd]


/-! ### Vector -/

@[simp] theorem execDld_keeps (d : ShapeReg) (b : Reg) (off : Word) (s : State) : Res.Keeps s.mem (execDld d b off s) := by
  simp [execDld]

@[simp] theorem execDldBase_keeps (d : ShapeReg) (b : Reg) (off : Word) (c : Reg) (s : State) :
    Res.Keeps s.mem (execDldBase d b off c s) := by
  simp [execDldBase]

@[simp] theorem execVadd_keeps (a b : ShapeReg) (c : VSrc) (s : State) : Res.Keeps s.mem (execVadd a b c s) := by
  simp [execVadd]

@[simp] theorem execVsub_keeps (a b : ShapeReg) (c : VSrc) (s : State) : Res.Keeps s.mem (execVsub a b c s) := by
  simp [execVsub]

@[simp] theorem execVmul_keeps (a b : ShapeReg) (c : VSrc) (s : State) : Res.Keeps s.mem (execVmul a b c s) := by
  simp [execVmul]

@[simp] theorem execVfma_keeps (a b : ShapeReg) (c : VSrc) (s : State) : Res.Keeps s.mem (execVfma a b c s) := by
  simp [execVfma]

@[simp] theorem execVdiv_keeps (a b : ShapeReg) (c : VSrc) (s : State) : Res.Keeps s.mem (execVdiv a b c s) := by
  simp [execVdiv]

@[simp] theorem execVmin_keeps (a b : ShapeReg) (c : VSrc) (s : State) : Res.Keeps s.mem (execVmin a b c s) := by
  simp [execVmin]

@[simp] theorem execVmax_keeps (a b : ShapeReg) (c : VSrc) (s : State) : Res.Keeps s.mem (execVmax a b c s) := by
  simp [execVmax]

@[simp] theorem execVand_keeps (a b : ShapeReg) (c : VSrc) (s : State) : Res.Keeps s.mem (execVand a b c s) := by
  simp [execVand]

@[simp] theorem execVor_keeps (a b : ShapeReg) (c : VSrc) (s : State) : Res.Keeps s.mem (execVor a b c s) := by
  simp [execVor]

@[simp] theorem execVxor_keeps (a b : ShapeReg) (c : VSrc) (s : State) : Res.Keeps s.mem (execVxor a b c s) := by
  simp [execVxor]

@[simp] theorem execVshl_keeps (a b : ShapeReg) (c : VSrc) (s : State) : Res.Keeps s.mem (execVshl a b c s) := by
  simp [execVshl]

@[simp] theorem execVshr_keeps (a b : ShapeReg) (c : VSrc) (s : State) : Res.Keeps s.mem (execVshr a b c s) := by
  simp [execVshr]

@[simp] theorem execVsra_keeps (a b : ShapeReg) (c : VSrc) (s : State) : Res.Keeps s.mem (execVsra a b c s) := by
  simp [execVsra]

@[simp] theorem execVcmp_keeps (cond : VCond) (a b : ShapeReg) (c : VSrc) (s : State) :
    Res.Keeps s.mem (execVcmp cond a b c s) := by
  simp [execVcmp]

@[simp] theorem execVabs_keeps (a b : ShapeReg) (s : State) : Res.Keeps s.mem (execVabs a b s) := by simp [execVabs]

@[simp] theorem execVneg_keeps (a b : ShapeReg) (s : State) : Res.Keeps s.mem (execVneg a b s) := by simp [execVneg]

@[simp] theorem execVexp_keeps (a b : ShapeReg) (s : State) : Res.Keeps s.mem (execVexp a b s) := by simp [execVexp]

@[simp] theorem execVlog_keeps (a b : ShapeReg) (s : State) : Res.Keeps s.mem (execVlog a b s) := by simp [execVlog]

@[simp] theorem execVsqrt_keeps (a b : ShapeReg) (s : State) : Res.Keeps s.mem (execVsqrt a b s) := by simp [execVsqrt]

@[simp] theorem execVrsq_keeps (a b : ShapeReg) (s : State) : Res.Keeps s.mem (execVrsq a b s) := by simp [execVrsq]

@[simp] theorem execVrcp_keeps (a b : ShapeReg) (s : State) : Res.Keeps s.mem (execVrcp a b s) := by simp [execVrcp]

@[simp] theorem execVtanh_keeps (a b : ShapeReg) (s : State) : Res.Keeps s.mem (execVtanh a b s) := by simp [execVtanh]

@[simp] theorem execVsig_keeps (a b : ShapeReg) (s : State) : Res.Keeps s.mem (execVsig a b s) := by simp [execVsig]

@[simp] theorem execVcvt_keeps (a b : ShapeReg) (s : State) : Res.Keeps s.mem (execVcvt a b s) := by simp [execVcvt]

@[simp] theorem execVrsum_keeps (a b : ShapeReg) (s : State) : Res.Keeps s.mem (execVrsum a b s) := by simp [execVrsum]

@[simp] theorem execVrmax_keeps (a b : ShapeReg) (s : State) : Res.Keeps s.mem (execVrmax a b s) := by simp [execVrmax]

@[simp] theorem execVrmin_keeps (a b : ShapeReg) (s : State) : Res.Keeps s.mem (execVrmin a b s) := by simp [execVrmin]

@[simp] theorem execVtrn_keeps (a b : ShapeReg) (s : State) : Res.Keeps s.mem (execVtrn a b s) := by simp [execVtrn]

@[simp] theorem execVperm_keeps (a b c : ShapeReg) (s : State) : Res.Keeps s.mem (execVperm a b c s) := by simp [execVperm]

@[simp] theorem execVfill_keeps (a : ShapeReg) (b : Reg) (s : State) : Res.Keeps s.mem (execVfill a b s) := by
  simp [execVfill]

@[simp] theorem execRngv_keeps (a : ShapeReg) (b c : Reg) (s : State) : Res.Keeps s.mem (execRngv a b c s) := by
  simp [execRngv]

@[simp] theorem execVsel_keeps (a m b : ShapeReg) (c : VSrc) (s : State) : Res.Keeps s.mem (execVsel a m b c s) := by
  unfold execVsel
  split <;> simp

@[simp] theorem execVxch_keeps (a : ShapeReg) (b c : Reg) (s : State) : Res.Keeps s.mem (execVxch a b c s) := by
  refine .guardRegs ?_
  dsimp only
  repeat' split
  all_goals simp

@[simp] theorem execVectorOpComplete_keeps (core : Nat) (s : State) : Res.Keeps s.mem (execVectorOpComplete core s) := by
  unfold execVectorOpComplete
  extract_lets k
  split
  · split <;> simp
  · split
    · simp
    · next o _ =>
      have ready (h : Memory.Canon s.mem) := State.canon_opReady h core o
      refine Res.keeps_ite.mpr ⟨fun _ => by simp, fun _ => Res.keeps_ite.mpr ⟨fun _ => by simpa using ready, fun _ => ?_⟩⟩
      dsimp only
      split
      · simpa using ready
      · exact .trans (by simpa using ready) (State.keeps_finishVec ..)
      · simpa using ready


/-! ### Matrix -/

@[simp] theorem execMma_keeps (n : AccReg) (a b c : Reg) (s : State) : Res.Keeps s.mem (execMma n a b c s) := by
  simp [execMma]

@[simp] theorem execMmat_keeps (n : AccReg) (a b c : Reg) (s : State) : Res.Keeps s.mem (execMmat n a b c s) := by
  simp [execMmat]

@[simp] theorem execMsp_keeps (n : AccReg) (a b c : Reg) (s : State) : Res.Keeps s.mem (execMsp n a b c s) := by
  simp [execMsp]

@[simp] theorem execMspt_keeps (n : AccReg) (a b c : Reg) (s : State) : Res.Keeps s.mem (execMspt n a b c s) := by
  simp [execMspt]

@[simp] theorem execMzero_keeps (n : AccReg) (s : State) : Res.Keeps s.mem (execMzero n s) := by simp [execMzero]

@[simp] theorem execMcp_keeps (d a : AccReg) (s : State) : Res.Keeps s.mem (execMcp d a s) := by simp [execMcp]

@[simp] theorem execMadd_keeps (k : AccKind) (d a : AccReg) (s : State) : Res.Keeps s.mem (execMadd k d a s) := by
  simp [execMadd]

@[simp] theorem execMtrn_keeps (d a : AccReg) (s : State) : Res.Keeps s.mem (execMtrn d a s) := by simp [execMtrn]

@[simp] theorem execMtrnD_keeps (d a : AccReg) (s : State) : Res.Keeps s.mem (execMtrnD d a s) := by simp [execMtrnD]

@[simp] theorem execMld_keeps (k : AccKind) (n : AccReg) (b c : Reg) (s : State) : Res.Keeps s.mem (execMld k n b c s) := by
  refine .guardRegs ?_
  dsimp only
  repeat' split
  all_goals simp

@[simp] theorem execMst_keeps (k : AccKind) (e5 : Bool) (n : AccReg) (b c : Reg) (s : State) :
    Res.Keeps s.mem (execMst k e5 n b c s) := by
  refine .guardRegs ?_
  dsimp only
  split
  · simp
  · split
    · simp
    · exact Res.keeps_ite.mpr ⟨fun _ => by simp, fun _ => .got id (fun h => State.canon_reserveView h ..) fun t ht => by simpa using ht⟩

@[simp] theorem execMatrixOpComplete_keeps (core : Nat) (s : State) : Res.Keeps s.mem (execMatrixOpComplete core s) := by
  unfold execMatrixOpComplete
  split
  · simp
  · next o _ _ =>
    have ready (h : Memory.Canon s.mem) := State.canon_opReady h core o
    refine Res.keeps_ite.mpr ⟨fun _ => by simp, fun _ => Res.keeps_ite.mpr ⟨fun _ => by simpa using ready, fun _ => ?_⟩⟩
    dsimp only
    split
    · exact .orWait (fun h => State.canon_runMat (by simpa using ready h) ..) (by simpa using ready) fun t ht => by simpa using ht
    · simpa using ready


/-! ### Sorrel -/

@[simp] theorem execQski_keeps (a : Reg) (d : ShapeReg) (s : State) : Res.Keeps s.mem (execQski a d s) := by simp [execQski]

@[simp] theorem execQskm_keeps (a b : Reg) (s : State) : Res.Keeps s.mem (execQskm a b s) := by simp [execQskm]

@[simp] theorem execQskq_keeps (a b c : Reg) (s : State) : Res.Keeps s.mem (execQskq a b c s) := by simp [execQskq]

@[simp] theorem execQskr_keeps (a b c : Reg) (s : State) : Res.Keeps s.mem (execQskr a b c s) := by simp [execQskr]

@[simp] theorem execQskn_keeps (a b : Reg) (s : State) : Res.Keeps s.mem (execQskn a b s) := by simp [execQskn]

@[simp] theorem execHhi_keeps (a : Reg) (d : ShapeReg) (s : State) : Res.Keeps s.mem (execHhi a d s) := by simp [execHhi]

@[simp] theorem execHhm_keeps (a b : Reg) (s : State) : Res.Keeps s.mem (execHhm a b s) := by simp [execHhm]

@[simp] theorem execHhn_keeps (fmt : BitVec 6) (a b : Reg) (s : State) : Res.Keeps s.mem (execHhn fmt a b s) := by
  simp [execHhn]

@[simp] theorem execDci_keeps (a : Reg) (d : ShapeReg) (s : State) : Res.Keeps s.mem (execDci a d s) := by simp [execDci]

@[simp] theorem execDcm_keeps (a b : Reg) (s : State) : Res.Keeps s.mem (execDcm a b s) := by simp [execDcm]

@[simp] theorem execDce_keeps (a b : Reg) (s : State) : Res.Keeps s.mem (execDce a b s) := by simp [execDce]

@[simp] theorem execDcn_keeps (fmt : BitVec 6) (a b : Reg) (s : State) : Res.Keeps s.mem (execDcn fmt a b s) := by
  simp [execDcn]

@[simp] theorem execHhq_keeps (a b c : Reg) (s : State) : Res.Keeps s.mem (execHhq a b c s) := by
  refine .guardRegs ?_
  dsimp only
  repeat' split
  all_goals simp

@[simp] theorem execSummaryOpComplete_keeps (core : Nat) (s : State) : Res.Keeps s.mem (execSummaryOpComplete core s) := by
  unfold execSummaryOpComplete
  split
  · simp
  · next o _ _ =>
    have ready (h : Memory.Canon s.mem) := State.canon_opReady h core o
    refine Res.keeps_ite.mpr ⟨fun _ => by simp, fun _ => Res.keeps_ite.mpr ⟨fun _ => by simpa using ready, fun _ => ?_⟩⟩
    dsimp only
    split
    · exact .orWait (fun h => State.canon_runSum (by simpa using ready h) ..) (by simpa using ready) fun t ht => by simpa using ht
    · simpa using ready

end Sys2Proof.Machine
end

section
/-! PROOFS. Steps: O57 and O58. -/

namespace Sys2Proof.Machine

open Sys2Proof

-- In order, not in parallel: the threads of the tests above leave little of the memory that one compile may take.
set_option Elab.async false

/-! ### Every move of the agenda -/

/-- Every instruction and every event answers a next state and keeps the canonical form of the memory. -/
theorem exec_keeps (i : Instr) (s : State) : Res.Keeps s.mem (exec i s) := by
  cases i with
  | add a b c w => exact execAdd_keeps a b c w s
  | sub a b c w => exact execSub_keeps a b c w s
  | and a b c w => exact execAnd_keeps a b c w s
  | or a b c w => exact execOr_keeps a b c w s
  | xor a b c w => exact execXor_keeps a b c w s
  | shl a b c w => exact execShl_keeps a b c w s
  | shr a b c w => exact execShr_keeps a b c w s
  | sra a b c w => exact execSra_keeps a b c w s
  | mul a b c w => exact execMul_keeps a b c w s
  | mulh a b c w => exact execMulh_keeps a b c w s
  | mulhu a b c w => exact execMulhu_keeps a b c w s
  | div a b c w => exact execDiv_keeps a b c w s
  | divu a b c w => exact execDivu_keeps a b c w s
  | rem a b c w => exact execRem_keeps a b c w s
  | remu a b c w => exact execRemu_keeps a b c w s
  | addi a imm => exact execAddi_keeps a imm s
  | andi a imm => exact execAndi_keeps a imm s
  | shli a imm => exact execShli_keeps a imm s
  | shri a imm => exact execShri_keeps a imm s
  | srai a imm => exact execSrai_keeps a imm s
  | li a imm => exact execLi_keeps a imm s
  | ori a imm => exact execOri_keeps a imm s
  | xori a imm => exact execXori_keeps a imm s
  | cmp cond p b c => exact execCmp_keeps cond p b c s
  | cmpu cond p b c => exact execCmpu_keeps cond p b c s
  | sel a b p => exact execSel_keeps a b p s
  | plog op p b c => exact execPlog_keeps op p b c s
  | extu a b pos len => exact execExtu_keeps a b pos len s
  | exts a b pos len => exact execExts_keeps a b pos len s
  | ins a b pos len => exact execIns_keeps a b pos len s
  | clz a b w => exact execClz_keeps a b w s
  | ctz a b w => exact execCtz_keeps a b w s
  | popc a b w => exact execPopc_keeps a b w s
  | ldB a b off ord => exact execLdB_keeps a b off ord s
  | ldH a b off ord => exact execLdH_keeps a b off ord s
  | ldW a b off ord => exact execLdW_keeps a b off ord s
  | ldD a b off ord => exact execLdD_keeps a b off ord s
  | stB a b off ord => exact execStB_keeps a b off ord s
  | stH a b off ord => exact execStH_keeps a b off ord s
  | stW a b off ord => exact execStW_keeps a b off ord s
  | stD a b off ord => exact execStD_keeps a b off ord s
  | ldx size a b c off ord => exact execLdx_keeps size a b c off ord s
  | stx size a b c off ord => exact execStx_keeps size a b c off ord s
  | aadd a b c off ord => exact execAadd_keeps a b c off ord s
  | aswp a b c off ord => exact execAswp_keeps a b c off ord s
  | acas a b c off ord => exact execAcas_keeps a b c off ord s
  | br off => exact execBr_keeps off s
  | call off => exact execCall_keeps off s
  | brp p off => exact execBrp_keeps p off s
  | brpF p off => exact execBrpF_keeps p off s
  | jr b => exact execJr_keeps b s
  | callr b => exact execCallr_keeps b s
  | send a b ctx ord => exact execSend_keeps a b ctx ord s
  | reply b ctx ord => exact execReply_keeps b ctx ord s
  | done => exact execDone_keeps s
  | fadd a b c => exact execFadd_keeps a b c s
  | fsub a b c => exact execFsub_keeps a b c s
  | fmul a b c => exact execFmul_keeps a b c s
  | fma a b c => exact execFma_keeps a b c s
  | fcmp cond p b c => exact execFcmp_keeps cond p b c s
  | unassignedEncoding => exact execUnassignedEncoding_keeps s
  | fdiv a b c => exact execFdiv_keeps a b c s
  | fsqrt a b => exact execFsqrt_keeps a b s
  | fmin a b c => exact execFmin_keeps a b c s
  | fmax a b c => exact execFmax_keeps a b c s
  | fcvt code a b => exact execFcvt_keeps code a b s
  | dadd a b c => exact execDadd_keeps a b c s
  | dsub a b c => exact execDsub_keeps a b c s
  | dmul a b c => exact execDmul_keeps a b c s
  | dfma a b c => exact execDfma_keeps a b c s
  | dcmp cond p b c => exact execDcmp_keeps cond p b c s
  | ddiv a b c => exact execDdiv_keeps a b c s
  | dsqrt a b => exact execDsqrt_keeps a b s
  | dmin a b c => exact execDmin_keeps a b c s
  | dmax a b c => exact execDmax_keeps a b c s
  | dld d b off => exact execDld_keeps d b off s
  | dldBase d b off c => exact execDldBase_keeps d b off c s
  | vadd a b c => exact execVadd_keeps a b c s
  | vsub a b c => exact execVsub_keeps a b c s
  | vmul a b c => exact execVmul_keeps a b c s
  | vfma a b c => exact execVfma_keeps a b c s
  | vdiv a b c => exact execVdiv_keeps a b c s
  | vmin a b c => exact execVmin_keeps a b c s
  | vmax a b c => exact execVmax_keeps a b c s
  | vabs a b => exact execVabs_keeps a b s
  | vneg a b => exact execVneg_keeps a b s
  | vand a b c => exact execVand_keeps a b c s
  | vor a b c => exact execVor_keeps a b c s
  | vxor a b c => exact execVxor_keeps a b c s
  | vshl a b c => exact execVshl_keeps a b c s
  | vshr a b c => exact execVshr_keeps a b c s
  | vsra a b c => exact execVsra_keeps a b c s
  | vexp a b => exact execVexp_keeps a b s
  | vlog a b => exact execVlog_keeps a b s
  | vsqrt a b => exact execVsqrt_keeps a b s
  | vrsq a b => exact execVrsq_keeps a b s
  | vrcp a b => exact execVrcp_keeps a b s
  | vtanh a b => exact execVtanh_keeps a b s
  | vsig a b => exact execVsig_keeps a b s
  | vcmp cond a b c => exact execVcmp_keeps cond a b c s
  | vsel a m b c => exact execVsel_keeps a m b c s
  | vcvt a b => exact execVcvt_keeps a b s
  | vfill a b => exact execVfill_keeps a b s
  | vrsum a b => exact execVrsum_keeps a b s
  | vrmax a b => exact execVrmax_keeps a b s
  | vrmin a b => exact execVrmin_keeps a b s
  | vperm a b c => exact execVperm_keeps a b c s
  | vtrn a b => exact execVtrn_keeps a b s
  | vxch a b c => exact execVxch_keeps a b c s
  | mma n a b c => exact execMma_keeps n a b c s
  | mmat n a b c => exact execMmat_keeps n a b c s
  | msp n a b c => exact execMsp_keeps n a b c s
  | mspt n a b c => exact execMspt_keeps n a b c s
  | mzero n => exact execMzero_keeps n s
  | mld k n b c => exact execMld_keeps k n b c s
  | mst k e5 n b c => exact execMst_keeps k e5 n b c s
  | mcp d src => exact execMcp_keeps d src s
  | madd k d src => exact execMadd_keeps k d src s
  | mtrn d src => exact execMtrn_keeps d src s
  | mtrnD d src => exact execMtrnD_keeps d src s
  | qski a b => exact execQski_keeps a b s
  | qskm a b => exact execQskm_keeps a b s
  | qskq a b c => exact execQskq_keeps a b c s
  | qskr a b c => exact execQskr_keeps a b c s
  | qskn a b => exact execQskn_keeps a b s
  | hhi a b => exact execHhi_keeps a b s
  | hhm a b => exact execHhm_keeps a b s
  | hhq a b c => exact execHhq_keeps a b c s
  | hhn fmt a b => exact execHhn_keeps fmt a b s
  | dci a b => exact execDci_keeps a b s
  | dcm a b => exact execDcm_keeps a b s
  | dce a b => exact execDce_keeps a b s
  | dcn fmt a b => exact execDcn_keeps fmt a b s
  | rngd a b c => exact execRngd_keeps a b c s
  | rngv a b c => exact execRngv_keeps a b c s
  | sendp b ord => exact execSendp_keeps b ord s
  | spawn a b c => exact execSpawn_keeps a b c s
  | kill a b => exact execKill_keeps a b s
  | exit b => exact execExit_keeps b s
  | link b => exact execLink_keeps b s
  | unlink b => exact execUnlink_keeps b s
  | mon a b => exact execMon_keeps a b s
  | demon b => exact execDemon_keeps b s
  | trapx a b => exact execTrapx_keeps a b s
  | timer a b c => exact execTimer_keeps a b c s
  | tcancel p b => exact execTcancel_keeps p b s
  | watch b => exact execWatch_keeps b s
  | wkick => exact execWkick_keeps s
  | fork a b => exact execFork_keeps a b s
  | join => exact execJoin_keeps s
  | arm a b c => exact execArm_keeps a b c s
  | dec a b ord => exact execDec_keeps a b ord s
  | jcget a => exact execJcget_keeps a s
  | jcput b => exact execJcput_keeps b s
  | rstart a b => exact execRstart_keeps a b s
  | supv b => exact execSupv_keeps b s
  | selfq sel a b => exact execSelfq_keeps sel a b s
  | rdln p b => exact execRdln_keeps p b s
  | ctxnew a => exact execCtxnew_keeps a s
  | ctxset p b => exact execCtxset_keeps p b s
  | ctxret b => exact execCtxret_keeps b s
  | ctxq byId a b => exact execCtxq_keeps byId a b s
  | ctxpf p b => exact execCtxpf_keeps p b s
  | commit n => exact execCommit_keeps n s
  | ralloc a b c => exact execRalloc_keeps a b c s
  | rfree b => exact execRfree_keeps b s
  | give a b c => exact execGive_keeps a b c s
  | grant a b => exact execGrant_keeps a b s
  | revoke b => exact execRevoke_keeps b s
  | publish withdraw b => exact execPublish_keeps withdraw b s
  | cpy b => exact execCpy_keeps b s
  | cpyc b ord => exact execCpyc_keeps b ord s
  | deal b ord => exact execDeal_keeps b ord s
  | gath b => exact execGath_keeps b s
  | rst n a b c ord => exact execRst_keeps n a b c ord s
  | rstc n a b c ord => exact execRstc_keeps n a b c ord s
  | rld p a b c ord => exact execRld_keeps p a b c ord s
  | ratom op p a b c ord => exact execRatom_keeps op p a b c ord s
  | mcst b ord => exact execMcst_keeps b ord s
  | pull b => exact execPull_keeps b s
  | wqQuery a b => exact execWqQuery_keeps a b s
  | wqOpen a b => exact execWqOpen_keeps a b s
  | wqClose b => exact execWqClose_keeps b s
  | fenceR sc p => exact execFenceR_keeps sc p s
  | cpye m b => exact execCpye_keeps m b s
  | crd a n => exact execCrd_keeps a n s
  | crdFlags a => exact execCrdFlags_keeps a s
  | crdEntr a => exact execCrdEntr_keeps a s
  | cwr n b => exact execCwr_keeps n b s
  | cwrMbox b => exact execCwrMbox_keeps b s
  | cwrTrapx b => exact execCwrTrapx_keeps b s
  | cwrWatch b => exact execCwrWatch_keeps b s
  | cwrFlags b => exact execCwrFlags_keeps b s
  | fence sc => exact execFence_keeps sc s
  | tfence sc => exact execTfence_keeps sc s
  | sysreq b ord => exact execSysreq_keeps b ord s
  | brk n => exact execBrk_keeps n s
  | nop => exact execNop_keeps s
  | strd p a b => exact execStrd_keeps p a b s
  | stwr p b c => exact execStwr_keeps p b c s
  | sliceTableWrite n => exact execSliceTableWrite_keeps n s
  | coreConfigurationWrite n => exact execCoreConfigurationWrite_keeps n s
  | tagAllocatorWrite n => exact execTagAllocatorWrite_keeps n s
  | pageTableRootWrite n => exact execPageTableRootWrite_keeps n s
  | membershipWrite n => exact execMembershipWrite_keeps n s
  | groupTableWrite n => exact execGroupTableWrite_keeps n s
  | keyset p b => exact execKeyset_keeps p b s
  | keydel p b => exact execKeydel_keeps p b s
  | waveShootdown b c => exact execWaveShootdown_keeps b c s
  | waveRetire b c => exact execWaveRetire_keeps b c s
  | waveModuleLoss b c => exact execWaveModuleLoss_keeps b c s
  | prmtPreempt b => exact execPrmtPreempt_keeps b s
  | prmtHold b => exact execPrmtHold_keeps b s
  | prmtRelease b => exact execPrmtRelease_keeps b s
  | prmtArrival n => exact execPrmtArrival_keeps n s
  | stewardAccessArrival n => exact execStewardAccessArrival_keeps n s
  | messageArrival n => exact execMessageArrival_keeps n s
  | poolArrival n => exact execPoolArrival_keeps n s
  | dispatch core => exact execDispatch_keeps core s
  | dispatchRecallDone core num => exact execDispatchRecallDone_keeps core num s
  | resumption core => exact execResumption_keeps core s
  | budgetExhausted core num => exact execBudgetExhausted_keeps core num s
  | sliceEnd core => exact execSliceEnd_keeps core s
  | stealRequest core num => exact execStealRequest_keeps core num s
  | stealRequestArrival n => exact execStealRequestArrival_keeps n s
  | stealReplyArrival n => exact execStealReplyArrival_keeps n s
  | counterAdvance n => exact execCounterAdvance_keeps n s
  | timerExpiry core num => exact execTimerExpiry_keeps core num s
  | watchdogExpiry core num => exact execWatchdogExpiry_keeps core num s
  | replyDeadlineExpiry core num => exact execReplyDeadlineExpiry_keeps core num s
  | killArrival n => exact execKillArrival_keeps n s
  | exitSignalArrival n => exact execExitSignalArrival_keeps n s
  | overflowWalkEnd core num => exact execOverflowWalkEnd_keeps core num s
  | regionsReturned core num => exact execRegionsReturned_keeps core num s
  | resolutionRequest n => exact execResolutionRequest_keeps n s
  | resolutionAnswer n => exact execResolutionAnswer_keeps n s
  | resolveTmo core num => exact execResolveTmo_keeps core num s
  | yarrowRestartStart core num => exact execYarrowRestartStart_keeps core num s
  | yarrowImageLoaded core num => exact execYarrowImageLoaded_keeps core num s
  | spawnRequestArrival n => exact execSpawnRequestArrival_keeps n s
  | spawnAckArrival n => exact execSpawnAckArrival_keeps n s
  | spawnNameArrival n => exact execSpawnNameArrival_keeps n s
  | linkRequestArrival n => exact execLinkRequestArrival_keeps n s
  | linkAnswerArrival n => exact execLinkAnswerArrival_keeps n s
  | unlinkArrival n => exact execUnlinkArrival_keeps n s
  | replicaHashArrival n => exact execReplicaHashArrival_keeps n s
  | campionTimeout core num => exact execCampionTimeout_keeps core num s
  | outboundRelease core num => exact execOutboundRelease_keeps core num s
  | vectorOpComplete core => exact execVectorOpComplete_keeps core s
  | matrixOpComplete core => exact execMatrixOpComplete_keeps core s
  | summaryOpComplete core => exact execSummaryOpComplete_keeps core s
  | copyComplete core id => exact execCopyComplete_keeps core id s
  | resultArrival core num => exact execResultArrival_keeps core num s
  | remoteOpArrival n => exact execRemoteOpArrival_keeps n s
  | remoteResponseArrival n => exact execRemoteResponseArrival_keeps n s
  | remoteTimeout core num => exact execRemoteTimeout_keeps core num s
  | heldLandingRelease core num => exact execHeldLandingRelease_keeps core num s
  | transferComplete n => exact execTransferComplete_keeps n s
  | combineFlush num => exact execCombineFlush_keeps num s
  | writeBackComplete core num => exact execWriteBackComplete_keeps core num s
  | prefetchFill core num => exact execPrefetchFill_keeps core num s
  | retireWaveArrival wave place => exact execRetireWaveArrival_keeps wave place s
  | retireWaveComplete wave => exact execRetireWaveComplete_keeps wave s
  | shootdownArrival wave place => exact execShootdownArrival_keeps wave place s
  | shootdownComplete wave => exact execShootdownComplete_keeps wave s
  | moduleLossWaveArrival wave place => exact execModuleLossWaveArrival_keeps wave place s
  | waveCompleteMessage wave => exact execWaveCompleteMessage_keeps wave s
  | coreSleep core => exact execCoreSleep_keeps core s
  | coreWake core => exact execCoreWake_keeps core s
  | wakeComplete core => exact execWakeComplete_keeps core s
  | tagRefill core => exact execTagRefill_keeps core s
  | wakingQuery core id => exact execWakingQuery_keeps core id s
  | wqQueryArrival n => exact execWqQueryArrival_keeps n s
  | wqCloseArrival n => exact execWqCloseArrival_keeps n s
  | multicastArrival n => exact execMulticastArrival_keeps n s
  | mergedAckArrival n => exact execMergedAckArrival_keeps n s
  | pullReadArrival n => exact execPullReadArrival_keeps n s
  | reducedLineArrival n => exact execReducedLineArrival_keeps n s
  | groupInstallAck entry => exact execGroupInstallAck_keeps entry s
  | groupInstallTimeout entry => exact execGroupInstallTimeout_keeps entry s
  | flitReceive flit => exact execFlitReceive_keeps flit s
  | flitCrcFail port => exact execFlitCrcFail_keeps port s
  | portDown port => exact execPortDown_keeps port s
  | maskHoldExpiry num => exact execMaskHoldExpiry_keeps num s
  | laneRotation port => exact execLaneRotation_keeps port s
  | laneRetire port lane margin => exact execLaneRetire_keeps port lane margin s
  | laneDegrade port => exact execLaneDegrade_keeps port s
  | heartbeatSend => exact execHeartbeatSend_keeps s
  | heartbeatArrival module => exact execHeartbeatArrival_keeps module s
  | suspect module => exact execSuspect_keeps module s
  | probeTimeout module => exact execProbeTimeout_keeps module s
  | selfLost tenant => exact execSelfLost_keeps tenant s
  | timeSync podTime => exact execTimeSync_keeps podTime s
  | inputLow milliVolts micros => exact execInputLow_keeps milliVolts micros s
  | inputUndervoltage milliVolts micros => exact execInputUndervoltage_keeps milliVolts micros s
  | inputOvervoltage milliVolts micros => exact execInputOvervoltage_keeps milliVolts micros s
  | inputRecovery milliVolts micros => exact execInputRecovery_keeps milliVolts micros s
  | inputLimit milliWatts => exact execInputLimit_keeps milliWatts s
  | dvfsChangeDone die => exact execDvfsChangeDone_keeps die s
  | railSample rail milliVolts tenMilliAmps deciWatts => exact execRailSample_keeps rail milliVolts tenMilliAmps deciWatts s
  | lidSample die region temp => exact execLidSample_keeps die region temp s
  | clampRelease die => exact execClampRelease_keeps die s
  | energyApportion die microJoules => exact execEnergyApportion_keeps die microJoules s
  | moduleReset => exact execModuleReset_keeps s
  | sendApertureWrite req off bytes => exact execSendApertureWrite_keeps req off bytes s
  | bar2Write fn off bytes sealed => exact execBar2Write_keeps fn off bytes sealed s
  | bar2Read fn off len sealed => exact execBar2Read_keeps fn off len sealed s
  | fstatClear req value => exact execFstatClear_keeps req value s
  | hqheadWrite req value => exact execHqheadWrite_keeps req value s
  | hostRegisterWrite req off value => exact execHostRegisterWrite_keeps req off value s
  | hostQueueDelivery fn => exact execHostQueueDelivery_keeps fn s
  | functionLevelReset fn => exact execFunctionLevelReset_keeps fn s
  | tenantCreate n => exact execTenantCreate_keeps n s
  | tenantDestroy n => exact execTenantDestroy_keeps n s
  | map n => exact execMap_keeps n s
  | unmap n => exact execUnmap_keeps n s
  | startRoot n => exact execStartRoot_keeps n s
  | query n => exact execQuery_keeps n s
  | mcastSet n => exact execMcastSet_keeps n s
  | mcastDel n => exact execMcastDel_keeps n s
  | groupCreate n => exact execGroupCreate_keeps n s
  | groupRead n => exact execGroupRead_keeps n s
  | groupDelete n => exact execGroupDelete_keeps n s
  | serviceBadRequest n => exact execServiceBadRequest_keeps n s
  | membershipLossUpdate module => exact execMembershipLossUpdate_keeps module s
  | getVersion fn => exact execGetVersion_keeps fn s
  | getCapabilities fn => exact execGetCapabilities_keeps fn s
  | negotiateAlgorithms fn algs => exact execNegotiateAlgorithms_keeps fn algs s
  | getDigests fn => exact execGetDigests_keeps fn s
  | getCertificate fn => exact execGetCertificate_keeps fn s
  | challenge fn nonce => exact execChallenge_keeps fn nonce s
  | getMeasurements fn index nonce => exact execGetMeasurements_keeps fn index nonce s
  | keyExchange fn nonce => exact execKeyExchange_keeps fn nonce s
  | finish fn session => exact execFinish_keeps fn session s
  | endSession fn session => exact execEndSession_keeps fn session s
  | mctpControl cmd => exact execMctpControl_keeps cmd s
  | pldmSensorRead id => exact execPldmSensorRead_keeps id s
  | capWrite die watts => exact execCapWrite_keeps die watts s
  | tsatWrite value => exact execTsatWrite_keeps value s
  | feedWrite value => exact execFeedWrite_keeps value s
  | firmwareUpdate image => exact execFirmwareUpdate_keeps image s
  | linkBringUp port isSwitch reaches => exact execLinkBringUp_keeps port isSwitch reaches s
  | tdispRequest fn req => exact execTdispRequest_keeps fn req s
  | ideStreamSetup fn selective enable => exact execIdeStreamSetup_keeps fn selective enable s
  | vfEnable count => exact execVfEnable_keeps count s
  | fusedSvnAdvance svn => exact execFusedSvnAdvance_keeps svn s
  | dieCounterSelect die counter source => exact execDieCounterSelect_keeps die counter source s
  | routerCombining core comb => exact execRouterCombining_keeps core comb s

@[simp] theorem State.keeps_groupAlone (s : State) (entry : Nat) : Res.Keeps s.mem (s.groupAlone entry) := by
  simp [State.groupAlone]

theorem State.keeps_spdmServe (s : State) (peer : Nat) (r : SpdmReq) : Res.Keeps s.mem (s.spdmServe peer r) := by
  cases r <;> simp [State.spdmServe]

@[simp] theorem State.keeps_firmwareIn (n : Nat) (s : State) : Res.Keeps s.mem (State.firmwareIn n s) := by
  unfold State.firmwareIn
  split
  · next m f _ =>
    extract_lets t
    have ht : t.mem = s.mem := by simp [t]
    split
    · next r _ =>
      have loaded (h : Memory.Canon s.mem) := State.canon_loadRoot h r
      refine Res.keeps_ite.mpr ⟨fun _ => by simp [ht], fun _ => ?_⟩
      split <;> next hr => simpa [hr] using loaded
    · simp [ht]
    · refine Res.keeps_ite.mpr ⟨fun _ => by simp [ht], fun _ => ?_⟩
      split <;> simp +contextual [ht]
    · next ten _ =>
      split
      · simp [ht]
      · next r _ =>
        have ending (h : Memory.Canon s.mem) := State.canon_endTenant h ten r []
        refine Res.keeps_ite.mpr ⟨fun _ => by simp [ht], fun _ => ?_⟩
        split
        · next hr => simpa [hr] using ending
        · simp
        · next hr => simpa [hr] using ending
    · simp [ht]
    · simp [ht]
    · simp [ht]
    · simp [ht]
    · simp [ht]
    · exact .trans (by simp [ht]) (State.keeps_spdmServe ..)
    · simp [ht]
  · simp

theorem State.keeps_happen (s : State) (k : Inner) (a b : Nat) : Res.Keeps s.mem (s.happen k a b) := by
  unfold State.happen
  refine Res.keeps_ite.mpr ⟨fun _ => by simp, fun _ => ?_⟩
  cases k <;> simp

theorem State.keeps_outRead (s : State) (r : OutRead) : Res.Keeps s.mem (s.outRead r) := by
  cases r with
  | bar0 fn off sealed => exact State.keeps_atFunction s fn sealed (by simp)
  | _ => simp [State.outRead]

/-- A move answers a next state and keeps the canonical form of the memory, unless it names a slot that does not exist. -/
theorem State.keeps_perform (s : State) (m : Move) (h : ∀ core slot, m = .issue core slot → noSlot core slot = false) :
    Res.Keeps s.mem (s.perform m) := by
  cases m with
  | issue core slot =>
    have ready (h : Memory.Canon s.mem) := State.canon_ready h core slot
    simp only [State.perform, h core slot rfl]
    split
    · contradiction
    · split
      · simp
      · next hr => simpa [hr] using ready
      · next hr => simpa [hr] using ready
      · next i t hr => exact .trans (by simpa [hr] using ready) (exec_keeps i t)
  | event i => exact Res.keeps_ite.mpr ⟨fun _ => exec_keeps i s, fun _ => by simp⟩
  | inner k a b => exact s.keeps_happen k a b
  | softError home lost => simp [State.perform]
  | read r => exact Res.keeps_ite.mpr ⟨fun _ => by simp, fun _ => s.keeps_outRead r⟩
  | tick n => simp [State.perform]

theorem step_keeps (s : State) (h : ∀ core slot, s.agenda.head? = some (.issue core slot) → noSlot core slot = false) :
    Res.Keeps s.mem (step s) := by
  unfold step
  split
  · simp
  · next m rest hs => exact State.keeps_perform _ m fun core slot hm => h core slot (by simp [hs, hm])

/-- The one move that stops answers no next state. -/
theorem State.perform_noSlot (s : State) (core slot : Nat) (h : noSlot core slot = true) :
    s.perform (.issue core slot) = .fault .noSuchSlot := by simp [State.perform, h]

/-- Where a step answers a next state, its agenda names no slot that does not exist. -/
theorem noSlot_of_step_next {s t : State} (ht : step s = .next t) {core slot : Nat}
    (hs : s.agenda.head? = some (.issue core slot)) : noSlot core slot = false := by
  obtain ⟨rest, hr⟩ := List.head?_eq_some_iff.mp hs
  refine Bool.eq_false_iff.mpr fun hn => ?_
  simp [step, hr, State.perform_noSlot _ core slot hn] at ht

/-- Settles O57: every arm of `exec` and every other move of the agenda answers a next state (log entry 46). -/
theorem nothingStops : Obligations.NothingStops := by
  refine ⟨fun i s => ?_, fun s h => ?_⟩
  · obtain ⟨t, ht, -⟩ := exec_keeps i s
    exact ⟨t, ht⟩
  · obtain ⟨t, ht, -⟩ := step_keeps s h
    exact ⟨t, ht⟩

/-- Settles O58: a step that answers a next state names no missing slot, and every other move keeps the canonical form. -/
theorem stepKeepsInv : Obligations.StepKeepsInv := by
  intro s t hs ht
  obtain ⟨u, hu, kept⟩ := step_keeps s fun core slot => noSlot_of_step_next ht
  cases hu.symm.trans ht
  exact kept hs

end Sys2Proof.Machine
end

section
/-! PROOFS. An access of a steward at its core, and pre-emption requests: O43. -/

namespace Sys2Proof.Machine

open Sys2Proof

-- In order, not in parallel: the threads of the tests above leave little of the memory that one compile may take.
set_option Elab.async false

/-! ### An access at its core (R359) -/

section Access
variable {s : State} {n core : Nat} {a : StewardAccess} {v : Word}

/-- An access whose turn it is, and which the event picks, is performed. -/
theorem State.accessArrival_of_first {sel : StewardAccess → Bool} (hn : s.net[n]? = some (.steward a))
    (hc : s.ownCore a.target = some core) (awake : s.awake core = true) (first : s.accessFirst n a = true) (picked : sel a = true) :
    s.accessArrival n sel = s.performAccess n core a := by simp [State.accessArrival, hn, hc, awake, first, picked]

theorem StewardAccess.writes_of_some {tbl : Nat} (hv : a.write = some v) (ht : a.tbl.toNat = tbl) : a.writes tbl = true := by
  simp [StewardAccess.writes, hv, ht]

theorem State.performAccess_read (hv : a.write = none) : s.performAccess n core a =
    .next ((s.takePacket n).emit (.response a.core a.rid 0#12 .ok
      (leBytes 8 ((s.takePacket n).tableRead core a.tbl.toNat a.idx.toNat).toNat))) := by simp [State.performAccess, hv]

theorem State.performAccess_refused (hv : a.write = some v)
    (hw : (s.takePacket n).tableWrite core a.tbl.toNat a.idx.toNat v (a.core, a.rid) = .refused) :
    s.performAccess n core a = .next ((s.takePacket n).emit (.response a.core a.rid 0#12 .prot [])) := by
  simp [State.performAccess, hv, hw]

theorem State.performAccess_done {t : State} (hv : a.write = some v)
    (hw : (s.takePacket n).tableWrite core a.tbl.toNat a.idx.toNat v (a.core, a.rid) = .done t) :
    s.performAccess n core a = .next (t.emit (.response a.core a.rid 0#12 .ok [])) := by simp [State.performAccess, hv, hw]

theorem State.performAccess_later {t : State} (hv : a.write = some v)
    (hw : (s.takePacket n).tableWrite core a.tbl.toNat a.idx.toNat v (a.core, a.rid) = .later t) :
    s.performAccess n core a = .next t := by simp [State.performAccess, hv, hw]

end Access

theorem Wrote.of_eq_done {r : Option State} {t : State} : Wrote.of r = .done t ↔ r = some t := by
  cases r <;> simp [Wrote.of]

/-! ### What a written word reads as (R360, R417, R419, R413) -/

/-- A number that a word holds in full is written back as the word. -/
theorem setWidth_setWidth_of_lt {v : Word} (h : v.toNat < 2 ^ 13) : (v.setWidth 13).setWidth 64 = v := by
  apply BitVec.eq_of_toNat_eq
  simp only [BitVec.toNat_setWidth]
  omega

theorem State.writeCfg_read {s t : State} {core i : Nat} {v : Word} (h : s.writeCfg core i v = some t) :
    t.tableRead core 0x08 i = v := by
  show (t.core core).cfg.word i = v
  unfold State.writeCfg at h
  dsimp only at h
  split at h <;>
  · simp only [Option.ite_none_right_eq_some, Option.some.injEq] at h
    obtain ⟨ok, rfl⟩ := h
    simp_all [CoreCfg.word, setWidth_setWidth_of_lt]

theorem State.writeTag_read {s t : State} {core i : Nat} {v : Word} (h : s.writeTag core i v = some t) :
    t.tableRead core 0x09 i = v := by
  show (t.die (dieOf core)).tagWord i = v
  rcases State.writeTag_cases h with ⟨rfl, rfl⟩ | ⟨withheld, rfl⟩
  · simp [Die.tagWord, State.die, State.modDie, Tab.get?_put_self]
  · have : i ≠ 0 := by omega
    have : i ≠ 1 := by omega
    have : ¬i < 4098 := by omega
    simp [Die.tagWord, State.die, State.modDie, Tab.get?_put_self, *]

theorem State.writeMember_read {s t : State} {core i : Nat} {v : Word} (h : s.writeMember i v = some t) :
    t.tableRead core 0x0A i = if i % 2048 = 0 then headerKept v else v := by
  unfold State.writeMember at h
  split at h
  · cases h
  · cases h
    simp [State.tableRead, Tab.get?_put_self]

theorem State.writeRoot_read {s t : State} {core i : Nat} {v : Word} (h : s.writeRoot i v = some t) :
    t.tableRead core 0x0C i = v := by
  unfold State.writeRoot at h
  split at h
  · cases h
  · cases h
    simp [State.tableRead, State.mgate, State.modMgate, Tab.get?_put_self]

theorem State.writeSlice_waits {s t : State} {core i : Nat} {v : Word} (h : s.writeSlice core i v = some t) :
    (t.core core).sliceWrites = (s.core core).sliceWrites ++ [(i, v, s.now core)] ∧ (t.core core).slices = (s.core core).slices := by
  simp only [State.writeSlice, Option.ite_none_right_eq_some, Option.some.injEq] at h
  simp [← h.2]

/-! ### A group header (R430, R431) -/

/-- Management traffic is sealed under a key in every state (R410). -/
theorem State.sealKey_zero (s : State) : ∃ key, s.sealKey 0#12 = some key := by
  unfold State.sealKey
  cases Tab.get? s.fabricKeys (0#12).toNat with
  | none => exact ⟨_, rfl⟩
  | some key => exact ⟨key, rfl⟩

/-- A management flit leaves by its port, behind what has left; the groups and the module stay. -/
theorem State.manageVia_spec (s : State) (port m : Nat) (x : Mgmt) : ∃ hdr tag,
    (s.manageVia port m x).out = s.out ++ [.flit port hdr tag (.manage m s.mod.num.toNat x)] ∧
      (s.manageVia port m x).groups = s.groups ∧ (s.manageVia port m x).mod = s.mod := by
  obtain ⟨key, hk⟩ := s.sealKey_zero
  simp only [State.manageVia, hk]
  exact ⟨_, _, rfl, rfl, rfl⟩

/-- The flits for the switches, sent by a list of ports: each port sends one, and the groups stay. -/
theorem State.manageVia_foldl (x : Mgmt) (l : List Nat) : ∀ s : State,
    (l.foldl (fun s p => s.manageVia p s.mod.num.toNat x) s).groups = s.groups ∧
      (∀ o ∈ s.out, o ∈ (l.foldl (fun s p => s.manageVia p s.mod.num.toNat x) s).out) ∧
      ∀ p ∈ l, ∃ hdr tag, .flit p hdr tag (.manage s.mod.num.toNat s.mod.num.toNat x) ∈
        (l.foldl (fun s p => s.manageVia p s.mod.num.toNat x) s).out := by
  induction l with
  | nil => simp
  | cons q l ih =>
    intro s
    obtain ⟨hdr, tag, out, groups, mod⟩ := s.manageVia_spec q s.mod.num.toNat x
    obtain ⟨ihGroups, ihOut, ihSent⟩ := ih (s.manageVia q s.mod.num.toNat x)
    refine ⟨ihGroups.trans groups, fun o ho => ihOut o (by simp [out, ho]), fun p hp => ?_⟩
    rcases List.mem_cons.mp hp with rfl | hp
    · exact ⟨hdr, tag, ihOut _ (by simp [out])⟩
    · have := ihSent p hp
      rwa [mod] at this

theorem State.manageSwitches_spec (s : State) (x : Mgmt) : (s.manageSwitches x).groups = s.groups ∧
    ∀ p ∈ s.switchPorts, ∃ hdr tag, .flit p hdr tag (.manage s.mod.num.toNat s.mod.num.toNat x) ∈ (s.manageSwitches x).out :=
  have ⟨groups, _, sent⟩ := State.manageVia_foldl x s.switchPorts s
  ⟨groups, sent⟩

/-- An accepted header: its entry installs or is withdrawn and waits for every switch, and each switch's port sends the flit. -/
theorem State.beginGroup_spec (s : State) (e : Nat) (v : Word) (ack : Option (Nat × Nat)) (answer : Option Msg) :
    ((s.beginGroup e v ack answer).group e).installing = headerValid v ∧
      ((s.beginGroup e v ack answer).group e).withdrawing = !headerValid v ∧
      ((s.beginGroup e v ack answer).group e).awaits = s.switchPorts ∧
      ∀ p ∈ s.switchPorts, ∃ hdr tag, .flit p hdr tag (.manage s.mod.num.toNat s.mod.num.toNat
        (if headerValid v then .install e v (s.group e).keys else .withdraw e)) ∈ (s.beginGroup e v ack answer).out := by
  unfold State.beginGroup
  extract_lets valid u
  have entry : u.group e = { s.group e with
      header := v &&& ~~~(1#64 <<< 30), installing := valid, withdrawing := !valid, installed := false, ackTo := ack,
      answerTo := answer, since := s.mod.timeNs, awaits := s.switchPorts } := by
    simp [u, State.group, State.modGroup, Tab.get?_put_self]
  obtain ⟨groups, sent⟩ := u.manageSwitches_spec (if valid then .install e v (u.group e).keys else .withdraw e)
  have begun : (u.manageSwitches (if valid then .install e v (u.group e).keys else .withdraw e)).group e = u.group e := by
    rw [State.group, groups, State.group]
  rw [begun]
  rw [entry] at sent ⊢
  exact ⟨rfl, rfl, rfl, sent⟩

/-! ### Pre-emption requests (R363) -/

/-- A saved handler holds no slot. -/
theorem Handler.slot?_save (h : Handler) (now : Nat) (why : PreemptWhy) : (h.save now why).status.slot? = none := by
  unfold Handler.save
  dsimp only
  split <;> rfl

/-- Writing a byte changes memory and its line's marks only. -/
theorem State.writeHome_frame (s : State) (a : Nat) (b : Byte) :
    (s.writeHome a b).cores = s.cores ∧ (s.writeHome a b).net = s.net := by
  simp only [State.writeHome, State.openLine]
  split <;> exact ⟨rfl, rfl⟩

theorem State.writeBytes_frame (bs : List Byte) : ∀ (s : State) (a : Nat),
    (s.writeBytes a bs).cores = s.cores ∧ (s.writeBytes a bs).net = s.net := by
  induction bs with
  | nil => exact fun _ _ => ⟨rfl, rfl⟩
  | cons b bs ih =>
    intro s a
    obtain ⟨cores, net⟩ := s.writeHome_frame a b
    exact ⟨(ih _ _).1.trans cores, (ih _ _).2.trans net⟩

theorem State.writeItems_frame (core rec : Nat) (l : List (Nat × List Byte)) : ∀ s : State,
    (s.writeItems core rec l).cores = s.cores ∧ (s.writeItems core rec l).net = s.net := by
  induction l with
  | nil => exact fun _ => ⟨rfl, rfl⟩
  | cons x l ih =>
    intro s
    obtain ⟨cores, net⟩ := State.writeBytes_frame x.2 s (recordHome core rec x.1)
    exact ⟨(ih _).1.trans cores, (ih _).2.trans net⟩

/-- What a pre-emption does to the records of its core: a handler in a slot is saved, and every other record stays. -/
theorem State.preempt_cases (s : State) (core rec : Nat) (why : PreemptWhy) :
    (s.preempt core rec why).net = s.net ∧
      ((∀ h, Tab.get? (s.core core).handlers rec = some h → h.status.slot? = none) ∧ s.preempt core rec why = s ∨
        ∃ (h : Handler) (now : Nat), ((s.preempt core rec why).core core).handlers = Tab.put (s.core core).handlers rec (h.save now why)) := by
  unfold State.preempt
  split
  · next hn => exact ⟨rfl, .inl ⟨by simp [hn], rfl⟩⟩
  · next h hh =>
    split
    · next hs => exact ⟨rfl, .inl ⟨by simp [hh, hs], rfl⟩⟩
    · extract_lets u w
      obtain ⟨cores, net⟩ := State.writeItems_frame core rec h.dirtyItems s
      obtain ⟨-, countNet, -, -, -, countCores⟩ := State.countN_frame w core (w.actor core h.entry).tenant 0x004 1
      refine ⟨countNet.trans net, .inr ⟨h, (u.core core).dispCount, (countCores core).1.trans ?_⟩⟩
      simp only [w, State.core_modCore_self]
      rw [show (u.core core).handlers = (s.core core).handlers by simp only [State.core, u, cores]]

/-- After a pre-emption the handler of the record holds no slot, and the handler of every other record is as before. -/
theorem State.preempt_handlers (s : State) (core rec : Nat) (why : PreemptWhy) (r : Nat) :
    (r = rec → ∀ h, Tab.get? ((s.preempt core rec why).core core).handlers r = some h → h.status.slot? = none) ∧
      (r ≠ rec → Tab.get? ((s.preempt core rec why).core core).handlers r = Tab.get? (s.core core).handlers r) := by
  obtain ⟨-, ⟨free, same⟩ | ⟨g, now, saved⟩⟩ := s.preempt_cases core rec why
  · rw [same]
    exact ⟨fun e => e ▸ free, fun _ => rfl⟩
  · rw [saved]
    refine ⟨?_, fun hr => Tab.get?_put_ne _ _ _ _ hr⟩
    rintro rfl h hh
    rw [Tab.get?_put_self, Option.some.injEq] at hh
    exact hh ▸ g.slot?_save now why

/-- Pre-empting a list of records: none of them holds a slot afterwards, and the others are as before. -/
theorem State.preempt_foldl (core : Nat) (why : PreemptWhy) (r : Nat) (l : List Nat) : ∀ s : State,
    (l.foldl (fun s x => s.preempt core x why) s).net = s.net ∧
      ((∀ h, Tab.get? (s.core core).handlers r = some h → h.status.slot? = none) ∨ r ∈ l →
        ∀ h, Tab.get? ((l.foldl (fun s x => s.preempt core x why) s).core core).handlers r = some h → h.status.slot? = none) ∧
      (r ∉ l → Tab.get? ((l.foldl (fun s x => s.preempt core x why) s).core core).handlers r = Tab.get? (s.core core).handlers r) := by
  induction l with
  | nil => simp
  | cons q l ih =>
    intro s
    obtain ⟨ihNet, ihFree, ihSame⟩ := ih (s.preempt core q why)
    obtain ⟨free, same⟩ := s.preempt_handlers core q why r
    refine ⟨ihNet.trans (s.preempt_cases core q why).1, fun h => ihFree ?_, fun h => ?_⟩
    · by_cases hq : r = q
      · exact .inl (free hq)
      · rw [same hq]
        exact h.imp_right fun h => (List.mem_cons.mp h).resolve_left hq
    · obtain ⟨hq, hl⟩ := not_or.mp (mt List.mem_cons.mpr h)
      exact (ihSame hl).trans (same hq)

theorem Tab.mem_of_get? {α : Type} {t : Tab α} {k : Nat} {v : α} (h : Tab.get? t k = some v) : (k, v) ∈ t := by
  induction t with
  | nil => cases h
  | cons e t ih =>
    obtain ⟨j, w⟩ := e
    simp only [Tab.get?] at h
    split at h
    · next e => cases h; simp [e]
    · exact List.mem_cons_of_mem _ (ih h)

theorem Tab.get?_mapVals {α β : Type} (t : Tab α) (f : Nat → α → β) (k : Nat) :
    Tab.get? (Tab.mapVals t f) k = (Tab.get? t k).map (f k) := by
  induction t with
  | nil => rfl
  | cons e t ih =>
    simp only [Tab.mapVals, List.map_cons, Tab.get?]
    split
    · next h => simp [h]
    · exact ih

/-- What OP 2 does to a handler of the actor `x` at the dispatch `now`: a held one may run again (R363). -/
def Handler.freed (x : Name) (now : Nat) (h : Handler) : Handler :=
  if h.entry = nameSlot x ∧ h.status = .held then { h with status := .preempted, age := now } else h

/-- A freed handler of the actor is not held. -/
theorem Handler.freed_status {x : Name} {now : Nat} {h : Handler} (entry : (h.freed x now).entry = nameSlot x) :
    (h.freed x now).status ≠ .held := by
  unfold Handler.freed at entry ⊢
  split at entry
  · next held => simp [held]
  · next other => rw [if_neg other]; exact fun held => other ⟨entry, held⟩

/-- The request of R363 that finds the actor alive here is taken, and its records are freed or saved. -/
theorem execPrmtArrival_alive {s : State} {n : Nat} {x : Name} {op : BitVec 2} (hn : s.net[n]? = some (.prmt x op))
    (place : nameCore x ≠ hostPlace) (awake : s.awake (nameCore x) = true) (alive : s.alive (nameCore x) x = true) :
    execPrmtArrival n s = if op = 2#2 then
        .next ((s.takePacket n).modCore (nameCore x) fun k =>
          { k with handlers := Tab.mapVals k.handlers fun _ h => h.freed x k.dispCount })
      else .next (((((s.core (nameCore x)).handlers.filter fun h => decide (h.2.entry = nameSlot x)).map (·.1)).foldl
        (fun s r => s.preempt (nameCore x) r (.request (op == 1#2))) (s.takePacket n))) := by
  have alive' : (s.takePacket n).alive (nameCore x) x = true := alive
  simp only [execPrmtArrival, hn, place, awake, alive', Bool.not_true, Bool.false_eq_true, if_false]
  rfl

theorem execPrmtArrival_not_alive {s : State} {n : Nat} {x : Name} {op : BitVec 2} (hn : s.net[n]? = some (.prmt x op))
    (place : nameCore x ≠ hostPlace) (awake : s.awake (nameCore x) = true) (alive : s.alive (nameCore x) x = false) :
    execPrmtArrival n s = .next ((s.takePacket n).count (nameCore x) 0#12 0x037) := by
  have alive' : (s.takePacket n).alive (nameCore x) x = false := alive
  simp [execPrmtArrival, hn, place, awake, alive']

/-- A pre-emption request, not of OP 2, leaves no handler of its actor in a slot. -/
theorem prmtArrival_saves {s : State} {n : Nat} {x : Name} {op : BitVec 2} (hn : s.net[n]? = some (.prmt x op))
    (place : nameCore x ≠ hostPlace) (awake : s.awake (nameCore x) = true) (alive : s.alive (nameCore x) x = true) (hop : op ≠ 2#2) :
    Runs (.prmtArrival n) s fun t => t.net = dropAt s.net n ∧
      ∀ r h, Tab.get? (t.core (nameCore x)).handlers r = some h → h.entry = nameSlot x → h.status.slot? = none := by
  refine ⟨_, (execPrmtArrival_alive hn place awake alive).trans (if_neg hop), ?_⟩
  generalize hl : ((s.core (nameCore x)).handlers.filter fun h => decide (h.2.entry = nameSlot x)).map (·.1) = recs
  refine ⟨(State.preempt_foldl _ _ 0 recs (s.takePacket n)).1, fun r h hh entry => ?_⟩
  obtain ⟨-, free, same⟩ := State.preempt_foldl (nameCore x) (.request (op == 1#2)) r recs (s.takePacket n)
  by_cases hr : r ∈ recs
  · exact free (.inr hr) h hh
  · refine absurd ?_ hr
    rw [same hr] at hh
    rw [← hl]
    exact List.mem_map_of_mem (List.mem_filter.mpr ⟨Tab.mem_of_get? hh, decide_eq_true entry⟩)

/-- A pre-emption request of OP 2 leaves no handler of its actor held. -/
theorem prmtArrival_frees {s : State} {n : Nat} {x : Name} (hn : s.net[n]? = some (.prmt x 2#2))
    (place : nameCore x ≠ hostPlace) (awake : s.awake (nameCore x) = true) (alive : s.alive (nameCore x) x = true) :
    Runs (.prmtArrival n) s fun t => t.net = dropAt s.net n ∧
      ∀ r h, Tab.get? (t.core (nameCore x)).handlers r = some h → h.entry = nameSlot x → h.status ≠ .held := by
  refine ⟨_, (execPrmtArrival_alive hn place awake alive).trans (if_pos rfl), rfl, fun r h hh entry => ?_⟩
  rw [State.core_modCore_self, Tab.get?_mapVals, Option.map_eq_some_iff] at hh
  obtain ⟨g, -, rfl⟩ := hh
  exact Handler.freed_status entry

/-- What O43 says of a pre-emption request. -/
theorem prmtArrival_spec {s : State} {n core : Nat} {x : Name} {op : BitVec 2} (hn : s.net[n]? = some (.prmt x op)) (hx : nameCore x = core) :
    (core = hostPlace → exec (.prmtArrival n) s = .next ((s.takePacket n).count gateCore 0#12 0x037)) ∧
    (core ≠ hostPlace → s.awake core = true →
      (s.alive core x = false → exec (.prmtArrival n) s = .next ((s.takePacket n).count core 0#12 0x037)) ∧
      (s.alive core x = true → Runs (.prmtArrival n) s fun t => t.net = dropAt s.net n ∧
        ∀ r h, Tab.get? (t.core core).handlers r = some h → h.entry = nameSlot x →
          (op ≠ 2#2 → h.status.slot? = none) ∧ (op = 2#2 → h.status ≠ .held))) := by
  subst hx
  refine ⟨fun gate => ?_, fun place awake => ⟨execPrmtArrival_not_alive hn place awake, fun alive => ?_⟩⟩
  · show execPrmtArrival n s = _
    simp [execPrmtArrival, hn, gate]
  · by_cases hop : op = 2#2
    · subst hop
      obtain ⟨t, run, net, free⟩ := prmtArrival_frees hn place awake alive
      exact ⟨t, run, net, fun r h hh entry => ⟨(absurd rfl ·), fun _ => free r h hh entry⟩⟩
    · obtain ⟨t, run, net, saved⟩ := prmtArrival_saves hn place awake alive hop
      exact ⟨t, run, net, fun r h hh entry => ⟨fun _ => saved r h hh entry, (absurd · hop)⟩⟩

/-! ### The accesses of O43 -/

section Written
variable {s t' : State} {n core tbl : Nat} {a : StewardAccess} {v : Word}
variable (hn : s.net[n]? = some (.steward a)) (hc : s.ownCore a.target = some core) (awake : s.awake core = true)
  (first : s.accessFirst n a = true) (hv : a.write = some v) (ht : a.tbl.toNat = tbl)
include hn hc awake first hv ht

/-- A write of a table whose event comes is done, and answered OK. -/
theorem State.accessArrival_done (hw : (s.takePacket n).tableWrite core a.tbl.toNat a.idx.toNat v (a.core, a.rid) = .done t') :
    s.accessArrival n (fun a => a.writes tbl) = .next (t'.emit (.response a.core a.rid 0#12 .ok [])) :=
  (State.accessArrival_of_first hn hc awake first (StewardAccess.writes_of_some hv ht)).trans (State.performAccess_done hv hw)

/-- A write that is done and reads back as `w` answers OK and reads back as `w` afterwards. -/
theorem State.runs_reads_back {i : Instr} {w : Word} (hi : exec i s = s.accessArrival n fun a => a.writes tbl)
    (hw : (s.takePacket n).tableWrite core a.tbl.toNat a.idx.toNat v (a.core, a.rid) = .done t')
    (back : t'.tableRead core tbl a.idx.toNat = w) :
    Runs i s fun t => .response a.core a.rid 0#12 .ok [] ∈ t.net ∧ t.tableRead core a.tbl.toNat a.idx.toNat = w :=
  ⟨_, hi.trans (State.accessArrival_done hn hc awake first hv ht hw), by simp [State.emit], ht ▸ back⟩

end Written

/-- An accepted group header begins its installation. -/
theorem State.accessArrival_header {s : State} {n core : Nat} {a : StewardAccess} {v : Word}
    (hn : s.net[n]? = some (.steward a)) (hc : s.ownCore a.target = some core) (awake : s.awake core = true)
    (first : s.accessFirst n a = true) (hv : a.write = some v) (h : a.tbl.toNat = 0x0B) (hi : a.idx.toNat % 1024 = 0)
    (free : ((s.takePacket n).group (a.idx.toNat / 1024)).busy = false)
    (ok : (s.takePacket n).headerOk (a.idx.toNat / 1024) v = true) :
    s.accessArrival n (fun a => a.writes 0x0B) =
      .next ((s.takePacket n).beginGroup (a.idx.toNat / 1024) v (some (a.core, a.rid)) none) := by
  refine (State.accessArrival_of_first hn hc awake first (StewardAccess.writes_of_some hv h)).trans (State.performAccess_later hv ?_)
  rw [h]
  simp [State.tableWrite, hi, free, ok]

/-- Settles O43: each access of a steward is performed as its table says, and each pre-emption request as R363 says. -/
theorem stewardAccesses : Obligations.StewardAccesses := by
  intro s n core
  refine ⟨fun a hn hc awake first => ?_, fun x op hn hx => prmtArrival_spec hn hx⟩
  extract_lets u tbl idx
  refine ⟨fun hr => ?_, fun v hv hw => ?_, fun v t' hv hw => ?_, fun v hv h hi free ok => ?_⟩
  · exact (State.accessArrival_of_first hn hc awake first rfl).trans (State.performAccess_read hr)
  · exact (State.accessArrival_of_first hn hc awake first rfl).trans (State.performAccess_refused hv hw)
  · have back (i : Instr) {k : Nat} {w : Word} (h : tbl = k) (hi : exec i s = s.accessArrival n fun a => a.writes k)
        (read : t'.tableRead core k idx = w) :
        Runs i s fun t => .response a.core a.rid 0#12 .ok [] ∈ t.net ∧ t.tableRead core tbl idx = w :=
      State.runs_reads_back hn hc awake first hv h hi hw read
    have wrote {r : Option State} (eq : u.tableWrite core tbl idx v (a.core, a.rid) = .of r) : r = some t' :=
      Wrote.of_eq_done.mp (eq ▸ hw)
    refine ⟨fun h => ?_, fun h => ?_, fun h => ?_, fun h => ?_, fun h => ?_⟩
    · simpa [h] using back (.coreConfigurationWrite n) h rfl (State.writeCfg_read (wrote (by rw [h]; rfl)))
    · simpa [h] using back (.tagAllocatorWrite n) h rfl (State.writeTag_read (wrote (by rw [h]; rfl)))
    · simpa [h] using back (.membershipWrite n) h rfl (State.writeMember_read (wrote (by rw [h]; rfl)))
    · simpa [h] using back (.pageTableRootWrite n) h rfl (State.writeRoot_read (wrote (by rw [h]; rfl)))
    · exact ⟨_, State.accessArrival_done hn hc awake first hv h hw, State.writeSlice_waits (s := u) (t := t') (wrote (by rw [h]; rfl))⟩
  · exact ⟨_, State.accessArrival_header hn hc awake first hv h hi free ok, State.beginGroup_spec u (idx / 1024) v _ none⟩

end Sys2Proof.Machine
end
